-- ==== Sys2Proof/Word.lean ====
section
/-! DEFINITION. The word types of the NB4: bytes, 32-bit words and 64-bit values (spec/00 R4). -/

namespace Sys2Proof

/-- A byte of memory. -/
abbrev Byte := BitVec 8

/-- A 32-bit instruction word, run value or column. -/
abbrev Word32 := BitVec 32

/-- A 64-bit register value. -/
abbrev Word := BitVec 64

/-- `n` as a 64-bit word, modulo 2^64. -/
abbrev word (n : Nat) : Word := BitVec.ofNat 64 n

end Sys2Proof
end

