-- ==== Sys2Proof/Syntax.lean ====
section
/-! DEFINITION. Syntax of the NB4: source fields, operand records and the one inductive of instructions and
events, one constructor per row of spec/opcode_table.json.  A row with an encoding carries the operand fields of
its word (spec/03 R66, R68); a row without one is an event, and what the outside or an unspecified choice supplies
with it stands in the state's input record.  The rows with operands come first, then those without. -/

namespace Sys2Proof

/-- The four instruction streams of a core (spec/01 R19). -/
inductive Strm where
  | s | a | v | m
  deriving DecidableEq, Repr, Inhabited

/-- Value 0 to 3 of a stream, in the order S, A, V, M. -/
def Strm.idx : Strm → Nat
  | .s => 0 | .a => 1 | .v => 2 | .m => 3

/-- A 6-bit source field (spec/03 R68): a register, a latch of the clause or a pop of a stream register. -/
inductive Src where
  | reg (n : Nat)
  | latch (k : Nat)
  | queue (q : Nat)
  deriving DecidableEq, Repr, Inhabited

/-- Operand fields: layout RR (R66): destination d, W, sources a and b. -/
structure RR where
  (d : Nat)
  (w : Bool)
  (a b : Src)
  (e : Bool)
  deriving DecidableEq, Repr, Inhabited

/-- Operand fields: layout RR with b zero. -/
structure R1 where
  (d : Nat)
  (w : Bool)
  (a : Src)
  (e : Bool)
  deriving DecidableEq, Repr, Inhabited

/-- Operand fields: layout RI: 13-bit immediate i. -/
structure RI where
  (d : Nat)
  (w : Bool)
  (a : Src)
  (i : Nat)
  (e : Bool)
  deriving DecidableEq, Repr, Inhabited

/-- Operand fields: layout RI of a shift: amount n (R94). -/
structure RSh where
  (d : Nat)
  (w : Bool)
  (a : Src)
  (n : Nat)
  (e : Bool)
  deriving DecidableEq, Repr, Inhabited

/-- Operand fields: layout LI: 19-bit immediate i. -/
structure LI where
  (d : Nat)
  (w : Bool)
  (i : Nat)
  (e : Bool)
  deriving DecidableEq, Repr, Inhabited

/-- Operand fields: layout TS: source c, source a, 13-bit immediate i. -/
structure TS where
  (c a : Src)
  (i : Nat)
  (e : Bool)
  deriving DecidableEq, Repr, Inhabited

/-- Operand fields: an immediate i and E alone. -/
structure Imm where
  (i : Nat)
  (e : Bool)
  deriving DecidableEq, Repr, Inhabited

/-- Operand fields: the word fields d, w, a, z, o, e. -/
structure LdF where
  (d : Nat)
  (w : Bool)
  (a : Src)
  (z o : Nat)
  (e : Bool)
  deriving DecidableEq, Repr, Inhabited

/-- Operand fields: the word fields c, a, z, o, e. -/
structure StF where
  (c a : Src)
  (z o : Nat)
  (e : Bool)
  deriving DecidableEq, Repr, Inhabited

/-- Operand fields: the word fields d, w, a, s, f, o, e. -/
structure LdaF where
  (d : Nat)
  (w : Bool)
  (a : Src)
  (s : Nat)
  (f : Bool)
  (o : Nat)
  (e : Bool)
  deriving DecidableEq, Repr, Inhabited

/-- Operand fields: the word fields c, a, s, f, o, e. -/
structure StrelF where
  (c a : Src)
  (s : Nat)
  (f : Bool)
  (o : Nat)
  (e : Bool)
  deriving DecidableEq, Repr, Inhabited

/-- Operand fields: the word fields d, w, a, b, s, z, e. -/
structure CasF where
  (d : Nat)
  (w : Bool)
  (a b : Src)
  (s : Nat)
  (z e : Bool)
  deriving DecidableEq, Repr, Inhabited

/-- Operand fields: the word fields d, w, a, b, s, z, o, e. -/
structure AmoF where
  (d : Nat)
  (w : Bool)
  (a b : Src)
  (s : Nat)
  (z : Bool)
  (o : Nat)
  (e : Bool)
  deriving DecidableEq, Repr, Inhabited

/-- Operand fields: the word fields c, a, t, o, e. -/
structure NaddF where
  (c a : Src)
  (t o : Nat)
  (e : Bool)
  deriving DecidableEq, Repr, Inhabited

/-- Operand fields: the word fields s, e. -/
structure ScopeF where
  (s : Nat)
  (e : Bool)
  deriving DecidableEq, Repr, Inhabited

/-- Operand fields: the word fields d, w, a, b, s, e. -/
structure BindF where
  (d : Nat)
  (w : Bool)
  (a : Src)
  (b s : Nat)
  (e : Bool)
  deriving DecidableEq, Repr, Inhabited

/-- Operand fields: the word fields a, s, f, o, e. -/
structure AcqF where
  (a : Src)
  (s : Nat)
  (f : Bool)
  (o : Nat)
  (e : Bool)
  deriving DecidableEq, Repr, Inhabited

/-- Operand fields: the word fields a, b, e. -/
structure SrcPair where
  (a b : Src)
  (e : Bool)
  deriving DecidableEq, Repr, Inhabited

/-- Operand fields: E alone. -/
structure EndF where
  (e : Bool)
  deriving DecidableEq, Repr, Inhabited

/-- Operand fields: the word fields d, w, e. -/
structure DstF where
  (d : Nat)
  (w e : Bool)
  deriving DecidableEq, Repr, Inhabited

/-- Operand fields: the word fields d, w, n, e. -/
structure DstNum where
  (d : Nat)
  (w : Bool)
  (n : Nat)
  (e : Bool)
  deriving DecidableEq, Repr, Inhabited

/-- Operand fields: the word fields d, w, a, b, x, e. -/
structure EretRunF where
  (d : Nat)
  (w : Bool)
  (a b : Src)
  (x : Nat)
  (e : Bool)
  deriving DecidableEq, Repr, Inhabited

/-- Operand fields: the word fields c, n, e. -/
structure SyswrF where
  (c : Src)
  (n : Nat)
  (e : Bool)
  deriving DecidableEq, Repr, Inhabited

/-- Operand fields: the word fields n, c, l, e. -/
structure LoopImmF where
  (n c l : Nat)
  (e : Bool)
  deriving DecidableEq, Repr, Inhabited

/-- Operand fields: the word fields n, s, l, e. -/
structure LoopRegF where
  (n : Nat)
  (s : Src)
  (l : Nat)
  (e : Bool)
  deriving DecidableEq, Repr, Inhabited

/-- Operand fields: the word fields i, j. -/
structure PairF where
  (i j : Nat)
  deriving DecidableEq, Repr, Inhabited

/-- Operand fields: the word fields d, a, i, e. -/
structure TdmakeF where
  (d : Nat)
  (a : Src)
  (i : Nat)
  (e : Bool)
  deriving DecidableEq, Repr, Inhabited

/-- Operand fields: the word fields d, w, a, b, e. -/
structure TdinfoF where
  (d : Nat)
  (w : Bool)
  (a : Nat)
  (b : Src)
  (e : Bool)
  deriving DecidableEq, Repr, Inhabited

/-- Operand fields: the word fields d, a, b, s, t, e. -/
structure TldF where
  (d a b : Nat)
  (s t e : Bool)
  deriving DecidableEq, Repr, Inhabited

/-- Operand fields: the word fields d, a, b, v, s, t, e. -/
structure TstF where
  (d a b : Nat)
  (v s t e : Bool)
  deriving DecidableEq, Repr, Inhabited

/-- Operand fields: the word fields d, a, b, e. -/
structure VldF where
  (d a b : Nat)
  (e : Bool)
  deriving DecidableEq, Repr, Inhabited

/-- Operand fields: the word fields d, a, b, e. -/
structure SlotSrc where
  (d a : Nat)
  (b : Src)
  (e : Bool)
  deriving DecidableEq, Repr, Inhabited

/-- Operand fields: the word fields d, e. -/
structure Dst where
  (d : Nat)
  (e : Bool)
  deriving DecidableEq, Repr, Inhabited

/-- Operand fields: the word fields d, w, a, e. -/
structure QposF where
  (d : Nat)
  (w : Bool)
  (a : Nat)
  (e : Bool)
  deriving DecidableEq, Repr, Inhabited

/-- Operand fields: the word fields d, a, b, k, c, h, e. -/
structure TcopyF where
  (d a b : Nat)
  (k c : Bool)
  (h : Nat)
  (e : Bool)
  deriving DecidableEq, Repr, Inhabited

/-- Operand fields: the word fields d, a, b, k, h, e. -/
structure TcopyTileF where
  (d a b : Nat)
  (k : Bool)
  (h : Nat)
  (e : Bool)
  deriving DecidableEq, Repr, Inhabited

/-- Operand fields: the word fields a, h, e. -/
structure CwaitF where
  (a : Src)
  (h : Nat)
  (e : Bool)
  deriving DecidableEq, Repr, Inhabited

/-- Operand fields: the word fields h, e. -/
structure ChanF where
  (h : Nat)
  (e : Bool)
  deriving DecidableEq, Repr, Inhabited

/-- Operand fields: the word fields d, w, a, b, s, e. -/
structure ArriveF where
  (d : Nat)
  (w : Bool)
  (a b : Src)
  (s : Nat)
  (e : Bool)
  deriving DecidableEq, Repr, Inhabited

/-- Operand fields: the word fields a, b, s, e. -/
structure BarwaitF where
  (a b : Src)
  (s : Nat)
  (e : Bool)
  deriving DecidableEq, Repr, Inhabited

/-- Operand fields: layout VF (R88): mask m, z, .c as c, last-read marks l (a) and k (b). -/
structure VF where
  (d : Nat)
  (w : Bool)
  (a b : Src)
  (m : Nat)
  (z c l k e : Bool)
  deriving DecidableEq, Repr, Inhabited

/-- Operand fields: the word fields p, d, w, a, b, m, z, l, k, e. -/
structure VcmpF where
  (p d : Nat)
  (w : Bool)
  (a b : Src)
  (m : Nat)
  (z l k e : Bool)
  deriving DecidableEq, Repr, Inhabited

/-- Operand fields: the word fields d, w, a, b, m, c, l, k, e. -/
structure VselF where
  (d : Nat)
  (w : Bool)
  (a b : Src)
  (m : Nat)
  (c l k e : Bool)
  deriving DecidableEq, Repr, Inhabited

/-- Operand fields: the word fields d, w, a, m, z, c, l, e. -/
structure VUn where
  (d : Nat)
  (w : Bool)
  (a : Src)
  (m : Nat)
  (z c l e : Bool)
  deriving DecidableEq, Repr, Inhabited

/-- Operand fields: the word fields d, w, a, b, m, z, c, l, e. -/
structure VcvtF where
  (d : Nat)
  (w : Bool)
  (a : Src)
  (b m : Nat)
  (z c l e : Bool)
  deriving DecidableEq, Repr, Inhabited

/-- Operand fields: the word fields d, a, b, c, l, e. -/
structure VquantF where
  (d : Nat)
  (a : Src)
  (b : Nat)
  (c l e : Bool)
  deriving DecidableEq, Repr, Inhabited

/-- Operand fields: the word fields d, w, a, b, l, k, e. -/
structure VbcastF where
  (d : Nat)
  (w : Bool)
  (a b : Src)
  (l k e : Bool)
  deriving DecidableEq, Repr, Inhabited

/-- Operand fields: the word fields d, w, a, l, e. -/
structure VOne where
  (d : Nat)
  (w : Bool)
  (a : Src)
  (l e : Bool)
  deriving DecidableEq, Repr, Inhabited

/-- Operand fields: the word fields d, w, a, m, l, e. -/
structure VredF where
  (d : Nat)
  (w : Bool)
  (a : Src)
  (m : Nat)
  (l e : Bool)
  deriving DecidableEq, Repr, Inhabited

/-- Operand fields: the word fields d, w, a, b, c, l, k, e. -/
structure VTwo where
  (d : Nat)
  (w : Bool)
  (a b : Src)
  (c l k e : Bool)
  deriving DecidableEq, Repr, Inhabited

/-- Operand fields: the word fields d, w, a, b, c, l, e. -/
structure VTwoX where
  (d : Nat)
  (w : Bool)
  (a b : Src)
  (c l e : Bool)
  deriving DecidableEq, Repr, Inhabited

/-- Operand fields: the word fields d, w, a, b, e. -/
structure VlenF where
  (d : Nat)
  (w : Bool)
  (a : Src)
  (b e : Bool)
  deriving DecidableEq, Repr, Inhabited

/-- Operand fields: the word fields a, b, l, e. -/
structure VstF where
  (a b : Src)
  (l e : Bool)
  deriving DecidableEq, Repr, Inhabited

/-- Operand fields: the word fields d, w, b, e. -/
structure VfillF where
  (d : Nat)
  (w : Bool)
  (b : Src)
  (e : Bool)
  deriving DecidableEq, Repr, Inhabited

/-- Operand fields: the word fields d, w, b, c, e. -/
structure VldsF where
  (d : Nat)
  (w : Bool)
  (b : Src)
  (c e : Bool)
  deriving DecidableEq, Repr, Inhabited

/-- Operand fields: the word fields d, w, a, b, m, z, c, l, e. -/
structure VgatherF where
  (d : Nat)
  (w : Bool)
  (a b : Src)
  (m : Nat)
  (z c l e : Bool)
  deriving DecidableEq, Repr, Inhabited

/-- Operand fields: the word fields d, a, b, m, l, e. -/
structure VscatterF where
  (d : Nat)
  (a b : Src)
  (m : Nat)
  (l e : Bool)
  deriving DecidableEq, Repr, Inhabited

/-- Operand fields: the word fields d, a, e. -/
structure MshapeF where
  (d : Nat)
  (a : Src)
  (e : Bool)
  deriving DecidableEq, Repr, Inhabited

/-- Operand fields: the word fields a, e. -/
structure MldsF where
  (a : Nat)
  (e : Bool)
  deriving DecidableEq, Repr, Inhabited

/-- Operand fields: the word fields a, b, e. -/
structure MldsSpF where
  (a b : Nat)
  (e : Bool)
  deriving DecidableEq, Repr, Inhabited

/-- Operand fields: the word fields d, a, b, p (.sp), s (.bs), e. -/
structure MmaF where
  (d : Nat)
  (a b : Src)
  (p s e : Bool)
  deriving DecidableEq, Repr, Inhabited

/-- Operand fields: the word fields n, a, e. -/
structure MnestF where
  (n : Nat)
  (a : Src)
  (e : Bool)
  deriving DecidableEq, Repr, Inhabited

/-- Operand fields: the word fields d, a, b, p (.sp), s (.bs), e. -/
structure MgoF where
  (d a b : Nat)
  (p s e : Bool)
  deriving DecidableEq, Repr, Inhabited

/-- Operand fields: the word fields d, w, b, e. -/
structure MrptF where
  (d : Nat)
  (w : Bool)
  (b : Nat)
  (e : Bool)
  deriving DecidableEq, Repr, Inhabited

/-- Operand fields: the word fields d, a, e. -/
structure MaccF where
  (d a : Nat)
  (e : Bool)
  deriving DecidableEq, Repr, Inhabited


/-- Every row of spec/opcode_table.json. -/
inductive Instr where
  /-- ADD (R96): S stream: writes a + b modulo 2^64 to d. -/
  | add (f : RR)
  /-- SUB (R96): S stream: writes a − b modulo 2^64 to d. -/
  | sub (f : RR)
  /-- MUL (R96): S stream: writes the low 64 bits of a × b to d. -/
  | mul (f : RR)
  /-- MULH (R96): S stream: writes the upper 64 bits of the signed 128-bit product to d. -/
  | mulh (f : RR)
  /-- DIV (R97): S stream: writes the signed quotient truncated toward zero, and raises DIVZERO for b = 0. -/
  | div (f : RR)
  /-- REM (R97): S stream: writes the signed remainder with the sign of a, and raises DIVZERO for b = 0. -/
  | rem (f : RR)
  /-- AND (R96): S stream: writes the bitwise AND of a and b to d. -/
  | and (f : RR)
  /-- OR (R96): S stream: writes the bitwise OR of a and b to d. -/
  | or (f : RR)
  /-- XOR (R96): S stream: writes the bitwise XOR of a and b to d. -/
  | xor (f : RR)
  /-- ANDN (R96): S stream: writes a AND NOT b to d. -/
  | andn (f : RR)
  /-- SHL (R96): S stream: shifts a left by b[5:0] bits. -/
  | shl (f : RR)
  /-- SHR (R96): S stream: shifts a right logically by b[5:0] bits. -/
  | shr (f : RR)
  /-- SHRA (R96): S stream: shifts a right arithmetically by b[5:0] bits. -/
  | shra (f : RR)
  /-- ROT (R96): S stream: rotates a right by b[5:0] bits. -/
  | rot (f : RR)
  /-- MIN (R96): S stream: writes the signed smaller of a and b. -/
  | min (f : RR)
  /-- MAX (R96): S stream: writes the signed larger of a and b. -/
  | max (f : RR)
  /-- SETEQ (R96): S stream: writes 1 if a = b, else 0. -/
  | seteq (f : RR)
  /-- SETLT (R96): S stream: writes 1 if a < b signed, else 0. -/
  | setlt (f : RR)
  /-- SETLTU (R96): S stream: writes 1 if a < b unsigned, else 0. -/
  | setltu (f : RR)
  /-- POPC (R96): S stream: writes the number of one bits of a. -/
  | popc (f : R1)
  /-- CLZ (R96): S stream: writes the count of leading zero bits of a. -/
  | clz (f : R1)
  /-- CTZ (R96): S stream: writes the count of trailing zero bits of a. -/
  | ctz (f : R1)
  /-- BREV (R96): S stream: writes a with its 64 bits reversed. -/
  | brev (f : R1)
  /-- BEXT (R100): S stream: extracts a sign-extended bit field of a at the offset and width in b. -/
  | bext (f : RR)
  /-- BEXTU (R100): S stream: extracts a zero-extended bit field of a. -/
  | bextu (f : RR)
  /-- BINS (R100): S stream: inserts the low bits of a into a field of old d. -/
  | bins (f : RR)
  /-- FSHL (R100): S stream: funnel-shifts (old d, a) left and keeps the top half. -/
  | fshl (f : RR)
  /-- FSHR (R100): S stream: funnel-shifts (a, old d) right and keeps the bottom half. -/
  | fshr (f : RR)
  /-- ADDI (R98): S stream: adds a sign-extended immediate to a. -/
  | addi (f : RI)
  /-- ANDI (R98): S stream: ANDs a with a zero-extended immediate. -/
  | andi (f : RI)
  /-- ORI (R98): S stream: ORs a with a zero-extended immediate. -/
  | ori (f : RI)
  /-- XORI (R98): S stream: XORs a with a zero-extended immediate. -/
  | xori (f : RI)
  /-- SHLI (R98): S stream: shifts a left by an immediate amount. -/
  | shli (f : RSh)
  /-- SHRI (R98): S stream: shifts a right logically by an immediate amount. -/
  | shri (f : RSh)
  /-- SHRAI (R98): S stream: shifts a right arithmetically by an immediate amount. -/
  | shrai (f : RSh)
  /-- ROTI (R98): S stream: rotates a right by an immediate amount. -/
  | roti (f : RSh)
  /-- MINI (R98): S stream: signed minimum of a and a sign-extended immediate. -/
  | mini (f : RI)
  /-- MAXI (R98): S stream: signed maximum of a and a sign-extended immediate. -/
  | maxi (f : RI)
  /-- SETEQI (R98): S stream: writes 1 if a equals the sign-extended immediate. -/
  | seteqi (f : RI)
  /-- SETLTI (R98): S stream: writes 1 if a is signed-less than the immediate. -/
  | setlti (f : RI)
  /-- SETLTUI (R98): S stream: writes 1 if a is unsigned-less than the sign-extended immediate. -/
  | setltui (f : RI)
  /-- MOVHI (R99): S stream: writes the sign-extended imm19 times 2^13 to d. -/
  | movhi (f : LI)
  /-- BEQ (R101): S stream: branches when a = c. -/
  | beq (f : TS)
  /-- BNE (R101): S stream: branches when a ≠ c. -/
  | bne (f : TS)
  /-- BLT (R101): S stream: branches when a < c signed. -/
  | blt (f : TS)
  /-- BGE (R101): S stream: branches when a ≥ c signed. -/
  | bge (f : TS)
  /-- BLTU (R101): S stream: branches when a < c unsigned. -/
  | bltu (f : TS)
  /-- BGEU (R101): S stream: branches when a ≥ c unsigned. -/
  | bgeu (f : TS)
  /-- JMP (R102): S stream: redirects by a signed word offset. -/
  | jmp (f : Imm)
  /-- JAL (R102): S stream: redirects by a word offset and writes the link to d. -/
  | jal (f : LI)
  /-- JR (R102): S stream: redirects to a + 4 × imm and writes the link to d. -/
  | jr (f : RI)
  /-- XMOV_X_TO_S (R103): S stream: copies an exchange register into an s register. -/
  | xmovXToS (f : R1)
  /-- XMOV_S_TO_X (R103): S stream: copies an s register into an exchange register. -/
  | xmovSToX (f : R1)
  /-- LD (R105): S stream: loads 1 to 8 bytes and widens them into d. -/
  | ld (f : LdF)
  /-- ST (R106): S stream: stores the low bytes of c at commit. -/
  | st (f : StF)
  /-- LDA (R116): S stream: reads an 8-byte object at its home and acquires. -/
  | lda (f : LdaF)
  /-- STREL (R117): S stream: releases and then stores c to the object. -/
  | strel (f : StrelF)
  /-- CAS (R110): S stream: compares and swaps a 32- or 64-bit word at its home. -/
  | cas (f : CasF)
  /-- AMO (R111): S stream: performs an indivisible read-modify-write at the word's home and returns the old value. -/
  | amo (f : AmoF)
  /-- NADD (R113): S stream: sends a near-memory add to the Idmas engine of the target bank. -/
  | nadd (f : NaddF)
  /-- FENCE (R114): S stream: orders preceding and following accesses at a scope. -/
  | fence (f : ScopeF)
  /-- BIND (R119): S stream: writes a binding entry of an address range to an object. -/
  | bind (f : BindF)
  /-- UNBIND (R120): S stream: clears the binding entries of an object and counts them. -/
  | unbind (f : R1)
  /-- ACQ (R116): S stream: acquires after the preceding reads of the object. -/
  | acq (f : AcqF)
  /-- REL (R117): S stream: releases before the following writes of the object. -/
  | rel (f : AcqF)
  /-- LPATCH (R240): S stream: writes a value into a declared patch slot of a launch record. -/
  | lpatch (f : RR)
  /-- LARM (R241): S stream: arms a launch record at the caller's tier plus one. -/
  | larm (f : R1)
  /-- LARMW (R241): S stream: arms a launch record, suspending when the tier is full. -/
  | larmw (f : R1)
  /-- EPUT (R239): S stream: puts an item on a streaming edge if a slot is free. -/
  | eput (f : RR)
  /-- EPUT_W (R239): S stream: puts an item on a streaming edge, suspending when it is full. -/
  | eputW (f : SrcPair)
  /-- SUSP (R237): S stream: suspends the continuation until a semaphore reaches a threshold. -/
  | susp (f : SrcPair)
  /-- SUSP_BAR (R237): S stream: suspends the continuation until a barrier phase changes. -/
  | suspBar (f : SrcPair)
  /-- SUSP_END (R237): S stream: ends the instance as DONE and counts its completion. -/
  | suspEnd (f : EndF)
  /-- YIELD (R238): S stream: suspends as READY if a waiting continuation of at least equal priority exists. -/
  | yield (f : DstF)
  /-- WID (R242): S stream: reads the work identifier or one of its fields. -/
  | wid (f : DstNum)
  /-- NPBEGIN (R243): S stream: opens a non-pre-emptible region. -/
  | npbegin (f : EndF)
  /-- NPEND (R243): S stream: closes a non-pre-emptible region. -/
  | npend (f : EndF)
  /-- TRAP (R234): S stream: commits its clause and then raises SYSCALL. -/
  | trap (f : Imm)
  /-- ERET (R228): S stream: returns to user level and restarts each stream at its TRAPPC. -/
  | eret (f : EndF)
  /-- ERET_RUN (R229): S stream: runs b clauses of a stopped stream at supervisor level and returns a status. -/
  | eretRun (f : EretRunF)
  /-- ERET_FAIL (R230): S stream: ends the continuation as FAILED. -/
  | eretFail (f : EndF)
  /-- SYSRD (R232): S stream: reads a per-core system register. -/
  | sysrd (f : DstNum)
  /-- SYSWR (R232): S stream: writes a per-core system register at commit. -/
  | syswr (f : SyswrF)
  /-- BRK (R234): S stream: raises BREAK precisely and discards its clause. -/
  | brk (f : Imm)
  /-- WFE (R235): S stream: waits for a word to change or a write to it, then reads it at its home. -/
  | wfe (f : RR)
  /-- TKGIVE (R77): Any stream: gives one token to each named stream at commit. -/
  | tkgive (f : ScopeF)
  /-- TKTAKE (R78): Any stream: takes one token from each named stream before the clause issues. -/
  | tktake (f : ScopeF)
  /-- LOOP_IMM (R82): Any stream: opens a zero-overhead loop with an immediate count. -/
  | loopImm (f : LoopImmF)
  /-- LOOP_REG (R82): Any stream: opens a zero-overhead loop with a register count. -/
  | loopReg (f : LoopRegF)
  /-- DPAIR (R80): Any stream: expands two dictionary entries into two clause positions. -/
  | dpair (f : PairF)
  /-- AADD (R123): A stream: writes a + b modulo 2^64. -/
  | aadd (f : RR)
  /-- ASUB (R123): A stream: writes a − b modulo 2^64. -/
  | asub (f : RR)
  /-- AMUL (R123): A stream: writes a × b modulo 2^64. -/
  | amul (f : RR)
  /-- ASHL (R123): A stream: shifts a left by b[5:0]. -/
  | ashl (f : RR)
  /-- ASHR (R123): A stream: shifts a right logically by b[5:0]. -/
  | ashr (f : RR)
  /-- AAND (R123): A stream: writes a AND b. -/
  | aand (f : RR)
  /-- AOR (R123): A stream: writes a OR b. -/
  | aor (f : RR)
  /-- AMIN (R123): A stream: writes the signed smaller of a and b. -/
  | amin (f : RR)
  /-- AMAX (R123): A stream: writes the signed larger of a and b. -/
  | amax (f : RR)
  /-- AADDI (R124): A stream: adds a sign-extended immediate. -/
  | aaddi (f : RI)
  /-- AMULI (R124): A stream: multiplies by a sign-extended immediate. -/
  | amuli (f : RI)
  /-- ASHLI (R124): A stream: shifts left by an immediate. -/
  | ashli (f : RSh)
  /-- ASHRI (R124): A stream: shifts right logically by an immediate. -/
  | ashri (f : RSh)
  /-- AANDI (R124): A stream: ANDs with a zero-extended immediate. -/
  | aandi (f : RI)
  /-- AORI (R124): A stream: ORs with a zero-extended immediate. -/
  | aori (f : RI)
  /-- AMINI (R124): A stream: signed minimum with an immediate. -/
  | amini (f : RI)
  /-- AMAXI (R124): A stream: signed maximum with an immediate. -/
  | amaxi (f : RI)
  /-- ABR (R125): A stream: branches when a ≠ c. -/
  | abr (f : TS)
  /-- XMOV_X_TO_A (R126): A stream: copies an exchange register into an a register. -/
  | xmovXToA (f : R1)
  /-- XMOV_A_TO_X (R126): A stream: copies an a register into an exchange register. -/
  | xmovAToX (f : R1)
  /-- TDMAKE (R129): A stream: reads, checks and installs a descriptor image in a slot. -/
  | tdmake (f : TdmakeF)
  /-- TDINFO (R132): A stream: reads a field of a descriptor slot. -/
  | tdinfo (f : TdinfoF)
  /-- TLD (R134): A stream: loads a tile or its scales from a tensor, with fill. -/
  | tld (f : TldF)
  /-- TST (R135): A stream: stores a tile or its scales into a tensor. -/
  | tst (f : TstF)
  /-- VLD (R136): A stream: loads a vector row into a v register as runs. -/
  | vld (f : VldF)
  /-- VST (R136): A stream: stores a v register into a tensor row. -/
  | vst (f : VldF)
  /-- QBIND (R137): A stream: binds a stream register to a descriptor, walk and operator chain. -/
  | qbind (f : SlotSrc)
  /-- QUNBIND (R142): A stream: unbinds a stream register. -/
  | qunbind (f : Dst)
  /-- QPOS (R142): A stream: reads the number of units popped from a stream register. -/
  | qpos (f : QposF)
  /-- TCOPY (R143): A stream: queues an asynchronous copy between two descriptors. -/
  | tcopy (f : TcopyF)
  /-- TCOPY_TILE (R146): A stream: queues an asynchronous copy from a descriptor into a tile. -/
  | tcopyTile (f : TcopyTileF)
  /-- CWAIT (R147): A stream: waits until a channel's CDONE reaches an identifier and acquires its bytes. -/
  | cwait (f : CwaitF)
  /-- CRESUME (R148): A stream: retries the failing element, block or credit of a suspended channel. -/
  | cresume (f : ChanF)
  /-- CRESUME_ABORT (R148): A stream: discards the suspended transfer and all later transfers of a channel. -/
  | cresumeAbort (f : ChanF)
  /-- CSTAGE (R155): A stream: advances the stage counter and releases copy schedule entries. -/
  | cstage (f : DstNum)
  /-- BARINIT (R152): A stream: initialises a barrier object's TARGET, PHASE and COUNT. -/
  | barinit (f : SrcPair)
  /-- BARARRIVE (R152): A stream: releases preceding writes and credits a barrier. -/
  | bararrive (f : ArriveF)
  /-- BARWAIT (R152): A stream: waits until a barrier's PHASE differs from b[0] and acquires. -/
  | barwait (f : BarwaitF)
  /-- CRCGET (R150): A stream: computes the CRC-64 of up to 4,096 bytes. -/
  | crcget (f : RR)
  /-- VADD (R170): V stream: adds two vectors segment by segment. -/
  | vadd (f : VF)
  /-- VSUB (R170): V stream: subtracts two vectors. -/
  | vsub (f : VF)
  /-- VMUL (R170): V stream: multiplies two vectors. -/
  | vmul (f : VF)
  /-- VFMA (R170): V stream: fused multiply-add into the old destination. -/
  | vfma (f : VF)
  /-- VDIV (R170): V stream: divides two floating-point vectors. -/
  | vdiv (f : VF)
  /-- VMIN (R171): V stream: element-wise minimum. -/
  | vmin (f : VF)
  /-- VMAX (R171): V stream: element-wise maximum. -/
  | vmax (f : VF)
  /-- VAND (R170): V stream: bitwise AND of integer vectors. -/
  | vand (f : VF)
  /-- VOR (R170): V stream: bitwise OR of integer vectors. -/
  | vor (f : VF)
  /-- VXOR (R170): V stream: bitwise XOR of integer vectors. -/
  | vxor (f : VF)
  /-- VSHL (R170): V stream: shifts integer elements left. -/
  | vshl (f : VF)
  /-- VSHR (R170): V stream: shifts integer elements right arithmetically. -/
  | vshr (f : VF)
  /-- VCMP (R172): V stream: compares two vectors into a mask. -/
  | vcmp (f : VcmpF)
  /-- VSEL (R173): V stream: selects a or b element-wise by a mask. -/
  | vsel (f : VselF)
  /-- VMOV (R174): V stream: copies a vector bit for bit. -/
  | vmov (f : VUn)
  /-- VNEG (R174): V stream: negates each element. -/
  | vneg (f : VUn)
  /-- VABS (R174): V stream: takes the absolute value of each element. -/
  | vabs (f : VUn)
  /-- VSQRT (R174): V stream: square root of each element. -/
  | vsqrt (f : VUn)
  /-- VEXP2 (R65): V stream: base-2 exponential of each element. -/
  | vexp2 (f : VUn)
  /-- VLOG2 (R65): V stream: base-2 logarithm of each element. -/
  | vlog2 (f : VUn)
  /-- VRCP (R65): V stream: reciprocal of each element. -/
  | vrcp (f : VUn)
  /-- VRSQRT (R65): V stream: reciprocal square root of each element. -/
  | vrsqrt (f : VUn)
  /-- VTANH (R65): V stream: hyperbolic tangent of each element. -/
  | vtanh (f : VUn)
  /-- VSIGM (R65): V stream: logistic sigmoid of each element. -/
  | vsigm (f : VUn)
  /-- VCVT (R175): V stream: converts a vector to another format. -/
  | vcvt (f : VcvtF)
  /-- VQUANT (R176): V stream: quantises a vector into block-scaled elements and scales. -/
  | vquant (f : VquantF)
  /-- VBCAST (R183): V stream: broadcasts a's first run to the length of b. -/
  | vbcast (f : VbcastF)
  /-- VIOTA (R183): V stream: writes 0 to L(a) − 1 as INT32 runs. -/
  | viota (f : VOne)
  /-- VRSUM (R177): V stream: sums a vector's kept segments to one element. -/
  | vrsum (f : VredF)
  /-- VRMAX (R177): V stream: reduces a vector to its maximum. -/
  | vrmax (f : VredF)
  /-- VRMIN (R177): V stream: reduces a vector to its minimum. -/
  | vrmin (f : VredF)
  /-- VCOMPRESS (R178): V stream: keeps the elements where a mask is 1, resumably. -/
  | vcompress (f : VTwo)
  /-- VEXPAND (R179): V stream: spreads a over the 1-positions of a mask. -/
  | vexpand (f : VTwo)
  /-- VSLICE (R180): V stream: takes a contiguous range of elements. -/
  | vslice (f : VTwoX)
  /-- VCAT (R180): V stream: appends b to a. -/
  | vcat (f : VTwo)
  /-- VEXTEND (R181): V stream: appends one run given by a run image. -/
  | vextend (f : VTwoX)
  /-- VCOAL (R182): V stream: merges equal adjacent runs of a. -/
  | vcoal (f : VOne)
  /-- VRUNS (R184): V stream: writes the run count of a vector or mask to x. -/
  | vruns (f : VlenF)
  /-- VLEN (R184): V stream: writes the length and tag of a vector or mask to x. -/
  | vlen (f : VlenF)
  /-- VSPILL (R187): V stream: writes a register's complete run image to scratch. -/
  | vspill (f : VstF)
  /-- VFILL (R187): V stream: rebuilds a register from a spill image in scratch. -/
  | vfill (f : VfillF)
  /-- VLDS (R186): V stream: loads a vector from scratch in dense or run-stream form. -/
  | vlds (f : VldsF)
  /-- VSTS (R186): V stream: stores a vector to scratch in dense or run-stream form. -/
  | vsts (f : VstF)
  /-- VGATHER (R188): V stream: gathers scratch elements through an index vector. -/
  | vgather (f : VgatherF)
  /-- VSCATTER (R188): V stream: scatters elements to scratch through an index vector. -/
  | vscatter (f : VscatterF)
  /-- VMOVX_TO_V (R184): V stream: builds a one-run vector from a run image in x. -/
  | vmovxToV (f : R1)
  /-- VMOVX_TO_X (R184): V stream: writes the image of a vector's first run to x. -/
  | vmovxToX (f : R1)
  /-- MAND (R189): V stream: ANDs two masks. -/
  | mand (f : RR)
  /-- MOR (R189): V stream: ORs two masks. -/
  | mor (f : RR)
  /-- MXOR (R189): V stream: XORs two masks. -/
  | mxor (f : RR)
  /-- MNOT (R189): V stream: inverts a mask. -/
  | mnot (f : R1)
  /-- MPOPC (R189): V stream: counts the 1 elements of a mask into x. -/
  | mpopc (f : R1)
  /-- MSHAPE (R196): M stream: writes a tile shape and zeroes the tile. -/
  | mshape (f : MshapeF)
  /-- CSHAPE (R197): M stream: writes an accumulator shape and zeroes it. -/
  | cshape (f : MshapeF)
  /-- MZERO_C (R198): M stream: zeroes an accumulator. -/
  | mzeroC (f : Dst)
  /-- MZERO_T (R198): M stream: zeroes a tile's data and scales. -/
  | mzeroT (f : Dst)
  /-- MLDS (R199): M stream: captures a dense tile into the shadow stationary plane. -/
  | mlds (f : MldsF)
  /-- MLDS_SP (R200): M stream: captures a 2:4 sparse tile and its metadata into the shadow plane. -/
  | mldsSp (f : MldsSpF)
  /-- MSWAP (R201): M stream: exchanges shadow and active planes of every course. -/
  | mswap (f : EndF)
  /-- MMA (R205): M stream: multiplies A by the stationary operand and accumulates into c in fold order. -/
  | mma (f : MmaF)
  /-- MNEST (R215): M stream: writes one level of the shadow loop-nest table. -/
  | mnest (f : MnestF)
  /-- MGO (R216): M stream: runs the whole loop nest of MMAs as one resumable instruction. -/
  | mgo (f : MgoF)
  /-- MWAIT (R202): M stream: waits until earlier MLDS reads have finished. -/
  | mwait (f : EndF)
  /-- MRPT (R210): M stream: reads a word of the fold report. -/
  | mrpt (f : MrptF)
  /-- MMODE (R219): M stream: swaps the MMODE register with x. -/
  | mmode (f : R1)
  /-- MACC_CVT (R218): M stream: converts an accumulator into a tile. -/
  | maccCvt (f : MaccF)
  /-- MACC_RELU (R218): M stream: converts max(c, +0) into a tile. -/
  | maccRelu (f : MaccF)
  /-- MACC_ADD (R218): M stream: adds one accumulator into another. -/
  | maccAdd (f : MaccF)
  /-- MACC_SCL (R218): M stream: scales an accumulator by an FP32 value. -/
  | maccScl (f : SlotSrc)
  /-- MACC_LD (R218): M stream: loads a tile's values into an accumulator. -/
  | maccLd (f : MaccF)
  /-- MTEST (R214): M stream: tests all four courses and fences those that fail. -/
  | mtest (f : DstF)
  /-- ACT (R251): Idmas: opens a row in a bank. -/
  | act (k : Nat) (r : Nat) (i : Bool)
  /-- PRE (R251): Idmas: closes one bank; a row boundary. -/
  | pre (k : Nat)
  /-- REF (R251): Idmas: refreshes a closed bank. -/
  | ref (k : Nat)
  /-- RD (R252): Idmas: reads the open row of a bank into W. -/
  | rd (k : Nat)
  /-- WR (R251): Idmas: writes a 1 KiB source into the open row of a bank. -/
  | wr (k : Nat) (s : Nat)
  /-- CMP (R256): Idmas: compares every column with K under M into T. -/
  | cmp (o : Nat) (s : Nat) (n : Bool)
  /-- AWR (R257): Idmas: writes K under M into columns selected by T. -/
  | awr (d : Nat)
  /-- TTP (R258): Idmas: truth-table pass writing a bit slice of W. -/
  | ttp (x : Nat) (y : Nat) (z : Nat) (t : Nat)
  /-- TTP_T (R258): Idmas: truth-table pass writing T. -/
  | ttpT (x : Nat) (y : Nat) (t : Nat)
  /-- TAND (R259): Idmas: ANDs T with a bit slice of W. -/
  | tand (x : Nat) (n : Bool)
  /-- TOR (R259): Idmas: ORs T with a bit slice of W. -/
  | tor (x : Nat) (n : Bool)
  /-- TCNT (R259): Idmas: counts the 1 bits of T into an e register. -/
  | tcnt (d : Nat)
  /-- SETK (R261): Idmas: sets the key K from an e register. -/
  | setk (s : Nat)
  /-- SETM (R261): Idmas: sets the mask M from an e register. -/
  | setm (s : Nat)
  /-- MOVI (R260): Idmas: loads a sign-extended immediate into an e register. -/
  | movi (d : Nat) (i : Nat)
  /-- MOVI_ADD (R260): Idmas: adds a sign-extended immediate to an e register. -/
  | moviAdd (d : Nat) (i : Nat)
  /-- MOVI_SH (R260): Idmas: shifts an e register left by 21 and inserts an immediate. -/
  | moviSh (d : Nat) (i : Nat)
  /-- VLDE (R262): Idmas: widens elements of W into VV. -/
  | vlde (f : Nat) (o : Nat)
  /-- MV (R264): Idmas: multiplies row segments by VV and accumulates into a bank accumulator. -/
  | mv (a : Nat) (f : Nat) (l : Nat)
  /-- SADD (R265): Idmas: adds a scaled FP32 row into a bank accumulator. -/
  | sadd (a : Nat) (j : Nat) (i : Bool)
  /-- RED_ADD (R266): Idmas: adds one bank accumulator into another lane by lane. -/
  | redAdd (d : Nat) (s : Nat)
  /-- RED_MAX (R266): Idmas: takes the lane-wise maximum of two bank accumulators. -/
  | redMax (d : Nat) (s : Nat)
  /-- RED_SUM (R266): Idmas: sums the 256 lanes of a bank accumulator into an e register. -/
  | redSum (s : Nat) (e : Nat)
  /-- ACCZ (R267): Idmas: zeroes a bank accumulator. -/
  | accz (a : Nat)
  /-- ACCZ_W (R267): Idmas: copies W into a bank accumulator. -/
  | acczW (a : Nat)
  /-- ACCST (R268): Idmas: writes a bank accumulator into W in a chosen format. -/
  | accst (a : Nat) (f : Nat)
  /-- MCAST (R269): Idmas: writes a row into every bank of the via group. -/
  | mcast (k : Nat) (s : Nat) (r : Nat)
  /-- BGCOPY (R270): Idmas: copies a row between banks over the internal bus. -/
  | bgcopy (s : Nat) (e : Nat) (d : Nat) (f : Nat)
  /-- NADDX (R273): Idmas: applies all queued and flushable adds at a row boundary. -/
  | naddx (d : Nat)
  /-- SIG (R275): Idmas: performs its writes at a scope and posts an add to a semaphore. -/
  | sig (l : Nat) (c : Nat) (v : Nat)
  /-- WAITS (R276): Idmas: waits until a semaphore reaches a threshold and acquires. -/
  | waits (l : Nat) (c : Nat) (v : Nat)
  /-- IDMAS_JMP (R277): Idmas: jumps to an absolute control-store index. -/
  | idmasJmp (t : Nat)
  /-- BNZ (R277): Idmas: optionally decrements an e register and branches when it is non-zero. -/
  | bnz (e : Nat) (d : Bool) (t : Nat)
  /-- IDMAS_LOOP (R278): Idmas: opens a zero-overhead loop with an immediate count. -/
  | idmasLoop (n : Nat) (c : Nat) (l : Nat)
  /-- IDMAS_LOOP_REG (R278): Idmas: opens a zero-overhead loop with a count from an e register. -/
  | idmasLoopReg (n : Nat) (s : Nat) (l : Nat)
  /-- HALT (R279): Idmas: ends the instance after draining and precharging. -/
  | halt (c : Nat)
  /-- WFE_TIMEOUT (R235): A WFE stall ends after 65,536 cycles. -/
  | wfeTimeout
  /-- STREAM_FETCH (R138): The core fetches and transforms the next unit of a bound stream register. -/
  | streamFetch
  /-- TRANSFER_COMPLETE (R145): A copy transfer completes at its scope, releasing its bytes and advancing CDONE. -/
  | transferComplete
  /-- COPY_FAULT (R148): A copy element, CRC block or barrier credit fails and the channel suspends with an asynchronous trap. -/
  | copyFault
  /-- MLDS_READ_DONE (R199): The background read of an MLDS finishes filling the shadow plane. -/
  | mldsReadDone
  /-- COURSE_SELF_TEST (R213): The sequencer injects known-pattern products into an idle course and fences it on failure. -/
  | courseSelfTest
  /-- TOKEN (R21): All four streams stalled on tokens for 2^20 cycles raise TOKEN. -/
  | token
  /-- NPR_OVERRUN (R243): A region reaching 65,536 user cycles is closed and NPR_OVERRUN raised. -/
  | nprOverrun
  /-- HANDLER_LIMIT_EXPIRY (R225): A handler running 2^20 cycles is treated as a double fault. -/
  | handlerLimitExpiry
  /-- TRAP_ENTRY (R222): An asynchronous cause is taken at the next boundary, stopping the streams and entering the handler. -/
  | trapEntry
  /-- SRB_EVICTION (R288): A sector read buffer evicts a line by replacement. -/
  | srbEviction
  /-- PRE_ALL (R251): Idmas: closes every bank; a row boundary. -/
  | preAll
  /-- RD_LANDING (R252): An RD's row replaces W 24 engine cycles after issue, or stops the engine on an uncorrectable error. -/
  | rdLanding
  /-- ROWEND (R255): Idmas: marks a row boundary. -/
  | rowend
  /-- TNOT (R259): Idmas: inverts T. -/
  | tnot
  /-- ENGINE_INSTANCE_START (R245): The stack controller starts an engine instance with its initial state. -/
  | engineInstanceStart
  /-- ENGINE_STOP (R283): An engine of a stopped node stops, drains, precharges and reports STOPPED. -/
  | engineStop
  /-- REFRESH_DEADLINE (R254): A bank's refresh deadline passes, scheduling a forced refresh and REFMISS. -/
  | refreshDeadline
  /-- ROW_INTERVAL_EXPIRY (R255): The declared row interval passes with work waiting, forcing a boundary and ROWOVR. -/
  | rowIntervalExpiry
  /-- MAIN_DIE_REQUEST (R320): A main-die access arrives at a bank group's controller queue. -/
  | mainDieRequest
  /-- ARBITRATION_WINDOW (R323): At a row boundary the controller suspends the engine and serves requests, adds and refreshes. -/
  | arbitrationWindow
  /-- NEAR_MEMORY_ADD_ACCEPT (R271): An engine accepts a near-memory add into its queue, applying it at once if idle. -/
  | nearMemoryAddAccept
  /-- DET_FLUSH (R272): At a node's flush point the held adds are applied in key order. -/
  | detFlush
  /-- PSEUDO_CHANNEL_RETIRE (R333): Firmware retires a pseudo-channel, stopping its engines and starting migration. -/
  | pseudoChannelRetire
  /-- MIGRATION_ROW_COPY (R333): The controller copies one row of a retiring pseudo-channel into reserve rows. -/
  | migrationRowCopy
  /-- PSEUDO_CHANNEL_LOSS (R334): A pseudo-channel is lost, its locations become unbacked and contexts are told. -/
  | pseudoChannelLoss
  /-- RAS_POLICY_TRIGGER (R395): A counter threshold under RASPOL triggers a retirement or a core reset. -/
  | rasPolicyTrigger
  /-- KEYSTONE_STORAGE_UE (R393): An uncorrectable Keystone entry fails its graph or is rewritten by firmware. -/
  | keystoneStorageUe
  /-- ADMISSION (R347): Keystone checks and admits or refuses an eligible pending launch. -/
  | admission
  /-- INSTANCE_CREATE (R351): Keystone creates an instance when a record and ready entry are free. -/
  | instanceCreate
  /-- SEMAPHORE_MONITOR_READ (R358): The monitor rereads a semaphore and readies satisfied waiters. -/
  | semaphoreMonitorRead
  /-- DISPATCH_ROUND (R359): Every 64 cycles Keystone places READY continuations on idle cores. -/
  | dispatchRound
  /-- PRE_EMPTION (R361): A continuation is stopped at an allowed boundary and saved into a save slot. -/
  | preEmption
  /-- ASYNC_MEM_UE (R396): An asynchronous uncorrectable error stops the issuing context and fails its items. -/
  | asyncMemUe
  /-- CORE_RESET (R403): A CORERST GO write starts a per-core reset with evacuation. -/
  | coreReset
  /-- CORE_WATCHDOG_EXPIRY (R402): A core watchdog expires and firmware requests a per-core reset. -/
  | coreWatchdogExpiry
  /-- EVACUATION_TIMEOUT (R403): After 2^21 cycles the continuation is evacuated without a save. -/
  | evacuationTimeout
  /-- CORE_RESET_DONE (R403): Re-initialisation and self-test end, RES is set and BUSY clears. -/
  | coreResetDone
  /-- CHECKPOINT_SAVE (R406): CKCTL GO with OP save starts the checkpoint fence and image stream. -/
  | checkpointSave
  /-- CHECKPOINT_RESTORE (R410): CKCTL GO with OP restore writes a checked image back into the device. -/
  | checkpointRestore
  /-- CHECKPOINT_RESUME (R408): CKCTL RESUME releases a held dispatch after a save. -/
  | checkpointResume
  /-- CHECKPOINT_FENCE_TIMEOUT (R406): After 10 ms running continuations are stopped at clause boundaries for the image. -/
  | checkpointFenceTimeout
  /-- CHECKPOINT_STREAM_DONE (R408): Every image write is acknowledged; STATUS becomes 3 and dispatch resumes unless held. -/
  | checkpointStreamDone
  /-- CHECKPOINT_PORT_LOST (R409): An Ethernet port is lost during a save and its blocks move to others, or the save fails. -/
  | checkpointPortLost
  /-- QNOTIFY_WRITE (R372): A host writes TAIL to a queue's notify word and sets its pending bit. -/
  | qnotifyWrite
  /-- QUEUE_ENABLE (R370): A write of QCTL.EN := 1 checks the queue and reads HEAD and NEXTSEQ. -/
  | queueEnable
  /-- QUEUE_DISABLE (R370): A write of QCTL.EN := 0 stops the queue at its next packet boundary. -/
  | queueDisable
  /-- SCANNER_STEP (R373): The scanner serves the next pending queue and accepts up to 16 slots. -/
  | scannerStep
  /-- NOP (R375): Packet that does nothing. -/
  | nop
  /-- ARM (R376): Packet that patches and arms a launch record at tier 0. -/
  | arm
  /-- SIGNAL (R376): Packet that writes or adds to a word at a scope as a release. -/
  | signal
  /-- WAIT (R378): Packet that holds its queue until a word reaches a threshold. -/
  | wait
  /-- WAIT_POLL (R378): Xiost rereads a WAIT word every 2,400 cycles and ends the hold when satisfied. -/
  | waitPoll
  /-- INVAL (R376): Packet that drops cached translations of an ASID range. -/
  | inval
  /-- INVAL_COMPLETE (R376): An INVAL completes once translations are dropped and their accesses performed. -/
  | invalComplete
  /-- CTX (R377): Packet that moves a context between OPEN, STOPPED and CLOSED. -/
  | ctx
  /-- CTX_STOP_COMPLETE (R377): A CTX to STOPPED completes once no continuation or engine instance of the context runs. -/
  | ctxStopComplete
  /-- REC (R389): Packet that starts or stops record or replay mode. -/
  | recPkt
  /-- RECORD_STALL_TIMEOUT (R389): Logged events wait 100 ms on a full buffer and recording stops with OVERRUN. -/
  | recordStallTimeout
  /-- UPDATE (R387): Packet that verifies and installs new firmware on the standby complex. -/
  | update
  /-- UPDATE_STANDBY_READY (R387): The standby reports ready and the active quiesces and exports its state table. -/
  | updateStandbyReady
  /-- UPDATE_STANDBY_BOOT_TIMEOUT (R387): The standby does not report ready within 1 s and the update aborts. -/
  | updateStandbyBootTimeout
  /-- UPDATE_QUIESCE_TIMEOUT (R387): Quiescing and export exceed 10 ms and the update aborts. -/
  | updateQuiesceTimeout
  /-- UPDATE_FLIP (R387): The standby imports the state and becomes active in one step. -/
  | updateFlip
  /-- XIOST_WATCHDOG_FAILOVER (R388): The active complex misses its watchdog for 10 ms and the standby takes over. -/
  | xiostWatchdogFailover
  /-- OWN (R385): Packet that takes over every queue owned by the other port. -/
  | own
  /-- HOST_LINK_DOWN (R384): A host port's link goes down and its queues are held. -/
  | hostLinkDown
  /-- HOST_LINK_UP (R384): A host port's link returns and its queues resume. -/
  | hostLinkUp
  /-- PCIE_LANE_RETRAIN (R419): A PCI Express port drops a failing lane and continues at reduced width. -/
  | pcieLaneRetrain
  /-- PORT_FUNDAMENTAL_RESET (R434): A fundamental reset retrains one port and acts as its physical function's FLR. -/
  | portFundamentalReset
  /-- FLR_VF (R422): A Function Level Reset of a virtual function disables its queues and stops its contexts. -/
  | flrVf
  /-- FLR_PF (R422): A Function Level Reset of a physical function does so for every function and queue of the port. -/
  | flrPf
  /-- FLR_TIMEOUT (R422): At 90 ms of an FLR, still-running continuations are ended and engine nodes stopped. -/
  | flrTimeout
  /-- ATS_INVALIDATION (R421): A host translation invalidation completes once accesses using it are performed. -/
  | atsInvalidation
  /-- HOST_BAR2_READ (R298): A host reads device HBM through BAR2 by physical address. -/
  | hostBar2Read
  /-- HOST_BAR2_WRITE (R315): A host writes device HBM through BAR2 by physical address. -/
  | hostBar2Write
  /-- REGISTER_WRITE (R417): A host write to a BAR0 register that has no behaviour of its own. -/
  | registerWrite
  /-- RASCNT_CLEAR (R394): A host write of 0 clears a corrected-error counter; other writes are ignored. -/
  | rascntClear
  /-- ASIDFN_WRITE (R420): A write of an ASIDFN byte assigns an ASID to a function, storing 0xFF for invalid values. -/
  | asidfnWrite
  /-- VSELF_WRITE (R424): A write of VSELF sets the package index used at the next port training. -/
  | vselfWrite
  /-- VOMEL_FLIT_RECEIVE (R423): A Vomel flit arrives, is checked by CRC, and is delivered or replayed. -/
  | vomelFlitReceive
  /-- VOMEL_LANE_RETRAIN (R423): After 16 consecutive replays a Vomel port retrains and drops failing lanes. -/
  | vomelLaneRetrain
  /-- VOMEL_PORT_DOWN (R425): A Vomel port goes down and its unacknowledged accesses fail. -/
  | vomelPortDown
  /-- PEER_INBOUND_ACCESS (R426): An access from a peer is admitted by an inbound window or refused. -/
  | peerInboundAccess
  /-- ETH_TAIL_NOTIFY (R429): A write to a queue pair's send tail word makes the port run new work requests. -/
  | ethTailNotify
  /-- ETH_WORK_REQUEST_COMPLETE (R429): A work request completes in ring order and optionally adds to its semaphore. -/
  | ethWorkRequestComplete
  /-- ETH_QP_ERROR (R429): A malformed request, fault, remote error, exhausted retries or port loss puts the queue pair in ERROR. -/
  | ethQpError
  /-- ETH_INCOMING_WRITE (R430): An incoming RDMA WRITE is checked against RKEY and translated. -/
  | ethIncomingWrite
  /-- ETH_INCOMING_READ (R430): An incoming RDMA READ is checked against RKEY and served. -/
  | ethIncomingRead
  /-- ETH_INCOMING_SEND (R430): An incoming SEND is placed in the receive ring and RSEM is incremented. -/
  | ethIncomingSend
  /-- GET_VERSION (R439): SPDM request for the supported version. -/
  | getVersion
  /-- GET_CAPABILITIES (R439): SPDM request for capabilities. -/
  | getCapabilities
  /-- NEGOTIATE_ALGORITHMS (R439): SPDM request negotiating Ed25519 and SHA-512. -/
  | negotiateAlgorithms
  /-- GET_DIGESTS (R439): SPDM request for certificate digests. -/
  | getDigests
  /-- GET_CERTIFICATE (R439): SPDM request for the certificate chain in slot 0. -/
  | getCertificate
  /-- GET_MEASUREMENTS (R439): SPDM request for signed measurement digests. -/
  | getMeasurements
  /-- POWER_UP (R432): Supplies come into range and the power-up phases run up to DEVICE_READY. -/
  | powerUp
  /-- POWER_UP_PHASE_TIMEOUT (R432): A power-up phase overruns its limit and power-up fails with PHASE 7. -/
  | powerUpPhaseTimeout
  /-- SENSOR_SAMPLE (R441): Every 10 µs power management samples course and base-die sensors and acts on them. -/
  | sensorSample
  /-- POWER_THROTTLE (R443): A power mean at its limit steps every core clock down by 0.3 GHz. -/
  | powerThrottle
  /-- THERMAL_SHUTDOWN (R442): A shutdown temperature or supply out of range stops every clock and sets THERM. -/
  | thermalShutdown
  /-- UNASSIGNED_STREAM_WORD (R67): A stream fetches a word whose major or fn is unassigned, including the all-zero word, and decode raises ILLEGAL. -/
  | unassignedStreamWord
  /-- UNASSIGNED_ENGINE_WORD (R90): An Idmas engine decodes a word with major 0x00 or 0x20 to 0x3F and stops with status ILLEGAL. -/
  | unassignedEngineWord
  /-- INSTRUCTION_FETCH_FAULT (R74): A fetch of a clause's instruction word fails translation or protection and raises XLATE or PROT at that clause. -/
  | instructionFetchFault
  /-- SUPPLIES_REMOVED (R432): The package's supplies are removed, ending a failed or running package and losing device memory. -/
  | suppliesRemoved
  /-- RECORD_REWRITE_DONE (R436): The flash write of the new configuration record copy finishes after DEVICE_READY, making that copy valid. -/
  | recordRewriteDone
  /-- VOMEL_PORT_UP (R424): A Vomel port completes training and becomes live, changing the set of live ports used for peer routing. -/
  | vomelPortUp
  /-- PCIE_CONFIGURATION_REQUEST (R434): A host sends a PCI Express configuration request, such as BAR sizing or ATS or virtual-function enable, which the port answers. -/
  | pcieConfigurationRequest
  /-- PCIE_FLIT_RECEIVE (R392): A PCI Express port receives a flit, checks its CRC, and replays on failure while counting PREPLAY. -/
  | pcieFlitReceive
  /-- ETH_CONGESTION_NOTIFICATION (R427): An Ethernet port receives a congestion notification packet and lowers its send rate. -/
  | ethCongestionNotification
  /-- ETH_RETRANSMISSION_TIMEOUT (R429): A work request goes unacknowledged and the port retransmits it, counting toward the limit of seven. -/
  | ethRetransmissionTimeout
  /-- UPDATE_SIGNATURE_VERIFIED (R387): The security engine finishes the digest and signature check of an update image, which either refuses it or starts the standby boot. -/
  | updateSignatureVerified
  /-- CHECKPOINT_RESTORE_DONE (R410): The last image block is read and checked, and the restore ends with STATUS 3 or 4. -/
  | checkpointRestoreDone
  /-- RECORD_TAIL_ADVANCE (R389): The host advances TAIL of the record buffer, freeing space for stalled logged events or supplying replay entries. -/
  | recordTailAdvance
  /-- WAITS_REREAD (R276): An engine stalled in WAITS rereads a semaphore that another party, such as a host, changed and ends its stall. -/
  | waitsReread
  deriving DecidableEq, Repr, Inhabited

/-- What the outside, or an unspecified choice, supplies with an event.  Each event reads the fields its rule gives
a meaning (a core, an engine, a port, a queue, an address, ...); the others are ignored. -/
structure Input where
  (core eng chan ident port fn asid queue : Nat := 0)
  (addr value len code : Nat := 0)
  (flag : Bool := false)
  (bytes : List Byte := [])
  (nums : List Nat := [])
  deriving DecidableEq, Repr, Inhabited

/-- Who moves in a step: a stream of a core, an engine, or an event.  Which agent moves next is fixed by no rule of
the spec, so it is data of the state (notes/assumptions/1.md). -/
inductive Turn where
  | stream (core : Nat) (k : Strm)
  | engine (n : Nat)
  | event (i : Instr) (x : Input)
  /-- The next clauses of the streams of a 4-bit mask overlap: those that fault do so at one boundary (spec/03 R75). -/
  | overlap (core mask : Nat)
  /-- The device caches the translation of an address of a context (spec/10 R296). -/
  | cache (asid va : Nat)
  deriving DecidableEq, Repr, Inhabited

end Sys2Proof
end

