-- ==== Sys2Proof/WellFormed.lean ====
section
/-! DEFINITION. Which instructions have an encoding the decoder accepts (spec/03 R67 to R70, R77, R82 and the
field tables of R168, R193, R221, R248): every operand field within what its word and its instruction accept. -/

namespace Sys2Proof

/-- The decoders: one per stream and one for the engines (spec/03 R66). -/
inductive Form where
  | stream (k : Strm)
  | engine
  deriving DecidableEq, Repr, Inhabited

/-- The source names a register of its file (a last-read mark needs this, spec/06 R166). -/
def Src.isReg : Src → Bool
  | .reg _ => true
  | _ => false

/-- A source of the S or A stream (spec/03 R68): a register 0 to 31 or a latch. -/
def Src.isS : Src → Bool
  | .reg n => n < 32
  | .latch k => k < 4
  | .queue _ => false

/-- A v source that accepts a stream register (spec/06 R168, "v, q"). -/
def Src.isV : Src → Bool
  | .reg n => n < 32
  | .latch k => k < 4
  | .queue q => q < 16

/-- A v source that accepts no stream register. -/
def Src.isW : Src → Bool
  | .reg n => n < 32
  | .latch k => k < 4
  | .queue _ => false

/-- An exchange register source (spec/06 R169, spec/07 R193): x0 to x7, or a latch. -/
def Src.isX : Src → Bool
  | .reg n => n < 8
  | .latch k => k < 4
  | .queue _ => false

/-- A mask source: m0 to m7, or a latch (spec/06 R169). -/
def Src.isM : Src → Bool
  | .reg n => n < 8
  | .latch k => k < 4
  | .queue _ => false

/-- A tile or stream register source of MMA (spec/07 R193). -/
def Src.isTQ : Src → Bool
  | .reg n => n < 16
  | .latch _ => false
  | .queue q => q < 16

/-- The even register of a pair: 2 to 30 (spec/04 R119, spec/05 R133). -/
def pairReg (n : Nat) : Bool := 2 ≤ n && n ≤ 30 && n % 2 == 0

/-- The register numbers of spec/08 R232. -/
def isSysReg (n : Nat) : Bool :=
  n ≤ 5 || (8 ≤ n && n ≤ 17) || (20 ≤ n && n ≤ 27) || (32 ≤ n && n ≤ 35) || n == 40 || n == 41 || (48 ≤ n && n ≤ 59) || n == 64

/-- A stream mask of TKGIVE or TKTAKE in stream `k` (spec/03 R77): not empty, and not naming `k`. -/
def tokenMask (k : Strm) (s : Nat) : Bool := 0 < s && s < 16 && s / 2 ^ k.idx % 2 == 0

/-- The count source of LOOP in stream `k` (spec/03 R82). -/
def loopSrc (k : Strm) (x : Src) : Bool :=
  match k with
  | .s | .a => x.isS
  | .v | .m => match x with
    | .reg n => n < 8
    | _ => false

/-- The destination tags of VCVT (spec/06 R175). -/
def cvtTag (b : Nat) : Bool := (1 ≤ b && b ≤ 10) || b == 12 || b == 13

/-- Elements of a 1 KiB row in the engine format code `f` (spec/09 R244, R248). -/
def engineNE (f : Nat) : Nat :=
  match f with
  | 0 => 2048
  | 1 | 2 => 1024
  | 3 | 4 => 512
  | _ => 256

/-- What the fields of ADD, SUB, MUL, MULH, DIV, REM and others may hold. -/
def RR.ok (f : RR) : Bool :=
  (!f.w || f.d == 0) && f.d < 32 && f.a.isS && f.b.isS

/-- What the fields of POPC, CLZ, CTZ, BREV, UNBIND, LARM and others may hold. -/
def R1.ok (f : R1) : Bool :=
  (!f.w || f.d == 0) && f.d < 32 && f.a.isS

/-- What the fields of ADDI, ANDI, ORI, XORI, MINI, MAXI and others may hold. -/
def RI.ok (f : RI) : Bool :=
  (!f.w || f.d == 0) && f.d < 32 && f.a.isS && f.i < 8192

/-- What the fields of SHLI, SHRI, SHRAI, ROTI, ASHLI, ASHRI may hold. -/
def RSh.ok (f : RSh) : Bool :=
  (!f.w || f.d == 0) && f.d < 32 && f.a.isS && f.n < 64

/-- What the fields of MOVHI, JAL may hold. -/
def LI.ok (f : LI) : Bool :=
  (!f.w || f.d == 0) && f.d < 32 && f.i < 524288

/-- What the fields of BEQ, BNE, BLT, BGE, BLTU, BGEU and others may hold. -/
def TS.ok (f : TS) : Bool :=
  f.c.isS && f.a.isS && f.i < 8192

/-- What the fields of XMOV_X_TO_S, XMOV_X_TO_A, VMOVX_TO_V may hold. -/
def R1.ok2 (f : R1) : Bool :=
  (!f.w || f.d == 0) && f.d < 32 && f.a.isX

/-- What the fields of XMOV_S_TO_X, XMOV_A_TO_X may hold. -/
def R1.ok3 (f : R1) : Bool :=
  (!f.w || f.d == 0) && f.d < 8 && f.a.isS

/-- What the fields of ACQ, REL may hold. -/
def AcqF.ok (f : AcqF) : Bool :=
  f.a.isS && f.s < 11 && f.o < 256

/-- What the fields of EPUT_W, SUSP, SUSP_BAR, BARINIT may hold. -/
def SrcPair.ok (f : SrcPair) : Bool :=
  f.a.isS && f.b.isS

/-- What the fields of TRAP, BRK may hold. -/
def Imm.ok (f : Imm) : Bool :=
  f.i < 8192

/-- What the fields of VLD, VST may hold. -/
def VldF.ok (f : VldF) : Bool :=
  f.d < 32 && f.a < 16 && pairReg f.b

/-- What the fields of QUNBIND, MZERO_T may hold. -/
def Dst.ok (f : Dst) : Bool :=
  f.d < 16

/-- What the fields of CRESUME, CRESUME_ABORT may hold. -/
def ChanF.ok (f : ChanF) : Bool :=
  f.h < 8

/-- What the fields of VADD, VSUB, VMUL, VFMA, VDIV, VMIN and others may hold. -/
def VF.ok (f : VF) : Bool :=
  (!f.w || f.d == 0) && f.d < 32 && f.a.isV && f.b.isV && f.m < 8 && (!f.z || f.m != 0) && (!f.l || f.a.isReg) && (!f.k || f.b.isReg)

/-- What the fields of VMOV, VNEG, VABS, VSQRT, VEXP2, VLOG2 and others may hold. -/
def VUn.ok (f : VUn) : Bool :=
  (!f.w || f.d == 0) && f.d < 32 && f.a.isV && f.m < 8 && (!f.z || f.m != 0) && (!f.l || f.a.isReg)

/-- What the fields of VIOTA, VCOAL may hold. -/
def VOne.ok (f : VOne) : Bool :=
  (!f.w || f.d == 0) && f.d < 32 && f.a.isW && (!f.l || f.a.isReg)

/-- What the fields of VRSUM, VRMAX, VRMIN may hold. -/
def VredF.ok (f : VredF) : Bool :=
  (!f.w || f.d == 0) && f.d < 32 && f.a.isV && f.m < 8 && (!f.l || f.a.isReg)

/-- What the fields of VCOMPRESS, VEXPAND may hold. -/
def VTwo.ok (f : VTwo) : Bool :=
  (!f.w || f.d == 0) && f.d < 32 && f.a.isV && f.b.isM && (!f.l || f.a.isReg) && (!f.k || f.b.isReg)

/-- What the fields of VSLICE, VEXTEND may hold. -/
def VTwoX.ok (f : VTwoX) : Bool :=
  (!f.w || f.d == 0) && f.d < 32 && f.a.isW && f.b.isX && (!f.l || f.a.isReg)

/-- What the fields of VRUNS, VLEN may hold. -/
def VlenF.ok (f : VlenF) : Bool :=
  (!f.w || f.d == 0) && f.d < 8 && (if f.b then f.a.isM else f.a.isW)

/-- What the fields of VSPILL, VSTS may hold. -/
def VstF.ok (f : VstF) : Bool :=
  f.a.isW && f.b.isX && (!f.l || f.a.isReg)

/-- What the fields of MAND, MOR, MXOR may hold. -/
def RR.ok2 (f : RR) : Bool :=
  (!f.w || f.d == 0) && f.d < 8 && f.a.isM && f.b.isM

/-- What the fields of MNOT, MPOPC may hold. -/
def R1.ok4 (f : R1) : Bool :=
  (!f.w || f.d == 0) && f.d < 8 && f.a.isM

/-- What the fields of MACC_CVT, MACC_RELU may hold. -/
def MaccF.ok (f : MaccF) : Bool :=
  f.d < 16 && f.a < 8

/-- Well-formedness of the S stream rows, each field as its word admits it; the rows of other decoders are not. -/
def Instr.wfS : Instr → Bool
  | .add f => f.ok
  | .sub f => f.ok
  | .mul f => f.ok
  | .mulh f => f.ok
  | .div f => f.ok
  | .rem f => f.ok
  | .and f => f.ok
  | .or f => f.ok
  | .xor f => f.ok
  | .andn f => f.ok
  | .shl f => f.ok
  | .shr f => f.ok
  | .shra f => f.ok
  | .rot f => f.ok
  | .min f => f.ok
  | .max f => f.ok
  | .seteq f => f.ok
  | .setlt f => f.ok
  | .setltu f => f.ok
  | .popc f => f.ok
  | .clz f => f.ok
  | .ctz f => f.ok
  | .brev f => f.ok
  | .bext f => f.ok
  | .bextu f => f.ok
  | .bins f => f.ok
  | .fshl f => f.ok
  | .fshr f => f.ok
  | .addi f => f.ok
  | .andi f => f.ok
  | .ori f => f.ok
  | .xori f => f.ok
  | .shli f => f.ok
  | .shri f => f.ok
  | .shrai f => f.ok
  | .roti f => f.ok
  | .mini f => f.ok
  | .maxi f => f.ok
  | .seteqi f => f.ok
  | .setlti f => f.ok
  | .setltui f => f.ok
  | .movhi f => f.ok
  | .beq f => f.ok
  | .bne f => f.ok
  | .blt f => f.ok
  | .bge f => f.ok
  | .bltu f => f.ok
  | .bgeu f => f.ok
  | .jmp f => f.i < 524288
  | .jal f => f.ok
  | .jr f => f.ok
  | .xmovXToS f => f.ok2
  | .xmovSToX f => f.ok3
  | .ld f => (!f.w || f.d == 0) && f.d < 32 && f.a.isS && f.z < 7 && f.o < 1024
  | .st f => f.c.isS && f.a.isS && f.z < 4 && f.o < 2048
  | .lda f => (!f.w || f.d == 0) && f.d < 32 && f.a.isS && f.s < 11 && f.o < 256
  | .strel f => f.c.isS && f.a.isS && f.s < 11 && f.o < 256
  | .cas f => (!f.w || f.d == 0) && f.d < 32 && f.a.isS && f.b.isS && f.s < 8
  | .amo f => (!f.w || f.d == 0) && f.d < 32 && f.a.isS && f.b.isS && f.s < 8 && f.o < 8
  | .nadd f => f.c.isS && f.a.isS && f.t < 3 && f.o < 2048
  | .fence f => f.s < 11
  | .bind f => (!f.w || f.d == 0) && f.d < 32 && f.a.isS && pairReg f.b && f.s < 11
  | .unbind f => f.ok
  | .acq f => f.ok
  | .rel f => f.ok
  | .lpatch f => f.ok
  | .larm f => f.ok
  | .larmw f => f.ok
  | .eput f => f.ok
  | .eputW f => f.ok
  | .susp f => f.ok
  | .suspBar f => f.ok
  | .suspEnd _ => true
  | .yield f => (!f.w || f.d == 0) && f.d < 32
  | .wid f => (!f.w || f.d == 0) && f.d < 32 && f.n ≤ 6
  | .npbegin _ => true
  | .npend _ => true
  | .trap f => f.ok
  | .eret _ => true
  | .eretRun f => (!f.w || f.d == 0) && f.d < 32 && f.a.isS && f.b.isS && 1 ≤ f.x && f.x ≤ 3
  | .eretFail _ => true
  | .sysrd f => (!f.w || f.d == 0) && f.d < 32 && isSysReg f.n
  | .syswr f => f.c.isS && isSysReg f.n
  | .brk f => f.ok
  | .wfe f => f.ok
  | _ => false

/-- Well-formedness of the A stream rows, each field as its word admits it; the rows of other decoders are not. -/
def Instr.wfA : Instr → Bool
  | .aadd f => f.ok
  | .asub f => f.ok
  | .amul f => f.ok
  | .ashl f => f.ok
  | .ashr f => f.ok
  | .aand f => f.ok
  | .aor f => f.ok
  | .amin f => f.ok
  | .amax f => f.ok
  | .aaddi f => f.ok
  | .amuli f => f.ok
  | .ashli f => f.ok
  | .ashri f => f.ok
  | .aandi f => f.ok
  | .aori f => f.ok
  | .amini f => f.ok
  | .amaxi f => f.ok
  | .abr f => f.ok
  | .xmovXToA f => f.ok2
  | .xmovAToX f => f.ok3
  | .tdmake f => f.d < 16 && f.a.isS && f.i < 8192
  | .tdinfo f => (!f.w || f.d == 0) && f.d < 32 && f.a < 16 && f.b.isS
  | .tld f => f.d < 16 && f.a < 16 && pairReg f.b
  | .tst f => f.d < 16 && f.a < 16 && pairReg f.b
  | .vld f => f.ok
  | .vst f => f.ok
  | .qbind f => f.d < 16 && f.a < 16 && f.b.isS
  | .qunbind f => f.ok
  | .qpos f => (!f.w || f.d == 0) && f.d < 32 && f.a < 16
  | .tcopy f => f.d < 32 && f.a < 16 && f.b < 16 && f.h < 8
  | .tcopyTile f => f.d < 32 && f.a < 16 && f.b < 16 && f.h < 8
  | .cwait f => f.a.isS && f.h < 8
  | .cresume f => f.ok
  | .cresumeAbort f => f.ok
  | .cstage f => (!f.w || f.d == 0) && f.d < 32 && 1 ≤ f.n && f.n < 256
  | .barinit f => f.ok
  | .bararrive f => (!f.w || f.d == 0) && f.d < 32 && f.a.isS && f.b.isS && f.s < 11
  | .barwait f => f.a.isS && f.b.isS && f.s < 11
  | .crcget f => f.ok
  | _ => false

/-- Well-formedness of the V stream rows, each field as its word admits it; the rows of other decoders are not. -/
def Instr.wfV : Instr → Bool
  | .vadd f => f.ok
  | .vsub f => f.ok
  | .vmul f => f.ok
  | .vfma f => f.ok
  | .vdiv f => f.ok
  | .vmin f => f.ok
  | .vmax f => f.ok
  | .vand f => f.ok
  | .vor f => f.ok
  | .vxor f => f.ok
  | .vshl f => f.ok
  | .vshr f => f.ok
  | .vcmp f => (!f.w || f.d == 0) && f.p < 4 && (!f.w || f.p == 0) && f.d < 8 && f.a.isV && f.b.isV && f.m < 8 && (!f.z || f.m != 0) && (!f.l || f.a.isReg) && (!f.k || f.b.isReg)
  | .vsel f => (!f.w || f.d == 0) && f.d < 32 && f.a.isV && f.b.isV && 1 ≤ f.m && f.m < 8 && (!f.l || f.a.isReg) && (!f.k || f.b.isReg)
  | .vmov f => f.ok
  | .vneg f => f.ok
  | .vabs f => f.ok
  | .vsqrt f => f.ok
  | .vexp2 f => f.ok
  | .vlog2 f => f.ok
  | .vrcp f => f.ok
  | .vrsqrt f => f.ok
  | .vtanh f => f.ok
  | .vsigm f => f.ok
  | .vcvt f => (!f.w || f.d == 0) && f.d < 32 && f.a.isV && cvtTag f.b && f.m < 8 && (!f.z || f.m != 0) && (!f.l || f.a.isReg)
  | .vquant f => f.d < 32 && f.d % 2 == 0 && f.a.isV && f.b < 64 && f.b % 8 < 5 && f.b / 8 % 4 != 0 && (!f.l || f.a.isReg)
  | .vbcast f => (!f.w || f.d == 0) && f.d < 32 && f.a.isW && f.b.isW && (!f.l || f.a.isReg) && (!f.k || f.b.isReg)
  | .viota f => f.ok
  | .vrsum f => f.ok
  | .vrmax f => f.ok
  | .vrmin f => f.ok
  | .vcompress f => f.ok
  | .vexpand f => f.ok
  | .vslice f => f.ok
  | .vcat f => (!f.w || f.d == 0) && f.d < 32 && f.a.isV && f.b.isV && (!f.l || f.a.isReg) && (!f.k || f.b.isReg)
  | .vextend f => f.ok
  | .vcoal f => f.ok
  | .vruns f => f.ok
  | .vlen f => f.ok
  | .vspill f => f.ok
  | .vfill f => (!f.w || f.d == 0) && f.d < 32 && f.b.isX
  | .vlds f => (!f.w || f.d == 0) && f.d < 32 && f.b.isX
  | .vsts f => f.ok
  | .vgather f => (!f.w || f.d == 0) && f.d < 32 && f.a.isW && f.b.isX && f.m < 8 && (!f.z || f.m != 0) && (!f.l || f.a.isReg)
  | .vscatter f => f.d < 32 && f.a.isW && f.b.isX && f.m < 8 && (!f.l || f.a.isReg)
  | .vmovxToV f => f.ok2
  | .vmovxToX f => (!f.w || f.d == 0) && f.d < 8 && f.a.isW
  | .mand f => f.ok2
  | .mor f => f.ok2
  | .mxor f => f.ok2
  | .mnot f => f.ok4
  | .mpopc f => f.ok4
  | _ => false

/-- Well-formedness of the M stream rows, each field as its word admits it; the rows of other decoders are not. -/
def Instr.wfM : Instr → Bool
  | .mshape f => f.d < 16 && f.a.isX
  | .cshape f => f.d < 8 && f.a.isX
  | .mzeroC f => f.d < 8
  | .mzeroT f => f.ok
  | .mlds f => f.a < 16
  | .mldsSp f => f.a < 16 && f.b < 16
  | .mswap _ => true
  | .mma f => f.d < 8 && f.a.isTQ && f.b.isX
  | .mnest f => f.n < 6 && f.a.isX
  | .mgo f => f.d < 8 && f.a < 16 && f.b < 8 && f.b % 2 == 0
  | .mwait _ => true
  | .mrpt f => (!f.w || f.d == 0) && f.d < 8 && f.b ≤ 8
  | .mmode f => (!f.w || f.d == 0) && f.d < 8 && f.a.isX
  | .maccCvt f => f.ok
  | .maccRelu f => f.ok
  | .maccAdd f => f.d < 8 && f.a < 8
  | .maccScl f => f.d < 8 && f.a < 8 && f.b.isX
  | .maccLd f => f.d < 8 && f.a < 16
  | .mtest f => (!f.w || f.d == 0) && f.d < 8
  | _ => false

/-- Well-formedness of the engine rows, each field as its word admits it; the rows of other decoders are not. -/
def Instr.wfE : Instr → Bool
  | .act k r _ => k < 4 && r < 8
  | .pre k => k < 4
  | .preAll => true
  | .ref k => k < 4
  | .rd k => k < 4
  | .wr k s => k < 4 && s < 5
  | .rowend => true
  | .cmp o s _ => o < 3 && s < 5
  | .awr d => d < 5
  | .ttp x y z t => x < 32 && y < 32 && z < 32 && t < 256
  | .ttpT x y t => x < 32 && y < 32 && t < 256
  | .tand x _ => x < 32
  | .tor x _ => x < 32
  | .tnot => true
  | .tcnt d => d < 8
  | .setk s => s < 8
  | .setm s => s < 8
  | .movi d i => d < 8 && i < 2097152
  | .moviAdd d i => d < 8 && i < 2097152
  | .moviSh d i => d < 8 && i < 2097152
  | .vlde f o => f < 6 && o < 2048
  | .mv a f l => a < 4 && f < 6 && l ≤ 8 && engineNE f ≤ 256 * 2 ^ l
  | .sadd a j _ => a < 4 && j < 8
  | .redAdd d s => d < 4 && s < 4
  | .redMax d s => d < 4 && s < 4
  | .redSum s e => s < 4 && e < 8
  | .accz a => a < 4
  | .acczW a => a < 4
  | .accst a f => a < 4 && f < 4
  | .mcast k s r => k < 4 && s < 5 && r < 8
  | .bgcopy s e d f => s < 4 && s != d && e < 8 && d < 4 && f < 8
  | .naddx d => d < 8
  | .sig l c v => l < 4 && 5 ≤ c && c ≤ 10 && v < 8
  | .waits l c v => l < 4 && 5 ≤ c && c ≤ 10 && v < 8
  | .idmasJmp t => t < 4096
  | .bnz e _ t => e < 8 && t < 4096
  | .idmasLoop n c l => n < 4 && 1 ≤ c && c < 4096 && l < 256
  | .idmasLoopReg n s l => n < 4 && s < 8 && l < 256
  | .halt c => c < 256
  | _ => false

/-- Well-formedness of the rows every stream shares, in stream `k` (spec/03 R77, R80, R82). -/
def Instr.wfK (k : Strm) : Instr → Bool
  | .tkgive f => tokenMask k f.s
  | .tktake f => tokenMask k f.s
  | .loopImm f => f.n < 3 && 1 ≤ f.c && f.c < 4096 && f.l < 256
  | .loopReg f => f.n < 3 && loopSrc k f.s && f.l < 256
  | .dpair f => f.i < 1024 && f.j < 1024
  | _ => false

/-- An instruction that the decoder of `k` gives for some word (spec/03 R67). -/
def Instr.wf (k : Form) (i : Instr) : Bool :=
  match k with
  | .stream .s => i.wfS || i.wfK .s
  | .stream .a => i.wfA || i.wfK .a
  | .stream .v => i.wfV || i.wfK .v
  | .stream .m => i.wfM || i.wfK .m
  | .engine => i.wfE

end Sys2Proof
end

