-- ==== Sys2Proof/Decode.lean ====
section
/-! DEFINITION. The decoders of the four streams and of the engines (spec/03 R66 to R68, R85 to R90), total on any
word, and after them the encoder, written from the same encoding tables. -/

namespace Sys2Proof

/-- Bits [hi:lo] of `w` (spec/00 R9). -/
def bits (w hi lo : Nat) : Nat := w / 2 ^ lo % 2 ^ (hi + 1 - lo)

/-- Bit `n` of `w`. -/
def bit (w n : Nat) : Bool := w / 2 ^ n % 2 == 1

/-- 1 for true, 0 for false. -/
def b2n (b : Bool) : Nat := if b then 1 else 0

/-- The source a 6-bit field names (spec/03 R68).  36 to 39 and 56 to 63 name nothing: they give register numbers
beyond every file, which no instruction accepts. -/
def Src.ofCode (c : Nat) : Src :=
  if c < 32 then .reg c
  else if c < 36 then .latch (c - 32)
  else if 40 ≤ c ∧ c < 56 then .queue (c - 40)
  else .reg c

/-- The 6-bit code of a source. -/
def Src.code : Src → Nat
  | .reg n => n
  | .latch k => 32 + k
  | .queue q => 40 + q

/-- Why a word decodes to nothing (spec/03 R67): all of these raise ILLEGAL. -/
inductive DecodeError where
  /-- The major opcode is unassigned in this decoder. -/
  | unassignedMajor
  /-- The fn value is unassigned, or a field marked zero is not zero. -/
  | unassignedFn
  /-- A field holds a value the instruction does not accept. -/
  | refusedField
  /-- Fewer than four bytes. -/
  | tooShort
  deriving DecidableEq, Repr

/-- The fields of ADD, SUB, MUL, MULH, DIV, REM and others in word `w`. -/
def getRR (w : Nat) : RR :=
  ⟨bits w 25 21, bit w 20, Src.ofCode (bits w 19 14), Src.ofCode (bits w 13 8), bit w 0⟩

/-- The fields of POPC, CLZ, CTZ, BREV, XMOV_X_TO_S, XMOV_S_TO_X and others in word `w`. -/
def getR1 (w : Nat) : R1 :=
  ⟨bits w 25 21, bit w 20, Src.ofCode (bits w 19 14), bit w 0⟩

/-- The fields of ADDI, ANDI, ORI, XORI, MINI, MAXI and others in word `w`. -/
def getRI (w : Nat) : RI :=
  ⟨bits w 25 21, bit w 20, Src.ofCode (bits w 19 14), bits w 13 1, bit w 0⟩

/-- The fields of SHLI, SHRI, SHRAI, ROTI, ASHLI, ASHRI in word `w`. -/
def getRSh (w : Nat) : RSh :=
  ⟨bits w 25 21, bit w 20, Src.ofCode (bits w 19 14), bits w 6 1, bit w 0⟩

/-- The fields of MOVHI, JAL in word `w`. -/
def getLI (w : Nat) : LI :=
  ⟨bits w 25 21, bit w 20, bits w 19 1, bit w 0⟩

/-- The fields of BEQ, BNE, BLT, BGE, BLTU, BGEU and others in word `w`. -/
def getTS (w : Nat) : TS :=
  ⟨Src.ofCode (bits w 25 20), Src.ofCode (bits w 19 14), bits w 13 1, bit w 0⟩

/-- The fields of JMP in word `w`. -/
def getImm (w : Nat) : Imm :=
  ⟨bits w 19 1, bit w 0⟩

/-- The fields of LD in word `w`. -/
def getLdF (w : Nat) : LdF :=
  ⟨bits w 25 21, bit w 20, Src.ofCode (bits w 19 14), bits w 13 11, bits w 10 1, bit w 0⟩

/-- The fields of ST in word `w`. -/
def getStF (w : Nat) : StF :=
  ⟨Src.ofCode (bits w 25 20), Src.ofCode (bits w 19 14), bits w 13 12, bits w 11 1, bit w 0⟩

/-- The fields of LDA in word `w`. -/
def getLdaF (w : Nat) : LdaF :=
  ⟨bits w 25 21, bit w 20, Src.ofCode (bits w 19 14), bits w 13 10, bit w 9, bits w 8 1, bit w 0⟩

/-- The fields of STREL in word `w`. -/
def getStrelF (w : Nat) : StrelF :=
  ⟨Src.ofCode (bits w 25 20), Src.ofCode (bits w 19 14), bits w 13 10, bit w 9, bits w 8 1, bit w 0⟩

/-- The fields of CAS in word `w`. -/
def getCasF (w : Nat) : CasF :=
  ⟨bits w 25 21, bit w 20, Src.ofCode (bits w 19 14), Src.ofCode (bits w 13 8), bits w 7 5, bit w 4, bit w 0⟩

/-- The fields of AMO in word `w`. -/
def getAmoF (w : Nat) : AmoF :=
  ⟨bits w 25 21, bit w 20, Src.ofCode (bits w 19 14), Src.ofCode (bits w 13 8), bits w 7 5, bit w 4, bits w 3 1, bit w 0⟩

/-- The fields of NADD in word `w`. -/
def getNaddF (w : Nat) : NaddF :=
  ⟨Src.ofCode (bits w 25 20), Src.ofCode (bits w 19 14), bits w 13 12, bits w 11 1, bit w 0⟩

/-- The fields of FENCE in word `w`. -/
def getScopeF (w : Nat) : ScopeF :=
  ⟨bits w 13 10, bit w 0⟩

/-- The fields of BIND in word `w`. -/
def getBindF (w : Nat) : BindF :=
  ⟨bits w 25 21, bit w 20, Src.ofCode (bits w 19 14), bits w 13 8, bits w 4 1, bit w 0⟩

/-- The fields of ACQ, REL in word `w`. -/
def getAcqF (w : Nat) : AcqF :=
  ⟨Src.ofCode (bits w 19 14), bits w 13 10, bit w 9, bits w 8 1, bit w 0⟩

/-- The fields of EPUT_W, SUSP, SUSP_BAR, BARINIT in word `w`. -/
def getSrcPair (w : Nat) : SrcPair :=
  ⟨Src.ofCode (bits w 19 14), Src.ofCode (bits w 13 8), bit w 0⟩

/-- The fields of SUSP_END, NPBEGIN, NPEND, ERET, ERET_FAIL, MSWAP and others in word `w`. -/
def getEndF (w : Nat) : EndF :=
  ⟨bit w 0⟩

/-- The fields of YIELD, MTEST in word `w`. -/
def getDstF (w : Nat) : DstF :=
  ⟨bits w 25 21, bit w 20, bit w 0⟩

/-- The fields of WID in word `w`. -/
def getDstNum (w : Nat) : DstNum :=
  ⟨bits w 25 21, bit w 20, bits w 13 8, bit w 0⟩

/-- The fields of TRAP, BRK in word `w`. -/
def getImm2 (w : Nat) : Imm :=
  ⟨bits w 13 1, bit w 0⟩

/-- The fields of ERET_RUN in word `w`. -/
def getEretRunF (w : Nat) : EretRunF :=
  ⟨bits w 25 21, bit w 20, Src.ofCode (bits w 19 14), Src.ofCode (bits w 13 8), bits w 4 3, bit w 0⟩

/-- The fields of SYSRD in word `w`. -/
def getDstNum2 (w : Nat) : DstNum :=
  ⟨bits w 25 21, bit w 20, bits w 13 1, bit w 0⟩

/-- The fields of SYSWR in word `w`. -/
def getSyswrF (w : Nat) : SyswrF :=
  ⟨Src.ofCode (bits w 25 20), bits w 13 1, bit w 0⟩

/-- The fields of TKGIVE, TKTAKE in word `w`. -/
def getScopeF2 (w : Nat) : ScopeF :=
  ⟨bits w 23 20, bit w 0⟩

/-- The fields of LOOP_IMM in word `w`. -/
def getLoopImmF (w : Nat) : LoopImmF :=
  ⟨bits w 25 24, bits w 22 11, bits w 8 1, bit w 0⟩

/-- The fields of LOOP_REG in word `w`. -/
def getLoopRegF (w : Nat) : LoopRegF :=
  ⟨bits w 25 24, Src.ofCode (bits w 22 17), bits w 8 1, bit w 0⟩

/-- The fields of DPAIR in word `w`. -/
def getPairF (w : Nat) : PairF :=
  ⟨bits w 25 16, bits w 15 6⟩

/-- The fields of TDMAKE in word `w`. -/
def getTdmakeF (w : Nat) : TdmakeF :=
  ⟨bits w 25 21, Src.ofCode (bits w 19 14), bits w 13 1, bit w 0⟩

/-- The fields of TDINFO in word `w`. -/
def getTdinfoF (w : Nat) : TdinfoF :=
  ⟨bits w 25 21, bit w 20, bits w 19 14, Src.ofCode (bits w 13 8), bit w 0⟩

/-- The fields of TLD in word `w`. -/
def getTldF (w : Nat) : TldF :=
  ⟨bits w 25 21, bits w 19 14, bits w 13 8, bit w 2, bit w 1, bit w 0⟩

/-- The fields of TST in word `w`. -/
def getTstF (w : Nat) : TstF :=
  ⟨bits w 25 21, bits w 19 14, bits w 13 8, bit w 3, bit w 2, bit w 1, bit w 0⟩

/-- The fields of VLD, VST in word `w`. -/
def getVldF (w : Nat) : VldF :=
  ⟨bits w 25 21, bits w 19 14, bits w 13 8, bit w 0⟩

/-- The fields of QBIND, MACC_SCL in word `w`. -/
def getSlotSrc (w : Nat) : SlotSrc :=
  ⟨bits w 25 21, bits w 19 14, Src.ofCode (bits w 13 8), bit w 0⟩

/-- The fields of QUNBIND, MZERO_C, MZERO_T in word `w`. -/
def getDst (w : Nat) : Dst :=
  ⟨bits w 25 21, bit w 0⟩

/-- The fields of QPOS in word `w`. -/
def getQposF (w : Nat) : QposF :=
  ⟨bits w 25 21, bit w 20, bits w 19 14, bit w 0⟩

/-- The fields of TCOPY in word `w`. -/
def getTcopyF (w : Nat) : TcopyF :=
  ⟨bits w 25 21, bits w 19 14, bits w 13 8, bit w 5, bit w 4, bits w 3 1, bit w 0⟩

/-- The fields of TCOPY_TILE in word `w`. -/
def getTcopyTileF (w : Nat) : TcopyTileF :=
  ⟨bits w 25 21, bits w 19 14, bits w 13 8, bit w 5, bits w 3 1, bit w 0⟩

/-- The fields of CWAIT in word `w`. -/
def getCwaitF (w : Nat) : CwaitF :=
  ⟨Src.ofCode (bits w 19 14), bits w 3 1, bit w 0⟩

/-- The fields of CRESUME, CRESUME_ABORT in word `w`. -/
def getChanF (w : Nat) : ChanF :=
  ⟨bits w 3 1, bit w 0⟩

/-- The fields of CSTAGE in word `w`. -/
def getDstNum3 (w : Nat) : DstNum :=
  ⟨bits w 25 21, bit w 20, bits w 8 1, bit w 0⟩

/-- The fields of BARARRIVE in word `w`. -/
def getArriveF (w : Nat) : ArriveF :=
  ⟨bits w 25 21, bit w 20, Src.ofCode (bits w 19 14), Src.ofCode (bits w 13 8), bits w 4 1, bit w 0⟩

/-- The fields of BARWAIT in word `w`. -/
def getBarwaitF (w : Nat) : BarwaitF :=
  ⟨Src.ofCode (bits w 19 14), Src.ofCode (bits w 13 8), bits w 4 1, bit w 0⟩

/-- The fields of VADD, VSUB, VMUL, VFMA, VDIV, VMIN and others in word `w`. -/
def getVF (w : Nat) : VF :=
  ⟨bits w 25 21, bit w 20, Src.ofCode (bits w 19 14), Src.ofCode (bits w 13 8), bits w 7 5, bit w 4, bit w 3, bit w 2, bit w 1, bit w 0⟩

/-- The fields of VCMP in word `w`. -/
def getVcmpF (w : Nat) : VcmpF :=
  ⟨bits w 25 24, bits w 23 21, bit w 20, Src.ofCode (bits w 19 14), Src.ofCode (bits w 13 8), bits w 7 5, bit w 4, bit w 2, bit w 1, bit w 0⟩

/-- The fields of VSEL in word `w`. -/
def getVselF (w : Nat) : VselF :=
  ⟨bits w 25 21, bit w 20, Src.ofCode (bits w 19 14), Src.ofCode (bits w 13 8), bits w 7 5, bit w 3, bit w 2, bit w 1, bit w 0⟩

/-- The fields of VMOV, VNEG, VABS, VSQRT, VEXP2, VLOG2 and others in word `w`. -/
def getVUn (w : Nat) : VUn :=
  ⟨bits w 25 21, bit w 20, Src.ofCode (bits w 19 14), bits w 7 5, bit w 4, bit w 3, bit w 2, bit w 0⟩

/-- The fields of VCVT in word `w`. -/
def getVcvtF (w : Nat) : VcvtF :=
  ⟨bits w 25 21, bit w 20, Src.ofCode (bits w 19 14), bits w 13 8, bits w 7 5, bit w 4, bit w 3, bit w 2, bit w 0⟩

/-- The fields of VQUANT in word `w`. -/
def getVquantF (w : Nat) : VquantF :=
  ⟨bits w 25 21, Src.ofCode (bits w 19 14), bits w 13 8, bit w 3, bit w 2, bit w 0⟩

/-- The fields of VBCAST in word `w`. -/
def getVbcastF (w : Nat) : VbcastF :=
  ⟨bits w 25 21, bit w 20, Src.ofCode (bits w 19 14), Src.ofCode (bits w 13 8), bit w 2, bit w 1, bit w 0⟩

/-- The fields of VIOTA, VCOAL in word `w`. -/
def getVOne (w : Nat) : VOne :=
  ⟨bits w 25 21, bit w 20, Src.ofCode (bits w 19 14), bit w 2, bit w 0⟩

/-- The fields of VRSUM, VRMAX, VRMIN in word `w`. -/
def getVredF (w : Nat) : VredF :=
  ⟨bits w 25 21, bit w 20, Src.ofCode (bits w 19 14), bits w 7 5, bit w 2, bit w 0⟩

/-- The fields of VCOMPRESS, VEXPAND, VCAT in word `w`. -/
def getVTwo (w : Nat) : VTwo :=
  ⟨bits w 25 21, bit w 20, Src.ofCode (bits w 19 14), Src.ofCode (bits w 13 8), bit w 3, bit w 2, bit w 1, bit w 0⟩

/-- The fields of VSLICE, VEXTEND in word `w`. -/
def getVTwoX (w : Nat) : VTwoX :=
  ⟨bits w 25 21, bit w 20, Src.ofCode (bits w 19 14), Src.ofCode (bits w 13 8), bit w 3, bit w 2, bit w 0⟩

/-- The fields of VRUNS, VLEN in word `w`. -/
def getVlenF (w : Nat) : VlenF :=
  ⟨bits w 25 21, bit w 20, Src.ofCode (bits w 19 14), bit w 8, bit w 0⟩

/-- The fields of VSPILL, VSTS in word `w`. -/
def getVstF (w : Nat) : VstF :=
  ⟨Src.ofCode (bits w 19 14), Src.ofCode (bits w 13 8), bit w 2, bit w 0⟩

/-- The fields of VFILL in word `w`. -/
def getVfillF (w : Nat) : VfillF :=
  ⟨bits w 25 21, bit w 20, Src.ofCode (bits w 13 8), bit w 0⟩

/-- The fields of VLDS in word `w`. -/
def getVldsF (w : Nat) : VldsF :=
  ⟨bits w 25 21, bit w 20, Src.ofCode (bits w 13 8), bit w 3, bit w 0⟩

/-- The fields of VGATHER in word `w`. -/
def getVgatherF (w : Nat) : VgatherF :=
  ⟨bits w 25 21, bit w 20, Src.ofCode (bits w 19 14), Src.ofCode (bits w 13 8), bits w 7 5, bit w 4, bit w 3, bit w 2, bit w 0⟩

/-- The fields of VSCATTER in word `w`. -/
def getVscatterF (w : Nat) : VscatterF :=
  ⟨bits w 25 21, Src.ofCode (bits w 19 14), Src.ofCode (bits w 13 8), bits w 7 5, bit w 2, bit w 0⟩

/-- The fields of MSHAPE, CSHAPE in word `w`. -/
def getMshapeF (w : Nat) : MshapeF :=
  ⟨bits w 25 21, Src.ofCode (bits w 19 14), bit w 0⟩

/-- The fields of MLDS in word `w`. -/
def getMldsF (w : Nat) : MldsF :=
  ⟨bits w 19 14, bit w 0⟩

/-- The fields of MLDS_SP in word `w`. -/
def getMldsSpF (w : Nat) : MldsSpF :=
  ⟨bits w 19 14, bits w 13 8, bit w 0⟩

/-- The fields of MMA in word `w`. -/
def getMmaF (w : Nat) : MmaF :=
  ⟨bits w 25 21, Src.ofCode (bits w 19 14), Src.ofCode (bits w 13 8), bit w 2, bit w 1, bit w 0⟩

/-- The fields of MNEST in word `w`. -/
def getMnestF (w : Nat) : MnestF :=
  ⟨bits w 25 21, Src.ofCode (bits w 19 14), bit w 0⟩

/-- The fields of MGO in word `w`. -/
def getMgoF (w : Nat) : MgoF :=
  ⟨bits w 25 21, bits w 19 14, bits w 13 8, bit w 2, bit w 1, bit w 0⟩

/-- The fields of MRPT in word `w`. -/
def getMrptF (w : Nat) : MrptF :=
  ⟨bits w 25 21, bit w 20, bits w 13 8, bit w 0⟩

/-- The fields of MACC_CVT, MACC_RELU, MACC_ADD, MACC_LD in word `w`. -/
def getMaccF (w : Nat) : MaccF :=
  ⟨bits w 25 21, bits w 19 14, bit w 0⟩

/-- The S rows by their fixed bits (spec/03 R86 to R90); fields are not checked here. -/
def rawS (w : Nat) : Except DecodeError Instr :=
  match bits w 31 26 with
  | 1 =>
    if bits w 7 1 == 0 then .ok (.add (getRR w)) else
    if bits w 7 1 == 1 then .ok (.sub (getRR w)) else
    if bits w 7 1 == 2 then .ok (.mul (getRR w)) else
    if bits w 7 1 == 3 then .ok (.mulh (getRR w)) else
    if bits w 7 1 == 4 then .ok (.div (getRR w)) else
    if bits w 7 1 == 5 then .ok (.rem (getRR w)) else
    if bits w 7 1 == 6 then .ok (.and (getRR w)) else
    if bits w 7 1 == 7 then .ok (.or (getRR w)) else
    if bits w 7 1 == 8 then .ok (.xor (getRR w)) else
    if bits w 7 1 == 9 then .ok (.andn (getRR w)) else
    if bits w 7 1 == 10 then .ok (.shl (getRR w)) else
    if bits w 7 1 == 11 then .ok (.shr (getRR w)) else
    if bits w 7 1 == 12 then .ok (.shra (getRR w)) else
    if bits w 7 1 == 13 then .ok (.rot (getRR w)) else
    if bits w 7 1 == 14 then .ok (.min (getRR w)) else
    if bits w 7 1 == 15 then .ok (.max (getRR w)) else
    if bits w 7 1 == 16 then .ok (.seteq (getRR w)) else
    if bits w 7 1 == 17 then .ok (.setlt (getRR w)) else
    if bits w 7 1 == 18 then .ok (.setltu (getRR w)) else
    if bits w 13 1 == 19 then .ok (.popc (getR1 w)) else
    if bits w 13 1 == 20 then .ok (.clz (getR1 w)) else
    if bits w 13 1 == 21 then .ok (.ctz (getR1 w)) else
    if bits w 13 1 == 22 then .ok (.brev (getR1 w)) else
    .error .unassignedFn
  | 2 =>
    if bits w 7 1 == 0 then .ok (.bext (getRR w)) else
    if bits w 7 1 == 1 then .ok (.bextu (getRR w)) else
    if bits w 7 1 == 2 then .ok (.bins (getRR w)) else
    if bits w 7 1 == 3 then .ok (.fshl (getRR w)) else
    if bits w 7 1 == 4 then .ok (.fshr (getRR w)) else
    .error .unassignedFn
  | 4 =>
    .ok (.addi (getRI w))
  | 5 =>
    .ok (.andi (getRI w))
  | 6 =>
    .ok (.ori (getRI w))
  | 7 =>
    .ok (.xori (getRI w))
  | 8 =>
    if bits w 13 7 == 0 then .ok (.shli (getRSh w)) else
    .error .unassignedFn
  | 9 =>
    if bits w 13 7 == 0 then .ok (.shri (getRSh w)) else
    .error .unassignedFn
  | 10 =>
    if bits w 13 7 == 0 then .ok (.shrai (getRSh w)) else
    .error .unassignedFn
  | 11 =>
    if bits w 13 7 == 0 then .ok (.roti (getRSh w)) else
    .error .unassignedFn
  | 12 =>
    .ok (.mini (getRI w))
  | 13 =>
    .ok (.maxi (getRI w))
  | 14 =>
    .ok (.seteqi (getRI w))
  | 15 =>
    .ok (.setlti (getRI w))
  | 16 =>
    .ok (.setltui (getRI w))
  | 17 =>
    .ok (.movhi (getLI w))
  | 18 =>
    .ok (.beq (getTS w))
  | 19 =>
    .ok (.bne (getTS w))
  | 20 =>
    .ok (.blt (getTS w))
  | 21 =>
    .ok (.bge (getTS w))
  | 22 =>
    .ok (.bltu (getTS w))
  | 23 =>
    .ok (.bgeu (getTS w))
  | 24 =>
    if bits w 25 20 == 0 then .ok (.jmp (getImm w)) else
    .error .unassignedFn
  | 25 =>
    .ok (.jal (getLI w))
  | 26 =>
    .ok (.jr (getRI w))
  | 27 =>
    if bits w 13 1 == 0 then .ok (.xmovXToS (getR1 w)) else
    if bits w 13 1 == 1 then .ok (.xmovSToX (getR1 w)) else
    .error .unassignedFn
  | 28 =>
    .ok (.ld (getLdF w))
  | 29 =>
    .ok (.st (getStF w))
  | 30 =>
    .ok (.lda (getLdaF w))
  | 31 =>
    .ok (.strel (getStrelF w))
  | 32 =>
    if bits w 3 1 == 0 then .ok (.cas (getCasF w)) else
    .error .unassignedFn
  | 33 =>
    .ok (.amo (getAmoF w))
  | 34 =>
    .ok (.nadd (getNaddF w))
  | 35 =>
    if bits w 9 1 == 0 && bits w 25 14 == 0 then .ok (.fence (getScopeF w)) else
    .error .unassignedFn
  | 36 =>
    if bits w 7 5 == 0 then .ok (.bind (getBindF w)) else
    .error .unassignedFn
  | 37 =>
    if bits w 13 1 == 0 then .ok (.unbind (getR1 w)) else
    .error .unassignedFn
  | 38 =>
    if bits w 25 20 == 0 then .ok (.acq (getAcqF w)) else
    .error .unassignedFn
  | 39 =>
    if bits w 25 20 == 0 then .ok (.rel (getAcqF w)) else
    .error .unassignedFn
  | 40 =>
    if bits w 7 1 == 0 then .ok (.lpatch (getRR w)) else
    .error .unassignedFn
  | 41 =>
    if bits w 13 1 == 0 then .ok (.larm (getR1 w)) else
    .error .unassignedFn
  | 42 =>
    if bits w 13 1 == 0 then .ok (.larmw (getR1 w)) else
    .error .unassignedFn
  | 43 =>
    if bits w 7 1 == 0 then .ok (.eput (getRR w)) else
    if bits w 7 1 == 1 && bits w 25 20 == 0 then .ok (.eputW (getSrcPair w)) else
    .error .unassignedFn
  | 44 =>
    if bits w 7 1 == 0 && bits w 25 20 == 0 then .ok (.susp (getSrcPair w)) else
    if bits w 7 1 == 1 && bits w 25 20 == 0 then .ok (.suspBar (getSrcPair w)) else
    if bits w 25 1 == 2 then .ok (.suspEnd (getEndF w)) else
    .error .unassignedFn
  | 45 =>
    if bits w 19 1 == 0 then .ok (.yield (getDstF w)) else
    .error .unassignedFn
  | 46 =>
    if bits w 7 1 == 0 && bits w 19 14 == 0 then .ok (.wid (getDstNum w)) else
    .error .unassignedFn
  | 47 =>
    if bits w 25 1 == 0 then .ok (.npbegin (getEndF w)) else
    .error .unassignedFn
  | 48 =>
    if bits w 25 1 == 0 then .ok (.npend (getEndF w)) else
    .error .unassignedFn
  | 49 =>
    if bits w 25 14 == 0 then .ok (.trap (getImm2 w)) else
    .error .unassignedFn
  | 50 =>
    if bits w 25 1 == 0 then .ok (.eret (getEndF w)) else
    if bits w 2 1 == 1 && bits w 7 5 == 0 then .ok (.eretRun (getEretRunF w)) else
    if bits w 25 1 == 2 then .ok (.eretFail (getEndF w)) else
    .error .unassignedFn
  | 51 =>
    if bits w 19 14 == 0 then .ok (.sysrd (getDstNum2 w)) else
    .error .unassignedFn
  | 52 =>
    if bits w 19 14 == 0 then .ok (.syswr (getSyswrF w)) else
    .error .unassignedFn
  | 53 =>
    if bits w 25 14 == 0 then .ok (.brk (getImm2 w)) else
    .error .unassignedFn
  | 54 =>
    if bits w 7 1 == 0 then .ok (.wfe (getRR w)) else
    .error .unassignedFn
  | _ => .error .unassignedMajor

/-- The A rows by their fixed bits (spec/03 R86 to R90); fields are not checked here. -/
def rawA (w : Nat) : Except DecodeError Instr :=
  match bits w 31 26 with
  | 1 =>
    if bits w 7 1 == 0 then .ok (.aadd (getRR w)) else
    if bits w 7 1 == 1 then .ok (.asub (getRR w)) else
    if bits w 7 1 == 2 then .ok (.amul (getRR w)) else
    if bits w 7 1 == 3 then .ok (.ashl (getRR w)) else
    if bits w 7 1 == 4 then .ok (.ashr (getRR w)) else
    if bits w 7 1 == 5 then .ok (.aand (getRR w)) else
    if bits w 7 1 == 6 then .ok (.aor (getRR w)) else
    if bits w 7 1 == 7 then .ok (.amin (getRR w)) else
    if bits w 7 1 == 8 then .ok (.amax (getRR w)) else
    .error .unassignedFn
  | 2 =>
    .ok (.aaddi (getRI w))
  | 3 =>
    .ok (.amuli (getRI w))
  | 4 =>
    if bits w 13 7 == 0 then .ok (.ashli (getRSh w)) else
    .error .unassignedFn
  | 5 =>
    if bits w 13 7 == 0 then .ok (.ashri (getRSh w)) else
    .error .unassignedFn
  | 6 =>
    .ok (.aandi (getRI w))
  | 7 =>
    .ok (.aori (getRI w))
  | 8 =>
    .ok (.amini (getRI w))
  | 9 =>
    .ok (.amaxi (getRI w))
  | 10 =>
    .ok (.abr (getTS w))
  | 11 =>
    if bits w 13 1 == 0 then .ok (.xmovXToA (getR1 w)) else
    if bits w 13 1 == 1 then .ok (.xmovAToX (getR1 w)) else
    .error .unassignedFn
  | 12 =>
    if bits w 20 20 == 0 then .ok (.tdmake (getTdmakeF w)) else
    .error .unassignedFn
  | 13 =>
    if bits w 7 1 == 0 then .ok (.tdinfo (getTdinfoF w)) else
    .error .unassignedFn
  | 14 =>
    if bits w 7 3 == 0 && bits w 20 20 == 0 then .ok (.tld (getTldF w)) else
    .error .unassignedFn
  | 15 =>
    if bits w 7 4 == 0 && bits w 20 20 == 0 then .ok (.tst (getTstF w)) else
    .error .unassignedFn
  | 16 =>
    if bits w 7 1 == 0 && bits w 20 20 == 0 then .ok (.vld (getVldF w)) else
    .error .unassignedFn
  | 17 =>
    if bits w 7 1 == 0 && bits w 20 20 == 0 then .ok (.vst (getVldF w)) else
    .error .unassignedFn
  | 18 =>
    if bits w 7 1 == 0 && bits w 20 20 == 0 then .ok (.qbind (getSlotSrc w)) else
    .error .unassignedFn
  | 19 =>
    if bits w 20 1 == 0 then .ok (.qunbind (getDst w)) else
    .error .unassignedFn
  | 20 =>
    if bits w 13 1 == 0 then .ok (.qpos (getQposF w)) else
    .error .unassignedFn
  | 21 =>
    if bits w 7 6 == 0 && bits w 20 20 == 0 then .ok (.tcopy (getTcopyF w)) else
    if bits w 4 4 == 0 && bits w 7 6 == 1 && bits w 20 20 == 0 then .ok (.tcopyTile (getTcopyTileF w)) else
    .error .unassignedFn
  | 22 =>
    if bits w 13 4 == 0 && bits w 25 20 == 0 then .ok (.cwait (getCwaitF w)) else
    .error .unassignedFn
  | 23 =>
    if bits w 25 4 == 0 then .ok (.cresume (getChanF w)) else
    if bits w 25 4 == 1 then .ok (.cresumeAbort (getChanF w)) else
    .error .unassignedFn
  | 24 =>
    if bits w 19 9 == 0 then .ok (.cstage (getDstNum3 w)) else
    .error .unassignedFn
  | 25 =>
    if bits w 7 1 == 0 && bits w 25 20 == 0 then .ok (.barinit (getSrcPair w)) else
    .error .unassignedFn
  | 26 =>
    if bits w 7 5 == 0 then .ok (.bararrive (getArriveF w)) else
    .error .unassignedFn
  | 27 =>
    if bits w 7 5 == 0 && bits w 25 20 == 0 then .ok (.barwait (getBarwaitF w)) else
    .error .unassignedFn
  | 28 =>
    if bits w 7 1 == 0 then .ok (.crcget (getRR w)) else
    .error .unassignedFn
  | _ => .error .unassignedMajor

/-- The V rows by their fixed bits (spec/03 R86 to R90); fields are not checked here. -/
def rawV (w : Nat) : Except DecodeError Instr :=
  match bits w 31 26 with
  | 1 =>
    .ok (.vadd (getVF w))
  | 2 =>
    .ok (.vsub (getVF w))
  | 3 =>
    .ok (.vmul (getVF w))
  | 4 =>
    .ok (.vfma (getVF w))
  | 5 =>
    .ok (.vdiv (getVF w))
  | 6 =>
    .ok (.vmin (getVF w))
  | 7 =>
    .ok (.vmax (getVF w))
  | 8 =>
    .ok (.vand (getVF w))
  | 9 =>
    .ok (.vor (getVF w))
  | 10 =>
    .ok (.vxor (getVF w))
  | 11 =>
    .ok (.vshl (getVF w))
  | 12 =>
    .ok (.vshr (getVF w))
  | 13 =>
    if bits w 3 3 == 0 then .ok (.vcmp (getVcmpF w)) else
    .error .unassignedFn
  | 14 =>
    if bits w 4 4 == 0 then .ok (.vsel (getVselF w)) else
    .error .unassignedFn
  | 15 =>
    if bits w 1 1 == 0 && bits w 13 8 == 0 then .ok (.vmov (getVUn w)) else
    if bits w 1 1 == 0 && bits w 13 8 == 1 then .ok (.vneg (getVUn w)) else
    if bits w 1 1 == 0 && bits w 13 8 == 2 then .ok (.vabs (getVUn w)) else
    if bits w 1 1 == 0 && bits w 13 8 == 3 then .ok (.vsqrt (getVUn w)) else
    if bits w 1 1 == 0 && bits w 13 8 == 4 then .ok (.vexp2 (getVUn w)) else
    if bits w 1 1 == 0 && bits w 13 8 == 5 then .ok (.vlog2 (getVUn w)) else
    if bits w 1 1 == 0 && bits w 13 8 == 6 then .ok (.vrcp (getVUn w)) else
    if bits w 1 1 == 0 && bits w 13 8 == 7 then .ok (.vrsqrt (getVUn w)) else
    if bits w 1 1 == 0 && bits w 13 8 == 8 then .ok (.vtanh (getVUn w)) else
    if bits w 1 1 == 0 && bits w 13 8 == 9 then .ok (.vsigm (getVUn w)) else
    .error .unassignedFn
  | 16 =>
    if bits w 1 1 == 0 then .ok (.vcvt (getVcvtF w)) else
    .error .unassignedFn
  | 17 =>
    if bits w 1 1 == 0 && bits w 7 4 == 0 && bits w 20 20 == 0 then .ok (.vquant (getVquantF w)) else
    .error .unassignedFn
  | 18 =>
    if bits w 7 3 == 0 then .ok (.vbcast (getVbcastF w)) else
    .error .unassignedFn
  | 19 =>
    if bits w 1 1 == 0 && bits w 13 3 == 0 then .ok (.viota (getVOne w)) else
    .error .unassignedFn
  | 20 =>
    if bits w 1 1 == 0 && bits w 4 3 == 0 && bits w 13 8 == 0 then .ok (.vrsum (getVredF w)) else
    .error .unassignedFn
  | 21 =>
    if bits w 1 1 == 0 && bits w 4 3 == 0 && bits w 13 8 == 0 then .ok (.vrmax (getVredF w)) else
    .error .unassignedFn
  | 22 =>
    if bits w 1 1 == 0 && bits w 4 3 == 0 && bits w 13 8 == 0 then .ok (.vrmin (getVredF w)) else
    .error .unassignedFn
  | 23 =>
    if bits w 7 4 == 0 then .ok (.vcompress (getVTwo w)) else
    .error .unassignedFn
  | 24 =>
    if bits w 7 4 == 0 then .ok (.vexpand (getVTwo w)) else
    .error .unassignedFn
  | 25 =>
    if bits w 1 1 == 0 && bits w 7 4 == 0 then .ok (.vslice (getVTwoX w)) else
    .error .unassignedFn
  | 26 =>
    if bits w 7 4 == 0 then .ok (.vcat (getVTwo w)) else
    .error .unassignedFn
  | 27 =>
    if bits w 1 1 == 0 && bits w 7 4 == 0 then .ok (.vextend (getVTwoX w)) else
    .error .unassignedFn
  | 28 =>
    if bits w 1 1 == 0 && bits w 13 3 == 0 then .ok (.vcoal (getVOne w)) else
    .error .unassignedFn
  | 29 =>
    if bits w 7 1 == 0 && bits w 13 9 == 0 then .ok (.vruns (getVlenF w)) else
    .error .unassignedFn
  | 30 =>
    if bits w 7 1 == 0 && bits w 13 9 == 0 then .ok (.vlen (getVlenF w)) else
    .error .unassignedFn
  | 31 =>
    if bits w 1 1 == 0 && bits w 7 3 == 0 && bits w 25 20 == 0 then .ok (.vspill (getVstF w)) else
    .error .unassignedFn
  | 32 =>
    if bits w 7 1 == 0 && bits w 19 14 == 0 then .ok (.vfill (getVfillF w)) else
    .error .unassignedFn
  | 33 =>
    if bits w 2 1 == 0 && bits w 7 4 == 0 && bits w 19 14 == 0 then .ok (.vlds (getVldsF w)) else
    .error .unassignedFn
  | 34 =>
    if bits w 1 1 == 0 && bits w 7 3 == 0 && bits w 25 20 == 0 then .ok (.vsts (getVstF w)) else
    .error .unassignedFn
  | 35 =>
    if bits w 1 1 == 0 then .ok (.vgather (getVgatherF w)) else
    .error .unassignedFn
  | 36 =>
    if bits w 1 1 == 0 && bits w 4 3 == 0 && bits w 20 20 == 0 then .ok (.vscatter (getVscatterF w)) else
    .error .unassignedFn
  | 37 =>
    if bits w 13 1 == 0 then .ok (.vmovxToV (getR1 w)) else
    if bits w 13 1 == 128 then .ok (.vmovxToX (getR1 w)) else
    .error .unassignedFn
  | 38 =>
    if bits w 7 1 == 0 then .ok (.mand (getRR w)) else
    if bits w 7 1 == 1 then .ok (.mor (getRR w)) else
    if bits w 7 1 == 2 then .ok (.mxor (getRR w)) else
    if bits w 13 1 == 3 then .ok (.mnot (getR1 w)) else
    if bits w 13 1 == 4 then .ok (.mpopc (getR1 w)) else
    .error .unassignedFn
  | _ => .error .unassignedMajor

/-- The M rows by their fixed bits (spec/03 R86 to R90); fields are not checked here. -/
def rawM (w : Nat) : Except DecodeError Instr :=
  match bits w 31 26 with
  | 1 =>
    if bits w 13 1 == 0 && bits w 20 20 == 0 then .ok (.mshape (getMshapeF w)) else
    .error .unassignedFn
  | 2 =>
    if bits w 13 1 == 0 && bits w 20 20 == 0 then .ok (.cshape (getMshapeF w)) else
    .error .unassignedFn
  | 3 =>
    if bits w 20 1 == 0 then .ok (.mzeroC (getDst w)) else
    if bits w 20 1 == 1 then .ok (.mzeroT (getDst w)) else
    .error .unassignedFn
  | 4 =>
    if bits w 13 1 == 0 && bits w 25 20 == 0 then .ok (.mlds (getMldsF w)) else
    if bits w 7 1 == 1 && bits w 25 20 == 0 then .ok (.mldsSp (getMldsSpF w)) else
    .error .unassignedFn
  | 5 =>
    if bits w 25 1 == 0 then .ok (.mswap (getEndF w)) else
    .error .unassignedFn
  | 6 =>
    if bits w 7 3 == 0 && bits w 20 20 == 0 then .ok (.mma (getMmaF w)) else
    .error .unassignedFn
  | 7 =>
    if bits w 13 1 == 0 && bits w 20 20 == 0 then .ok (.mnest (getMnestF w)) else
    .error .unassignedFn
  | 8 =>
    if bits w 7 3 == 0 && bits w 20 20 == 0 then .ok (.mgo (getMgoF w)) else
    .error .unassignedFn
  | 9 =>
    if bits w 25 1 == 0 then .ok (.mwait (getEndF w)) else
    .error .unassignedFn
  | 10 =>
    if bits w 7 1 == 0 && bits w 19 14 == 0 then .ok (.mrpt (getMrptF w)) else
    .error .unassignedFn
  | 11 =>
    if bits w 13 1 == 0 then .ok (.mmode (getR1 w)) else
    .error .unassignedFn
  | 12 =>
    if bits w 13 1 == 0 && bits w 20 20 == 0 then .ok (.maccCvt (getMaccF w)) else
    if bits w 13 1 == 1 && bits w 20 20 == 0 then .ok (.maccRelu (getMaccF w)) else
    if bits w 13 1 == 2 && bits w 20 20 == 0 then .ok (.maccAdd (getMaccF w)) else
    if bits w 7 1 == 3 && bits w 20 20 == 0 then .ok (.maccScl (getSlotSrc w)) else
    if bits w 13 1 == 4 && bits w 20 20 == 0 then .ok (.maccLd (getMaccF w)) else
    .error .unassignedFn
  | 13 =>
    if bits w 19 1 == 0 then .ok (.mtest (getDstF w)) else
    .error .unassignedFn
  | _ => .error .unassignedMajor

/-- The shared rows by their fixed bits (spec/03 R86 to R90); fields are not checked here. -/
def rawK (w : Nat) : Except DecodeError Instr :=
  match bits w 31 26 with
  | 60 =>
    if bits w 19 1 == 0 && bits w 25 24 == 0 then .ok (.tkgive (getScopeF2 w)) else
    if bits w 19 1 == 0 && bits w 25 24 == 1 then .ok (.tktake (getScopeF2 w)) else
    .error .unassignedFn
  | 61 =>
    if bits w 10 9 == 0 && bits w 23 23 == 1 then .ok (.loopImm (getLoopImmF w)) else
    if bits w 16 9 == 0 && bits w 23 23 == 0 then .ok (.loopReg (getLoopRegF w)) else
    .error .unassignedFn
  | 63 =>
    if bits w 5 0 == 0 then .ok (.dpair (getPairF w)) else
    .error .unassignedFn
  | _ => .error .unassignedMajor

/-- The engine rows by their fixed bits (spec/03 R86 to R90); fields are not checked here. -/
def rawE (w : Nat) : Except DecodeError Instr :=
  match bits w 31 26 with
  | 1 =>
    if bits w 19 0 == 0 then .ok (.act (bits w 25 24) (bits w 23 21) (bit w 20)) else
    .error .unassignedFn
  | 2 =>
    if bits w 23 0 == 0 then .ok (.pre (bits w 25 24)) else
    if bits w 25 0 == 8388608 then .ok (.preAll) else
    .error .unassignedFn
  | 3 =>
    if bits w 23 0 == 0 then .ok (.ref (bits w 25 24)) else
    .error .unassignedFn
  | 4 =>
    if bits w 23 0 == 0 then .ok (.rd (bits w 25 24)) else
    .error .unassignedFn
  | 5 =>
    if bits w 20 0 == 0 then .ok (.wr (bits w 25 24) (bits w 23 21)) else
    .error .unassignedFn
  | 6 =>
    if bits w 25 0 == 0 then .ok (.rowend) else
    .error .unassignedFn
  | 7 =>
    if bits w 19 0 == 0 then .ok (.cmp (bits w 25 24) (bits w 23 21) (bit w 20)) else
    .error .unassignedFn
  | 8 =>
    if bits w 22 0 == 0 then .ok (.awr (bits w 25 23)) else
    .error .unassignedFn
  | 9 =>
    if bits w 1 0 == 0 && bits w 10 10 == 0 then .ok (.ttp (bits w 25 21) (bits w 20 16) (bits w 15 11) (bits w 9 2)) else
    if bits w 1 0 == 0 && bits w 15 10 == 1 then .ok (.ttpT (bits w 25 21) (bits w 20 16) (bits w 9 2)) else
    .error .unassignedFn
  | 10 =>
    if bits w 19 0 == 0 then .ok (.tand (bits w 25 21) (bit w 20)) else
    .error .unassignedFn
  | 11 =>
    if bits w 19 0 == 0 then .ok (.tor (bits w 25 21) (bit w 20)) else
    .error .unassignedFn
  | 12 =>
    if bits w 25 0 == 0 then .ok (.tnot) else
    .error .unassignedFn
  | 13 =>
    if bits w 22 0 == 0 then .ok (.tcnt (bits w 25 23)) else
    .error .unassignedFn
  | 14 =>
    if bits w 22 0 == 0 then .ok (.setk (bits w 25 23)) else
    .error .unassignedFn
  | 15 =>
    if bits w 22 0 == 0 then .ok (.setm (bits w 25 23)) else
    .error .unassignedFn
  | 16 =>
    if bits w 22 21 == 0 then .ok (.movi (bits w 25 23) (bits w 20 0)) else
    if bits w 22 21 == 1 then .ok (.moviAdd (bits w 25 23) (bits w 20 0)) else
    if bits w 22 21 == 2 then .ok (.moviSh (bits w 25 23) (bits w 20 0)) else
    .error .unassignedFn
  | 17 =>
    if bits w 11 0 == 0 then .ok (.vlde (bits w 25 23) (bits w 22 12)) else
    .error .unassignedFn
  | 18 =>
    if bits w 16 0 == 0 then .ok (.mv (bits w 25 24) (bits w 23 21) (bits w 20 17)) else
    .error .unassignedFn
  | 19 =>
    if bits w 19 0 == 0 then .ok (.sadd (bits w 25 24) (bits w 23 21) (bit w 20)) else
    .error .unassignedFn
  | 20 =>
    if bits w 19 0 == 0 && bits w 25 24 == 0 then .ok (.redAdd (bits w 23 22) (bits w 21 20)) else
    if bits w 19 0 == 0 && bits w 25 24 == 1 then .ok (.redMax (bits w 23 22) (bits w 21 20)) else
    if bits w 16 0 == 0 && bits w 25 22 == 8 then .ok (.redSum (bits w 21 20) (bits w 19 17)) else
    .error .unassignedFn
  | 21 =>
    if bits w 23 0 == 0 then .ok (.accz (bits w 25 24)) else
    if bits w 23 0 == 8388608 then .ok (.acczW (bits w 25 24)) else
    .error .unassignedFn
  | 22 =>
    if bits w 21 0 == 0 then .ok (.accst (bits w 25 24) (bits w 23 22)) else
    .error .unassignedFn
  | 23 =>
    if bits w 17 0 == 0 then .ok (.mcast (bits w 25 24) (bits w 23 21) (bits w 20 18)) else
    .error .unassignedFn
  | 24 =>
    if bits w 15 0 == 0 then .ok (.bgcopy (bits w 25 24) (bits w 23 21) (bits w 20 19) (bits w 18 16)) else
    .error .unassignedFn
  | 25 =>
    if bits w 22 0 == 0 then .ok (.naddx (bits w 25 23)) else
    .error .unassignedFn
  | 26 =>
    if bits w 16 0 == 0 then .ok (.sig (bits w 25 24) (bits w 23 20) (bits w 19 17)) else
    .error .unassignedFn
  | 27 =>
    if bits w 16 0 == 0 then .ok (.waits (bits w 25 24) (bits w 23 20) (bits w 19 17)) else
    .error .unassignedFn
  | 28 =>
    if bits w 13 0 == 0 then .ok (.idmasJmp (bits w 25 14)) else
    .error .unassignedFn
  | 29 =>
    if bits w 9 0 == 0 then .ok (.bnz (bits w 25 23) (bit w 22) (bits w 21 10)) else
    .error .unassignedFn
  | 30 =>
    if bits w 2 0 == 0 && bits w 23 23 == 1 then .ok (.idmasLoop (bits w 25 24) (bits w 22 11) (bits w 10 3)) else
    if bits w 2 0 == 0 && bits w 19 11 == 0 && bits w 23 23 == 0 then .ok (.idmasLoopReg (bits w 25 24) (bits w 22 20) (bits w 10 3)) else
    .error .unassignedFn
  | 31 =>
    if bits w 17 0 == 0 then .ok (.halt (bits w 25 18)) else
    .error .unassignedFn
  | _ => .error .unassignedMajor

/-- The row a word names in decoder `k`, its fields not yet checked; the majors from 0x3C on are the rows that
every stream shares. -/
def rawWord (k : Form) (w : Nat) : Except DecodeError Instr :=
  match k with
  | .engine => rawE w
  | .stream x =>
    if bits w 31 26 < 60 then
      match x with
      | .s => rawS w
      | .a => rawA w
      | .v => rawV w
      | .m => rawM w
    else rawK w

/-- The decoder of `k` (spec/03 R67): the instruction of word `w`, or why there is none. -/
def decode (k : Form) (w : Nat) : Except DecodeError Instr :=
  match rawWord k w with
  | .error e => .error e
  | .ok i => if i.wf k then .ok i else .error .refusedField

/-- A little-endian word from four bytes (spec/00 R4). -/
def wordOfBytes (b0 b1 b2 b3 : BitVec 8) : Nat :=
  b0.toNat + b1.toNat * 2 ^ 8 + b2.toNat * 2 ^ 16 + b3.toNat * 2 ^ 24

/-- Decoding a list of bytes: one word and the bytes after it. -/
def decodeBytes (k : Form) : List (BitVec 8) → Except DecodeError (Instr × List (BitVec 8))
  | b0 :: b1 :: b2 :: b3 :: rest =>
    match decode k (wordOfBytes b0 b1 b2 b3) with
    | .ok i => .ok (i, rest)
    | .error e => .error e
  | _ => .error .tooShort

/-- The operand bits of ADD, SUB, MUL, MULH, DIV, REM and others. -/
def putRR (f : RR) : Nat :=
  f.d * 2 ^ 21 + b2n f.w * 2 ^ 20 + f.a.code * 2 ^ 14 + f.b.code * 2 ^ 8 + b2n f.e

/-- The operand bits of POPC, CLZ, CTZ, BREV, XMOV_X_TO_S, XMOV_S_TO_X and others. -/
def putR1 (f : R1) : Nat :=
  f.d * 2 ^ 21 + b2n f.w * 2 ^ 20 + f.a.code * 2 ^ 14 + b2n f.e

/-- The operand bits of ADDI, ANDI, ORI, XORI, MINI, MAXI and others. -/
def putRI (f : RI) : Nat :=
  f.d * 2 ^ 21 + b2n f.w * 2 ^ 20 + f.a.code * 2 ^ 14 + f.i * 2 ^ 1 + b2n f.e

/-- The operand bits of SHLI, SHRI, SHRAI, ROTI, ASHLI, ASHRI. -/
def putRSh (f : RSh) : Nat :=
  f.d * 2 ^ 21 + b2n f.w * 2 ^ 20 + f.a.code * 2 ^ 14 + f.n * 2 ^ 1 + b2n f.e

/-- The operand bits of MOVHI, JAL. -/
def putLI (f : LI) : Nat :=
  f.d * 2 ^ 21 + b2n f.w * 2 ^ 20 + f.i * 2 ^ 1 + b2n f.e

/-- The operand bits of BEQ, BNE, BLT, BGE, BLTU, BGEU and others. -/
def putTS (f : TS) : Nat :=
  f.c.code * 2 ^ 20 + f.a.code * 2 ^ 14 + f.i * 2 ^ 1 + b2n f.e

/-- The operand bits of JMP. -/
def putImm (f : Imm) : Nat :=
  f.i * 2 ^ 1 + b2n f.e

/-- The operand bits of LD. -/
def putLdF (f : LdF) : Nat :=
  f.d * 2 ^ 21 + b2n f.w * 2 ^ 20 + f.a.code * 2 ^ 14 + f.z * 2 ^ 11 + f.o * 2 ^ 1 + b2n f.e

/-- The operand bits of ST. -/
def putStF (f : StF) : Nat :=
  f.c.code * 2 ^ 20 + f.a.code * 2 ^ 14 + f.z * 2 ^ 12 + f.o * 2 ^ 1 + b2n f.e

/-- The operand bits of LDA. -/
def putLdaF (f : LdaF) : Nat :=
  f.d * 2 ^ 21 + b2n f.w * 2 ^ 20 + f.a.code * 2 ^ 14 + f.s * 2 ^ 10 + b2n f.f * 2 ^ 9 + f.o * 2 ^ 1 + b2n f.e

/-- The operand bits of STREL. -/
def putStrelF (f : StrelF) : Nat :=
  f.c.code * 2 ^ 20 + f.a.code * 2 ^ 14 + f.s * 2 ^ 10 + b2n f.f * 2 ^ 9 + f.o * 2 ^ 1 + b2n f.e

/-- The operand bits of CAS. -/
def putCasF (f : CasF) : Nat :=
  f.d * 2 ^ 21 + b2n f.w * 2 ^ 20 + f.a.code * 2 ^ 14 + f.b.code * 2 ^ 8 + f.s * 2 ^ 5 + b2n f.z * 2 ^ 4 + b2n f.e

/-- The operand bits of AMO. -/
def putAmoF (f : AmoF) : Nat :=
  f.d * 2 ^ 21 + b2n f.w * 2 ^ 20 + f.a.code * 2 ^ 14 + f.b.code * 2 ^ 8 + f.s * 2 ^ 5 + b2n f.z * 2 ^ 4 + f.o * 2 ^ 1 + b2n f.e

/-- The operand bits of NADD. -/
def putNaddF (f : NaddF) : Nat :=
  f.c.code * 2 ^ 20 + f.a.code * 2 ^ 14 + f.t * 2 ^ 12 + f.o * 2 ^ 1 + b2n f.e

/-- The operand bits of FENCE. -/
def putScopeF (f : ScopeF) : Nat :=
  f.s * 2 ^ 10 + b2n f.e

/-- The operand bits of BIND. -/
def putBindF (f : BindF) : Nat :=
  f.d * 2 ^ 21 + b2n f.w * 2 ^ 20 + f.a.code * 2 ^ 14 + f.b * 2 ^ 8 + f.s * 2 ^ 1 + b2n f.e

/-- The operand bits of ACQ, REL. -/
def putAcqF (f : AcqF) : Nat :=
  f.a.code * 2 ^ 14 + f.s * 2 ^ 10 + b2n f.f * 2 ^ 9 + f.o * 2 ^ 1 + b2n f.e

/-- The operand bits of EPUT_W, SUSP, SUSP_BAR, BARINIT. -/
def putSrcPair (f : SrcPair) : Nat :=
  f.a.code * 2 ^ 14 + f.b.code * 2 ^ 8 + b2n f.e

/-- The operand bits of SUSP_END, NPBEGIN, NPEND, ERET, ERET_FAIL, MSWAP and others. -/
def putEndF (f : EndF) : Nat :=
  b2n f.e

/-- The operand bits of YIELD, MTEST. -/
def putDstF (f : DstF) : Nat :=
  f.d * 2 ^ 21 + b2n f.w * 2 ^ 20 + b2n f.e

/-- The operand bits of WID. -/
def putDstNum (f : DstNum) : Nat :=
  f.d * 2 ^ 21 + b2n f.w * 2 ^ 20 + f.n * 2 ^ 8 + b2n f.e

/-- The operand bits of TRAP, BRK. -/
def putImm2 (f : Imm) : Nat :=
  f.i * 2 ^ 1 + b2n f.e

/-- The operand bits of ERET_RUN. -/
def putEretRunF (f : EretRunF) : Nat :=
  f.d * 2 ^ 21 + b2n f.w * 2 ^ 20 + f.a.code * 2 ^ 14 + f.b.code * 2 ^ 8 + f.x * 2 ^ 3 + b2n f.e

/-- The operand bits of SYSRD. -/
def putDstNum2 (f : DstNum) : Nat :=
  f.d * 2 ^ 21 + b2n f.w * 2 ^ 20 + f.n * 2 ^ 1 + b2n f.e

/-- The operand bits of SYSWR. -/
def putSyswrF (f : SyswrF) : Nat :=
  f.c.code * 2 ^ 20 + f.n * 2 ^ 1 + b2n f.e

/-- The operand bits of TKGIVE, TKTAKE. -/
def putScopeF2 (f : ScopeF) : Nat :=
  f.s * 2 ^ 20 + b2n f.e

/-- The operand bits of LOOP_IMM. -/
def putLoopImmF (f : LoopImmF) : Nat :=
  f.n * 2 ^ 24 + f.c * 2 ^ 11 + f.l * 2 ^ 1 + b2n f.e

/-- The operand bits of LOOP_REG. -/
def putLoopRegF (f : LoopRegF) : Nat :=
  f.n * 2 ^ 24 + f.s.code * 2 ^ 17 + f.l * 2 ^ 1 + b2n f.e

/-- The operand bits of DPAIR. -/
def putPairF (f : PairF) : Nat :=
  f.i * 2 ^ 16 + f.j * 2 ^ 6

/-- The operand bits of TDMAKE. -/
def putTdmakeF (f : TdmakeF) : Nat :=
  f.d * 2 ^ 21 + f.a.code * 2 ^ 14 + f.i * 2 ^ 1 + b2n f.e

/-- The operand bits of TDINFO. -/
def putTdinfoF (f : TdinfoF) : Nat :=
  f.d * 2 ^ 21 + b2n f.w * 2 ^ 20 + f.a * 2 ^ 14 + f.b.code * 2 ^ 8 + b2n f.e

/-- The operand bits of TLD. -/
def putTldF (f : TldF) : Nat :=
  f.d * 2 ^ 21 + f.a * 2 ^ 14 + f.b * 2 ^ 8 + b2n f.s * 2 ^ 2 + b2n f.t * 2 ^ 1 + b2n f.e

/-- The operand bits of TST. -/
def putTstF (f : TstF) : Nat :=
  f.d * 2 ^ 21 + f.a * 2 ^ 14 + f.b * 2 ^ 8 + b2n f.v * 2 ^ 3 + b2n f.s * 2 ^ 2 + b2n f.t * 2 ^ 1 + b2n f.e

/-- The operand bits of VLD, VST. -/
def putVldF (f : VldF) : Nat :=
  f.d * 2 ^ 21 + f.a * 2 ^ 14 + f.b * 2 ^ 8 + b2n f.e

/-- The operand bits of QBIND, MACC_SCL. -/
def putSlotSrc (f : SlotSrc) : Nat :=
  f.d * 2 ^ 21 + f.a * 2 ^ 14 + f.b.code * 2 ^ 8 + b2n f.e

/-- The operand bits of QUNBIND, MZERO_C, MZERO_T. -/
def putDst (f : Dst) : Nat :=
  f.d * 2 ^ 21 + b2n f.e

/-- The operand bits of QPOS. -/
def putQposF (f : QposF) : Nat :=
  f.d * 2 ^ 21 + b2n f.w * 2 ^ 20 + f.a * 2 ^ 14 + b2n f.e

/-- The operand bits of TCOPY. -/
def putTcopyF (f : TcopyF) : Nat :=
  f.d * 2 ^ 21 + f.a * 2 ^ 14 + f.b * 2 ^ 8 + b2n f.k * 2 ^ 5 + b2n f.c * 2 ^ 4 + f.h * 2 ^ 1 + b2n f.e

/-- The operand bits of TCOPY_TILE. -/
def putTcopyTileF (f : TcopyTileF) : Nat :=
  f.d * 2 ^ 21 + f.a * 2 ^ 14 + f.b * 2 ^ 8 + b2n f.k * 2 ^ 5 + f.h * 2 ^ 1 + b2n f.e

/-- The operand bits of CWAIT. -/
def putCwaitF (f : CwaitF) : Nat :=
  f.a.code * 2 ^ 14 + f.h * 2 ^ 1 + b2n f.e

/-- The operand bits of CRESUME, CRESUME_ABORT. -/
def putChanF (f : ChanF) : Nat :=
  f.h * 2 ^ 1 + b2n f.e

/-- The operand bits of CSTAGE. -/
def putDstNum3 (f : DstNum) : Nat :=
  f.d * 2 ^ 21 + b2n f.w * 2 ^ 20 + f.n * 2 ^ 1 + b2n f.e

/-- The operand bits of BARARRIVE. -/
def putArriveF (f : ArriveF) : Nat :=
  f.d * 2 ^ 21 + b2n f.w * 2 ^ 20 + f.a.code * 2 ^ 14 + f.b.code * 2 ^ 8 + f.s * 2 ^ 1 + b2n f.e

/-- The operand bits of BARWAIT. -/
def putBarwaitF (f : BarwaitF) : Nat :=
  f.a.code * 2 ^ 14 + f.b.code * 2 ^ 8 + f.s * 2 ^ 1 + b2n f.e

/-- The operand bits of VADD, VSUB, VMUL, VFMA, VDIV, VMIN and others. -/
def putVF (f : VF) : Nat :=
  f.d * 2 ^ 21 + b2n f.w * 2 ^ 20 + f.a.code * 2 ^ 14 + f.b.code * 2 ^ 8 + f.m * 2 ^ 5 + b2n f.z * 2 ^ 4 + b2n f.c * 2 ^ 3 + b2n f.l * 2 ^ 2 + b2n f.k * 2 ^ 1 + b2n f.e

/-- The operand bits of VCMP. -/
def putVcmpF (f : VcmpF) : Nat :=
  f.p * 2 ^ 24 + f.d * 2 ^ 21 + b2n f.w * 2 ^ 20 + f.a.code * 2 ^ 14 + f.b.code * 2 ^ 8 + f.m * 2 ^ 5 + b2n f.z * 2 ^ 4 + b2n f.l * 2 ^ 2 + b2n f.k * 2 ^ 1 + b2n f.e

/-- The operand bits of VSEL. -/
def putVselF (f : VselF) : Nat :=
  f.d * 2 ^ 21 + b2n f.w * 2 ^ 20 + f.a.code * 2 ^ 14 + f.b.code * 2 ^ 8 + f.m * 2 ^ 5 + b2n f.c * 2 ^ 3 + b2n f.l * 2 ^ 2 + b2n f.k * 2 ^ 1 + b2n f.e

/-- The operand bits of VMOV, VNEG, VABS, VSQRT, VEXP2, VLOG2 and others. -/
def putVUn (f : VUn) : Nat :=
  f.d * 2 ^ 21 + b2n f.w * 2 ^ 20 + f.a.code * 2 ^ 14 + f.m * 2 ^ 5 + b2n f.z * 2 ^ 4 + b2n f.c * 2 ^ 3 + b2n f.l * 2 ^ 2 + b2n f.e

/-- The operand bits of VCVT. -/
def putVcvtF (f : VcvtF) : Nat :=
  f.d * 2 ^ 21 + b2n f.w * 2 ^ 20 + f.a.code * 2 ^ 14 + f.b * 2 ^ 8 + f.m * 2 ^ 5 + b2n f.z * 2 ^ 4 + b2n f.c * 2 ^ 3 + b2n f.l * 2 ^ 2 + b2n f.e

/-- The operand bits of VQUANT. -/
def putVquantF (f : VquantF) : Nat :=
  f.d * 2 ^ 21 + f.a.code * 2 ^ 14 + f.b * 2 ^ 8 + b2n f.c * 2 ^ 3 + b2n f.l * 2 ^ 2 + b2n f.e

/-- The operand bits of VBCAST. -/
def putVbcastF (f : VbcastF) : Nat :=
  f.d * 2 ^ 21 + b2n f.w * 2 ^ 20 + f.a.code * 2 ^ 14 + f.b.code * 2 ^ 8 + b2n f.l * 2 ^ 2 + b2n f.k * 2 ^ 1 + b2n f.e

/-- The operand bits of VIOTA, VCOAL. -/
def putVOne (f : VOne) : Nat :=
  f.d * 2 ^ 21 + b2n f.w * 2 ^ 20 + f.a.code * 2 ^ 14 + b2n f.l * 2 ^ 2 + b2n f.e

/-- The operand bits of VRSUM, VRMAX, VRMIN. -/
def putVredF (f : VredF) : Nat :=
  f.d * 2 ^ 21 + b2n f.w * 2 ^ 20 + f.a.code * 2 ^ 14 + f.m * 2 ^ 5 + b2n f.l * 2 ^ 2 + b2n f.e

/-- The operand bits of VCOMPRESS, VEXPAND, VCAT. -/
def putVTwo (f : VTwo) : Nat :=
  f.d * 2 ^ 21 + b2n f.w * 2 ^ 20 + f.a.code * 2 ^ 14 + f.b.code * 2 ^ 8 + b2n f.c * 2 ^ 3 + b2n f.l * 2 ^ 2 + b2n f.k * 2 ^ 1 + b2n f.e

/-- The operand bits of VSLICE, VEXTEND. -/
def putVTwoX (f : VTwoX) : Nat :=
  f.d * 2 ^ 21 + b2n f.w * 2 ^ 20 + f.a.code * 2 ^ 14 + f.b.code * 2 ^ 8 + b2n f.c * 2 ^ 3 + b2n f.l * 2 ^ 2 + b2n f.e

/-- The operand bits of VRUNS, VLEN. -/
def putVlenF (f : VlenF) : Nat :=
  f.d * 2 ^ 21 + b2n f.w * 2 ^ 20 + f.a.code * 2 ^ 14 + b2n f.b * 2 ^ 8 + b2n f.e

/-- The operand bits of VSPILL, VSTS. -/
def putVstF (f : VstF) : Nat :=
  f.a.code * 2 ^ 14 + f.b.code * 2 ^ 8 + b2n f.l * 2 ^ 2 + b2n f.e

/-- The operand bits of VFILL. -/
def putVfillF (f : VfillF) : Nat :=
  f.d * 2 ^ 21 + b2n f.w * 2 ^ 20 + f.b.code * 2 ^ 8 + b2n f.e

/-- The operand bits of VLDS. -/
def putVldsF (f : VldsF) : Nat :=
  f.d * 2 ^ 21 + b2n f.w * 2 ^ 20 + f.b.code * 2 ^ 8 + b2n f.c * 2 ^ 3 + b2n f.e

/-- The operand bits of VGATHER. -/
def putVgatherF (f : VgatherF) : Nat :=
  f.d * 2 ^ 21 + b2n f.w * 2 ^ 20 + f.a.code * 2 ^ 14 + f.b.code * 2 ^ 8 + f.m * 2 ^ 5 + b2n f.z * 2 ^ 4 + b2n f.c * 2 ^ 3 + b2n f.l * 2 ^ 2 + b2n f.e

/-- The operand bits of VSCATTER. -/
def putVscatterF (f : VscatterF) : Nat :=
  f.d * 2 ^ 21 + f.a.code * 2 ^ 14 + f.b.code * 2 ^ 8 + f.m * 2 ^ 5 + b2n f.l * 2 ^ 2 + b2n f.e

/-- The operand bits of MSHAPE, CSHAPE. -/
def putMshapeF (f : MshapeF) : Nat :=
  f.d * 2 ^ 21 + f.a.code * 2 ^ 14 + b2n f.e

/-- The operand bits of MLDS. -/
def putMldsF (f : MldsF) : Nat :=
  f.a * 2 ^ 14 + b2n f.e

/-- The operand bits of MLDS_SP. -/
def putMldsSpF (f : MldsSpF) : Nat :=
  f.a * 2 ^ 14 + f.b * 2 ^ 8 + b2n f.e

/-- The operand bits of MMA. -/
def putMmaF (f : MmaF) : Nat :=
  f.d * 2 ^ 21 + f.a.code * 2 ^ 14 + f.b.code * 2 ^ 8 + b2n f.p * 2 ^ 2 + b2n f.s * 2 ^ 1 + b2n f.e

/-- The operand bits of MNEST. -/
def putMnestF (f : MnestF) : Nat :=
  f.n * 2 ^ 21 + f.a.code * 2 ^ 14 + b2n f.e

/-- The operand bits of MGO. -/
def putMgoF (f : MgoF) : Nat :=
  f.d * 2 ^ 21 + f.a * 2 ^ 14 + f.b * 2 ^ 8 + b2n f.p * 2 ^ 2 + b2n f.s * 2 ^ 1 + b2n f.e

/-- The operand bits of MRPT. -/
def putMrptF (f : MrptF) : Nat :=
  f.d * 2 ^ 21 + b2n f.w * 2 ^ 20 + f.b * 2 ^ 8 + b2n f.e

/-- The operand bits of MACC_CVT, MACC_RELU, MACC_ADD, MACC_LD. -/
def putMaccF (f : MaccF) : Nat :=
  f.d * 2 ^ 21 + f.a * 2 ^ 14 + b2n f.e

/-- The word of an instruction (spec/03 R66, R86 to R90; spec/09 R248); 0, which decodes in no stream, for an
event. -/
def encode : Instr → Nat
  | .add f => 0x04000000 + putRR f
  | .sub f => 0x04000002 + putRR f
  | .mul f => 0x04000004 + putRR f
  | .mulh f => 0x04000006 + putRR f
  | .div f => 0x04000008 + putRR f
  | .rem f => 0x0400000A + putRR f
  | .and f => 0x0400000C + putRR f
  | .or f => 0x0400000E + putRR f
  | .xor f => 0x04000010 + putRR f
  | .andn f => 0x04000012 + putRR f
  | .shl f => 0x04000014 + putRR f
  | .shr f => 0x04000016 + putRR f
  | .shra f => 0x04000018 + putRR f
  | .rot f => 0x0400001A + putRR f
  | .min f => 0x0400001C + putRR f
  | .max f => 0x0400001E + putRR f
  | .seteq f => 0x04000020 + putRR f
  | .setlt f => 0x04000022 + putRR f
  | .setltu f => 0x04000024 + putRR f
  | .popc f => 0x04000026 + putR1 f
  | .clz f => 0x04000028 + putR1 f
  | .ctz f => 0x0400002A + putR1 f
  | .brev f => 0x0400002C + putR1 f
  | .bext f => 0x08000000 + putRR f
  | .bextu f => 0x08000002 + putRR f
  | .bins f => 0x08000004 + putRR f
  | .fshl f => 0x08000006 + putRR f
  | .fshr f => 0x08000008 + putRR f
  | .addi f => 0x10000000 + putRI f
  | .andi f => 0x14000000 + putRI f
  | .ori f => 0x18000000 + putRI f
  | .xori f => 0x1C000000 + putRI f
  | .shli f => 0x20000000 + putRSh f
  | .shri f => 0x24000000 + putRSh f
  | .shrai f => 0x28000000 + putRSh f
  | .roti f => 0x2C000000 + putRSh f
  | .mini f => 0x30000000 + putRI f
  | .maxi f => 0x34000000 + putRI f
  | .seteqi f => 0x38000000 + putRI f
  | .setlti f => 0x3C000000 + putRI f
  | .setltui f => 0x40000000 + putRI f
  | .movhi f => 0x44000000 + putLI f
  | .beq f => 0x48000000 + putTS f
  | .bne f => 0x4C000000 + putTS f
  | .blt f => 0x50000000 + putTS f
  | .bge f => 0x54000000 + putTS f
  | .bltu f => 0x58000000 + putTS f
  | .bgeu f => 0x5C000000 + putTS f
  | .jmp f => 0x60000000 + putImm f
  | .jal f => 0x64000000 + putLI f
  | .jr f => 0x68000000 + putRI f
  | .xmovXToS f => 0x6C000000 + putR1 f
  | .xmovSToX f => 0x6C000002 + putR1 f
  | .ld f => 0x70000000 + putLdF f
  | .st f => 0x74000000 + putStF f
  | .lda f => 0x78000000 + putLdaF f
  | .strel f => 0x7C000000 + putStrelF f
  | .cas f => 0x80000000 + putCasF f
  | .amo f => 0x84000000 + putAmoF f
  | .nadd f => 0x88000000 + putNaddF f
  | .fence f => 0x8C000000 + putScopeF f
  | .bind f => 0x90000000 + putBindF f
  | .unbind f => 0x94000000 + putR1 f
  | .acq f => 0x98000000 + putAcqF f
  | .rel f => 0x9C000000 + putAcqF f
  | .lpatch f => 0xA0000000 + putRR f
  | .larm f => 0xA4000000 + putR1 f
  | .larmw f => 0xA8000000 + putR1 f
  | .eput f => 0xAC000000 + putRR f
  | .eputW f => 0xAC000002 + putSrcPair f
  | .susp f => 0xB0000000 + putSrcPair f
  | .suspBar f => 0xB0000002 + putSrcPair f
  | .suspEnd f => 0xB0000004 + putEndF f
  | .yield f => 0xB4000000 + putDstF f
  | .wid f => 0xB8000000 + putDstNum f
  | .npbegin f => 0xBC000000 + putEndF f
  | .npend f => 0xC0000000 + putEndF f
  | .trap f => 0xC4000000 + putImm2 f
  | .eret f => 0xC8000000 + putEndF f
  | .eretRun f => 0xC8000002 + putEretRunF f
  | .eretFail f => 0xC8000004 + putEndF f
  | .sysrd f => 0xCC000000 + putDstNum2 f
  | .syswr f => 0xD0000000 + putSyswrF f
  | .brk f => 0xD4000000 + putImm2 f
  | .wfe f => 0xD8000000 + putRR f
  | .tkgive f => 0xF0000000 + putScopeF2 f
  | .tktake f => 0xF1000000 + putScopeF2 f
  | .loopImm f => 0xF4800000 + putLoopImmF f
  | .loopReg f => 0xF4000000 + putLoopRegF f
  | .dpair f => 0xFC000000 + putPairF f
  | .aadd f => 0x04000000 + putRR f
  | .asub f => 0x04000002 + putRR f
  | .amul f => 0x04000004 + putRR f
  | .ashl f => 0x04000006 + putRR f
  | .ashr f => 0x04000008 + putRR f
  | .aand f => 0x0400000A + putRR f
  | .aor f => 0x0400000C + putRR f
  | .amin f => 0x0400000E + putRR f
  | .amax f => 0x04000010 + putRR f
  | .aaddi f => 0x08000000 + putRI f
  | .amuli f => 0x0C000000 + putRI f
  | .ashli f => 0x10000000 + putRSh f
  | .ashri f => 0x14000000 + putRSh f
  | .aandi f => 0x18000000 + putRI f
  | .aori f => 0x1C000000 + putRI f
  | .amini f => 0x20000000 + putRI f
  | .amaxi f => 0x24000000 + putRI f
  | .abr f => 0x28000000 + putTS f
  | .xmovXToA f => 0x2C000000 + putR1 f
  | .xmovAToX f => 0x2C000002 + putR1 f
  | .tdmake f => 0x30000000 + putTdmakeF f
  | .tdinfo f => 0x34000000 + putTdinfoF f
  | .tld f => 0x38000000 + putTldF f
  | .tst f => 0x3C000000 + putTstF f
  | .vld f => 0x40000000 + putVldF f
  | .vst f => 0x44000000 + putVldF f
  | .qbind f => 0x48000000 + putSlotSrc f
  | .qunbind f => 0x4C000000 + putDst f
  | .qpos f => 0x50000000 + putQposF f
  | .tcopy f => 0x54000000 + putTcopyF f
  | .tcopyTile f => 0x54000040 + putTcopyTileF f
  | .cwait f => 0x58000000 + putCwaitF f
  | .cresume f => 0x5C000000 + putChanF f
  | .cresumeAbort f => 0x5C000010 + putChanF f
  | .cstage f => 0x60000000 + putDstNum3 f
  | .barinit f => 0x64000000 + putSrcPair f
  | .bararrive f => 0x68000000 + putArriveF f
  | .barwait f => 0x6C000000 + putBarwaitF f
  | .crcget f => 0x70000000 + putRR f
  | .vadd f => 0x04000000 + putVF f
  | .vsub f => 0x08000000 + putVF f
  | .vmul f => 0x0C000000 + putVF f
  | .vfma f => 0x10000000 + putVF f
  | .vdiv f => 0x14000000 + putVF f
  | .vmin f => 0x18000000 + putVF f
  | .vmax f => 0x1C000000 + putVF f
  | .vand f => 0x20000000 + putVF f
  | .vor f => 0x24000000 + putVF f
  | .vxor f => 0x28000000 + putVF f
  | .vshl f => 0x2C000000 + putVF f
  | .vshr f => 0x30000000 + putVF f
  | .vcmp f => 0x34000000 + putVcmpF f
  | .vsel f => 0x38000000 + putVselF f
  | .vmov f => 0x3C000000 + putVUn f
  | .vneg f => 0x3C000100 + putVUn f
  | .vabs f => 0x3C000200 + putVUn f
  | .vsqrt f => 0x3C000300 + putVUn f
  | .vexp2 f => 0x3C000400 + putVUn f
  | .vlog2 f => 0x3C000500 + putVUn f
  | .vrcp f => 0x3C000600 + putVUn f
  | .vrsqrt f => 0x3C000700 + putVUn f
  | .vtanh f => 0x3C000800 + putVUn f
  | .vsigm f => 0x3C000900 + putVUn f
  | .vcvt f => 0x40000000 + putVcvtF f
  | .vquant f => 0x44000000 + putVquantF f
  | .vbcast f => 0x48000000 + putVbcastF f
  | .viota f => 0x4C000000 + putVOne f
  | .vrsum f => 0x50000000 + putVredF f
  | .vrmax f => 0x54000000 + putVredF f
  | .vrmin f => 0x58000000 + putVredF f
  | .vcompress f => 0x5C000000 + putVTwo f
  | .vexpand f => 0x60000000 + putVTwo f
  | .vslice f => 0x64000000 + putVTwoX f
  | .vcat f => 0x68000000 + putVTwo f
  | .vextend f => 0x6C000000 + putVTwoX f
  | .vcoal f => 0x70000000 + putVOne f
  | .vruns f => 0x74000000 + putVlenF f
  | .vlen f => 0x78000000 + putVlenF f
  | .vspill f => 0x7C000000 + putVstF f
  | .vfill f => 0x80000000 + putVfillF f
  | .vlds f => 0x84000000 + putVldsF f
  | .vsts f => 0x88000000 + putVstF f
  | .vgather f => 0x8C000000 + putVgatherF f
  | .vscatter f => 0x90000000 + putVscatterF f
  | .vmovxToV f => 0x94000000 + putR1 f
  | .vmovxToX f => 0x94000100 + putR1 f
  | .mand f => 0x98000000 + putRR f
  | .mor f => 0x98000002 + putRR f
  | .mxor f => 0x98000004 + putRR f
  | .mnot f => 0x98000006 + putR1 f
  | .mpopc f => 0x98000008 + putR1 f
  | .mshape f => 0x04000000 + putMshapeF f
  | .cshape f => 0x08000000 + putMshapeF f
  | .mzeroC f => 0x0C000000 + putDst f
  | .mzeroT f => 0x0C000002 + putDst f
  | .mlds f => 0x10000000 + putMldsF f
  | .mldsSp f => 0x10000002 + putMldsSpF f
  | .mswap f => 0x14000000 + putEndF f
  | .mma f => 0x18000000 + putMmaF f
  | .mnest f => 0x1C000000 + putMnestF f
  | .mgo f => 0x20000000 + putMgoF f
  | .mwait f => 0x24000000 + putEndF f
  | .mrpt f => 0x28000000 + putMrptF f
  | .mmode f => 0x2C000000 + putR1 f
  | .maccCvt f => 0x30000000 + putMaccF f
  | .maccRelu f => 0x30000002 + putMaccF f
  | .maccAdd f => 0x30000004 + putMaccF f
  | .maccScl f => 0x30000006 + putSlotSrc f
  | .maccLd f => 0x30000008 + putMaccF f
  | .mtest f => 0x34000000 + putDstF f
  | .act k r i => 0x04000000 + (k * 2 ^ 24 + r * 2 ^ 21 + b2n i * 2 ^ 20)
  | .pre k => 0x08000000 + (k * 2 ^ 24)
  | .preAll => 0x08800000
  | .ref k => 0x0C000000 + (k * 2 ^ 24)
  | .rd k => 0x10000000 + (k * 2 ^ 24)
  | .wr k s => 0x14000000 + (k * 2 ^ 24 + s * 2 ^ 21)
  | .rowend => 0x18000000
  | .cmp o s n => 0x1C000000 + (o * 2 ^ 24 + s * 2 ^ 21 + b2n n * 2 ^ 20)
  | .awr d => 0x20000000 + (d * 2 ^ 23)
  | .ttp x y z t => 0x24000000 + (x * 2 ^ 21 + y * 2 ^ 16 + z * 2 ^ 11 + t * 2 ^ 2)
  | .ttpT x y t => 0x24000400 + (x * 2 ^ 21 + y * 2 ^ 16 + t * 2 ^ 2)
  | .tand x n => 0x28000000 + (x * 2 ^ 21 + b2n n * 2 ^ 20)
  | .tor x n => 0x2C000000 + (x * 2 ^ 21 + b2n n * 2 ^ 20)
  | .tnot => 0x30000000
  | .tcnt d => 0x34000000 + (d * 2 ^ 23)
  | .setk s => 0x38000000 + (s * 2 ^ 23)
  | .setm s => 0x3C000000 + (s * 2 ^ 23)
  | .movi d i => 0x40000000 + (d * 2 ^ 23 + i)
  | .moviAdd d i => 0x40200000 + (d * 2 ^ 23 + i)
  | .moviSh d i => 0x40400000 + (d * 2 ^ 23 + i)
  | .vlde f o => 0x44000000 + (f * 2 ^ 23 + o * 2 ^ 12)
  | .mv a f l => 0x48000000 + (a * 2 ^ 24 + f * 2 ^ 21 + l * 2 ^ 17)
  | .sadd a j i => 0x4C000000 + (a * 2 ^ 24 + j * 2 ^ 21 + b2n i * 2 ^ 20)
  | .redAdd d s => 0x50000000 + (d * 2 ^ 22 + s * 2 ^ 20)
  | .redMax d s => 0x51000000 + (d * 2 ^ 22 + s * 2 ^ 20)
  | .redSum s e => 0x52000000 + (s * 2 ^ 20 + e * 2 ^ 17)
  | .accz a => 0x54000000 + (a * 2 ^ 24)
  | .acczW a => 0x54800000 + (a * 2 ^ 24)
  | .accst a f => 0x58000000 + (a * 2 ^ 24 + f * 2 ^ 22)
  | .mcast k s r => 0x5C000000 + (k * 2 ^ 24 + s * 2 ^ 21 + r * 2 ^ 18)
  | .bgcopy s e d f => 0x60000000 + (s * 2 ^ 24 + e * 2 ^ 21 + d * 2 ^ 19 + f * 2 ^ 16)
  | .naddx d => 0x64000000 + (d * 2 ^ 23)
  | .sig l c v => 0x68000000 + (l * 2 ^ 24 + c * 2 ^ 20 + v * 2 ^ 17)
  | .waits l c v => 0x6C000000 + (l * 2 ^ 24 + c * 2 ^ 20 + v * 2 ^ 17)
  | .idmasJmp t => 0x70000000 + (t * 2 ^ 14)
  | .bnz e d t => 0x74000000 + (e * 2 ^ 23 + b2n d * 2 ^ 22 + t * 2 ^ 10)
  | .idmasLoop n c l => 0x78800000 + (n * 2 ^ 24 + c * 2 ^ 11 + l * 2 ^ 3)
  | .idmasLoopReg n s l => 0x78000000 + (n * 2 ^ 24 + s * 2 ^ 20 + l * 2 ^ 3)
  | .halt c => 0x7C000000 + (c * 2 ^ 18)
  | _ => 0

/-- What a decoder accepted, as an option. -/
def accepted (r : Except DecodeError Instr) : Option Instr :=
  match r with
  | .ok i => some i
  | .error _ => none

/-- The instruction of a word by itself.  A word does not say which stream holds it, and the four streams and the
engines share no decoder (spec/03 R66): this asks the S, A, V and M streams and the engines in that order and
answers the first that accepts. -/
def decodeAny (w : Nat) : Option (Form × Instr) :=
  match accepted (decode (.stream .s) w) with
  | some i => some (.stream .s, i)
  | none => match accepted (decode (.stream .a) w) with
    | some i => some (.stream .a, i)
    | none => match accepted (decode (.stream .v) w) with
      | some i => some (.stream .v, i)
      | none => match accepted (decode (.stream .m) w) with
        | some i => some (.stream .m, i)
        | none => match accepted (decode .engine w) with
          | some i => some (.engine, i)
          | none => none

/-- The instruction of a word as the opcode table numbers its bits; a word of no bits is an event's row, which has
no encoding. -/
def decodeTableWord (nbits w : Nat) : Option Instr :=
  if nbits = 0 then none else (decodeAny (w % 2 ^ 32)).map (·.2)

end Sys2Proof
end

