-- ==== Sys2Proof/Machine/Bits.lean ====
section
/-! DEFINITION. Bit-field, sign and byte-order helpers shared by every family (spec/00 R4, R9; spec/02 R38, R39). -/

namespace Sys2Proof.Machine

/-- The signed value of the low `n` bits of `x` (spec/02 R38). -/
def signed (n x : Nat) : Int :=
  if x % 2 ^ n < 2 ^ (n - 1) then ((x % 2 ^ n : Nat) : Int) else ((x % 2 ^ n : Nat) : Int) - ((2 ^ n : Nat) : Int)

/-- The `n`-bit code of an integer, modulo 2^n. -/
def toCode (n : Nat) (x : Int) : Nat := (x % ((2 ^ n : Nat) : Int)).toNat

/-- The low `n` bits of `i` sign-extended to 64 bits (spec/04 R94). -/
def sext (n i : Nat) : Word := BitVec.ofInt 64 (signed n i)

/-- Field [hi:lo] of a 64-bit word as a number. -/
def field (w : Word) (hi lo : Nat) : Nat := bits w.toNat hi lo

/-- Bit `n` of a 64-bit word. -/
def wbit (w : Word) (n : Nat) : Bool := bit w.toNat n

/-- 64-bit word `i` of a record. -/
def word64 (n i : Nat) : Nat := bits n (64 * i + 63) (64 * i)

/-- The bytes of `x`, `n` of them, little-endian (spec/00 R4). -/
def bytesOf (n : Nat) (x : Nat) : List Byte :=
  match n with
  | 0 => []
  | k + 1 => BitVec.ofNat 8 x :: bytesOf k (x / 256)

/-- The little-endian number that a list of bytes holds (spec/00 R4). -/
def ofBytes : List Byte → Nat
  | [] => 0
  | b :: bs => b.toNat + 256 * ofBytes bs

/-- Ceiling of a quotient. -/
def ceilDiv (a b : Nat) : Nat := (a + b - 1) / b

/-- The numbers 0, 1, …, n − 1. -/
def upTo (n : Nat) : List Nat := List.range n

/-- The number of one bits of `x` below bit `n`. -/
def popCount (n x : Nat) : Nat := (upTo n).foldl (fun a i => a + x / 2 ^ i % 2) 0

/-- Adjacent pieces of `k` members of a list, at most `fuel` of them. -/
def chunks (k fuel : Nat) (l : List α) : List (List α) :=
  match fuel with
  | 0 => []
  | f + 1 => if l.isEmpty then [] else l.take k :: chunks k f (l.drop k)

/-- Insert into a rising list. -/
def insertNat (x : Nat) : List Nat → List Nat
  | [] => [x]
  | y :: r => if x ≤ y then x :: y :: r else y :: insertNat x r

/-- A list in rising order. -/
def sortNat (l : List Nat) : List Nat := l.foldr insertNat []

end Sys2Proof.Machine
end

