-- ==== Sys2Proof/Machine/Flags.lean ====
section
/-! DEFINITION. The flag bits of the streams and the engine, and the exact-arithmetic rounding helpers of the number
formats (spec/01 R31, R32; spec/02 R38 to R54, R57, R59). -/

namespace Sys2Proof.Machine

/-- FLAGS.INV, bit 0 (spec/01 R31). -/
def fINV : Word := 1
/-- FLAGS.DZ, bit 1. -/
def fDZ : Word := 2
/-- FLAGS.OVF, bit 2. -/
def fOVF : Word := 4
/-- FLAGS.UNF, bit 3. -/
def fUNF : Word := 8
/-- FLAGS.INX, bit 4. -/
def fINX : Word := 16
/-- FLAGS.SAT, bit 5. -/
def fSAT : Word := 32
/-- FLAGS.EMPTY, bit 6. -/
def fEMPTY : Word := 64

/-- Flags that `c` turns on. -/
def fIf (c : Bool) (f : Word) : Word := if c then f else 0

/-- The magnitude num ÷ den × 2^exp; zero when num = 0, and den is at least 1. -/
structure Mag where
  num : Nat
  den : Nat
  exp : Int
  deriving DecidableEq, Repr, Inhabited

/-- An exact value that enters a rounding: NaN (signalling or quiet), an infinity, or a signed number. -/
inductive Val where
  | nan (signalling : Bool)
  | inf (neg : Bool)
  | fin (neg : Bool) (m : Mag)
  deriving DecidableEq, Repr, Inhabited

/-- The exact integer `i` as a value. -/
def Val.ofInt (i : Int) : Val := .fin (i < 0) ⟨i.natAbs, 1, 0⟩

/-- A signed zero. -/
def Val.zero (neg : Bool) : Val := .fin neg ⟨0, 1, 0⟩

/-- One. -/
def Val.one : Val := .fin false ⟨1, 1, 0⟩

def Val.isNan : Val → Bool
  | .nan _ => true
  | _ => false

def Val.isSig : Val → Bool
  | .nan s => s
  | _ => false

def Val.isInf : Val → Bool
  | .inf _ => true
  | _ => false

def Val.isZero : Val → Bool
  | .fin _ m => m.num == 0
  | _ => false

/-- The sign of a number or infinity. -/
def Val.neg : Val → Bool
  | .nan _ => false
  | .inf n => n
  | .fin n _ => n

/-- The value with its sign flipped. -/
def Val.negate : Val → Val
  | .nan s => .nan s
  | .inf n => .inf (!n)
  | .fin n m => .fin (!n) m

/-- The value with its sign cleared. -/
def Val.abs : Val → Val
  | .nan s => .nan s
  | .inf _ => .inf false
  | .fin _ m => .fin false m

/-- A non-zero magnitude over the denominator `den * 2^k`: the numerator and denominator of m ÷ 2^u. -/
def Mag.over (m : Mag) (u : Int) : Nat × Nat :=
  if u ≤ m.exp then (m.num * 2 ^ (m.exp - u).toNat, m.den) else (m.num, m.den * 2 ^ (u - m.exp).toNat)

/-- floor(log2 m) of a non-zero magnitude. -/
def Mag.log2 (m : Mag) : Int :=
  let k : Int := (Nat.log2 m.num : Int) - (Nat.log2 m.den : Int)
  let big := if 0 ≤ k then m.den * 2 ^ k.toNat ≤ m.num else m.den ≤ m.num * 2 ^ (-k).toNat
  m.exp + (if big then k else k - 1)

/-- Order of two magnitudes. -/
def Mag.lt (a b : Mag) : Bool :=
  let e := min a.exp b.exp
  a.num * 2 ^ (a.exp - e).toNat * b.den < b.num * 2 ^ (b.exp - e).toNat * a.den

def Mag.beq (a b : Mag) : Bool := !a.lt b && !b.lt a

/-- `a < b` of two values that are no NaN; −0 equals +0. -/
def Val.lt (a b : Val) : Bool :=
  match a, b with
  | .nan _, _ => false
  | _, .nan _ => false
  | .inf n, .inf m => n && !m
  | .inf n, .fin _ _ => n
  | .fin _ _, .inf n => !n
  | .fin n x, .fin m y =>
    if x.num == 0 && y.num == 0 then false
    else if n && !m then true
    else if !n && m then false
    else if n then y.lt x else x.lt y

/-- `a = b` by value; a NaN equals nothing. -/
def Val.eqv (a b : Val) : Bool := !a.isNan && !b.isNan && !a.lt b && !b.lt a

/-- A rounding mode of spec/02 R49; the stochastic mode carries its draw z (R50). -/
inductive RMode where
  | nearest | zero | up | down
  | stoch (z : Nat)
  deriving DecidableEq, Repr, Inhabited

/-- Whether the mode rounds the magnitude up, for remainder r of D above a grid value whose integer part is q. -/
def RMode.away (mode : RMode) (neg : Bool) (q r D : Nat) : Bool :=
  if r == 0 then false
  else match mode with
    | .nearest => D < 2 * r || (2 * r == D && q % 2 == 1)
    | .zero => false
    | .up => !neg
    | .down => neg
    | .stoch z => z < r * 2 ^ 32 / D

/-- A floating-point format: total bits, precision with the hidden bit, exponent of its smallest subnormal, and
whether it has infinities and NaN (spec/02 R40, R41, R43, R44, R48). -/
structure FFmt where
  width : Nat
  prec : Nat
  umin : Int
  hasInf : Bool
  ieee : Bool
  deriving DecidableEq, Repr, Inhabited

def fmtFP4 : FFmt := ⟨4, 2, -1, false, false⟩
def fmtE4M3 : FFmt := ⟨8, 4, -9, false, false⟩
def fmtE5M2 : FFmt := ⟨8, 3, -16, false, false⟩
def fmtBF16 : FFmt := ⟨16, 8, -133, true, true⟩
def fmtFP16 : FFmt := ⟨16, 11, -24, true, true⟩
def fmtFP32 : FFmt := ⟨32, 24, -149, true, true⟩
def fmtE5M2S : FFmt := ⟨8, 3, -16, true, false⟩

/-- The magnitude code of infinity: all exponent bits one (formats with infinities). -/
def FFmt.infCode (f : FFmt) : Nat := 2 ^ (f.width - 1) - 2 ^ (f.prec - 1)

/-- The magnitude code of the largest finite value. -/
def FFmt.maxCode (f : FFmt) : Nat := if f.hasInf then f.infCode - 1 else 2 ^ (f.width - 1) - 1

/-- The canonical NaN code (spec/02 R43, R45). -/
def FFmt.nanCode (f : FFmt) : Nat := f.infCode + 2 ^ (f.prec - 2)

/-- A magnitude code with its sign. -/
def FFmt.withSign (f : FFmt) (neg : Bool) (c : Nat) : Nat := if neg then c + 2 ^ (f.width - 1) else c

/-- The value of a code (spec/02 R40, R41, R43, R44). -/
def FFmt.decode (f : FFmt) (code : Nat) : Val :=
  let c := code % 2 ^ (f.width - 1)
  let neg := code / 2 ^ (f.width - 1) % 2 == 1
  if f.hasInf && f.infCode < c then .nan (f.ieee && c < f.nanCode)
  else if f.hasInf && c == f.infCode then .inf neg
  else
    let e := c / 2 ^ (f.prec - 1)
    let m := c % 2 ^ (f.prec - 1)
    if e == 0 then .fin neg ⟨m, 1, f.umin⟩ else .fin neg ⟨2 ^ (f.prec - 1) + m, 1, f.umin + (e : Int) - 1⟩

/-- Round of a non-zero number into `f` (spec/02 R48, R49): the code and the flags. -/
def FFmt.roundMag (f : FFmt) (mode : RMode) (ftz neg : Bool) (m : Mag) : Nat × Word :=
  let k := m.log2
  let u := max (k - ((f.prec : Int) - 1)) f.umin
  let (n, d) := m.over u
  let q := n / d
  let r := n % d
  let y := if mode.away neg q r d then q + 1 else q
  let inexact := r != 0
  let tiny := k < f.umin + (f.prec : Int) - 1
  let code := if y < 2 ^ (f.prec - 1) then y else (u - f.umin + 1).toNat * 2 ^ (f.prec - 1) + (y - 2 ^ (f.prec - 1))
  let fl := fIf inexact fINX ||| fIf (tiny && inexact) fUNF
  if f.maxCode < code then
    let fl := fl ||| fOVF ||| fINX
    if !f.hasInf then (f.withSign neg f.maxCode, fl)
    else match mode with
      | .nearest => (f.withSign neg f.infCode, fl)
      | .stoch _ => (f.withSign neg f.infCode, fl)
      | .zero => (f.withSign neg f.maxCode, fl)
      | .up => (f.withSign neg (if neg then f.maxCode else f.infCode), fl)
      | .down => (f.withSign neg (if neg then f.infCode else f.maxCode), fl)
  else if ftz && f.ieee && code != 0 && code < 2 ^ (f.prec - 1) then (f.withSign neg 0, fl ||| fUNF ||| fINX)
  else (f.withSign neg code, fl)

/-- Round(x, fmt, mode) of spec/02 R48 but for the draw, which `mode` carries.  INV of a signalling NaN belongs to
the instruction that reads it (R45). -/
def FFmt.round (f : FFmt) (mode : RMode) (ftz : Bool) (x : Val) : Nat × Word :=
  match x with
  | .nan _ => if f.hasInf then (f.nanCode, 0) else (0, fINV)
  | .inf neg => if f.hasInf then (f.withSign neg f.infCode, 0) else (f.withSign neg f.maxCode, fOVF)
  | .fin neg m => if m.num == 0 then (f.withSign neg 0, 0) else f.roundMag mode ftz neg m

/-- One step of RMODE.SEED and its draw (spec/02 R50). -/
def draw (seed : Word) : Word × Nat :=
  let s : Word := if seed == 0 then 0x9E3779B97F4A7C15 else seed
  let s := s ^^^ (s <<< 13)
  let s := s ^^^ (s >>> 7)
  let s := s ^^^ (s <<< 17)
  (s, (s * 0x2545F4914F6CDD1D).toNat / 2 ^ 32)

/-- Sat(x, n bits, SAT) of spec/02 R47: the code and the flags. -/
def satInt (n : Nat) (x : Int) : Nat × Word :=
  let hi : Int := ((2 ^ (n - 1) : Nat) : Int) - 1
  let lo : Int := -((2 ^ (n - 1) : Nat) : Int)
  if hi < x then (toCode n hi, fSAT) else if x < lo then (toCode n lo, fSAT) else (toCode n x, 0)

/-- A magnitude rounded to an integer by the mode (spec/02 R53), and whether it was inexact. -/
def Mag.roundInt (m : Mag) (mode : RMode) (neg : Bool) : Nat × Bool :=
  if m.num == 0 then (0, false) else
  let (n, d) := m.over 0
  let q := n / d
  let r := n % d
  (if mode.away neg q r d then q + 1 else q, r != 0)

/-- Conversion of a floating-point value to an n-bit integer (spec/02 R53). -/
def Val.toInt (x : Val) (n : Nat) (mode : RMode) : Nat × Word :=
  match x with
  | .nan _ => (0, fINV)
  | .inf neg => (toCode n (if neg then -((2 ^ (n - 1) : Nat) : Int) else ((2 ^ (n - 1) : Nat) : Int) - 1), fSAT)
  | .fin neg m =>
    let (q, ix) := m.roundInt mode neg
    let (c, fl) := satInt n (if neg then -(q : Int) else (q : Int))
    (c, fl ||| fIf ix fINX)

/-- Conversion to UE8M0 (spec/02 R54). -/
def Val.toUE8M0 (x : Val) : Nat × Word :=
  match x with
  | .nan _ => (0xFF, 0)
  | .inf neg => if neg then (0, fINV) else (0xFE, fOVF)
  | .fin neg m =>
    if m.num == 0 then (0, fUNF)
    else if neg then (0, fINV)
    else
      let k := m.log2
      if k < -127 then (0, fUNF ||| fINX)
      else if 128 ≤ k then (0xFE, fOVF)
      else
        let (n, d) := m.over k
        ((127 + k).toNat, fIf (n != d) fINX)

/-- The value of a UE8M0 code (spec/02 R43). -/
def decodeUE8M0 (u : Nat) : Val := if u % 256 == 255 then .nan false else .fin false ⟨1, 1, (u % 256 : Int) - 127⟩

/-- Sum of two exact numbers; `down` is the mode that gives an exact zero sum a minus sign (IEEE 754-2019). -/
def addFin (down n1 : Bool) (a : Mag) (n2 : Bool) (b : Mag) : Val :=
  let e := min a.exp b.exp
  let x := a.num * 2 ^ (a.exp - e).toNat * b.den
  let y := b.num * 2 ^ (b.exp - e).toNat * a.den
  let d := a.den * b.den
  let i : Int := (if n1 then -(x : Int) else x) + (if n2 then -(y : Int) else y)
  if i == 0 then
    if a.num == 0 && b.num == 0 && n1 == n2 then Val.zero n1 else Val.zero (down)
  else .fin (i < 0) ⟨i.natAbs, d, e⟩

/-- Exact sum with its INV flag (spec/02 R45): ∞ − ∞ is a NaN. -/
def Val.add (down : Bool) (a b : Val) : Val × Word :=
  match a, b with
  | .nan s, y => (.nan false, fIf (s || y.isSig) fINV)
  | x, .nan s => (.nan false, fIf (s || x.isSig) fINV)
  | .inf n, .inf m => if n == m then (.inf n, 0) else (.nan false, fINV)
  | .inf n, .fin _ _ => (.inf n, 0)
  | .fin _ _, .inf n => (.inf n, 0)
  | .fin n x, .fin m y => (addFin down n x m y, 0)

/-- Exact product with its INV flag: 0 × ∞ is a NaN. -/
def Val.mul (a b : Val) : Val × Word :=
  match a, b with
  | .nan s, y => (.nan false, fIf (s || y.isSig) fINV)
  | x, .nan s => (.nan false, fIf (s || x.isSig) fINV)
  | .inf n, .inf m => (.inf (n != m), 0)
  | .inf n, .fin m y => if y.num == 0 then (.nan false, fINV) else (.inf (n != m), 0)
  | .fin n x, .inf m => if x.num == 0 then (.nan false, fINV) else (.inf (n != m), 0)
  | .fin n x, .fin m y => (.fin (n != m) ⟨x.num * y.num, x.den * y.den, x.exp + y.exp⟩, 0)

/-- Exact quotient with its flags: 0 ÷ 0 and ∞ ÷ ∞ are NaN, a finite non-zero value over zero sets DZ. -/
def Val.div (a b : Val) : Val × Word :=
  match a, b with
  | .nan s, y => (.nan false, fIf (s || y.isSig) fINV)
  | x, .nan s => (.nan false, fIf (s || x.isSig) fINV)
  | .inf _, .inf _ => (.nan false, fINV)
  | .inf n, .fin m _ => (.inf (n != m), 0)
  | .fin n _, .inf m => (Val.zero (n != m), 0)
  | .fin n x, .fin m y =>
    if y.num == 0 then (if x.num == 0 then (.nan false, fINV) else (.inf (n != m), fDZ))
    else (.fin (n != m) ⟨x.num * y.den, x.den * y.num, x.exp - y.exp⟩, 0)

/-- a × b + c with its INV flag, exact (spec/06 R170, spec/09 R265).  0 × ∞ sets INV also where c is a quiet NaN (DESIGN CHOICE,
notes/assumptions/69.md). -/
def Val.fma (down : Bool) (a b c : Val) : Val × Word :=
  let (p, f1) := a.mul b
  let (r, f2) := p.add down c
  (r, f1 ||| f2)

/-- floor(sqrt n) by `fuel` bits, from the highest down. -/
def isqrtLoop (n : Nat) : Nat → Nat → Nat
  | 0, acc => acc
  | k + 1, acc =>
    let t := acc + 2 ^ k
    isqrtLoop n k (if t * t ≤ n then t else acc)

/-- floor(sqrt n). -/
def isqrt (n : Nat) : Nat := isqrtLoop n (Nat.log2 n / 2 + 1) 0

/-- Square root (spec/06 R174) of a number with denominator 1, as a magnitude whose last bits stand for every bit
below them: 70 bits of quotient and one sticky bit, more than any mode of any format looks at. -/
def Mag.sqrt (m : Mag) : Mag :=
  let e := if m.exp % 2 == 0 then m.exp else m.exp - 1
  let n := (if m.exp % 2 == 0 then m.num else m.num * 2) * 2 ^ 140
  let q := isqrt n
  ⟨if q * q == n then 2 * q else 2 * q + 1, 1, e / 2 - 71⟩

/-- √x with its INV flag. -/
def Val.sqrt (x : Val) : Val × Word :=
  match x with
  | .nan s => (.nan false, fIf s fINV)
  | .inf neg => if neg then (.nan false, fINV) else (.inf false, 0)
  | .fin neg m =>
    if m.num == 0 then (x, 0)
    else if neg then (.nan false, fINV)
    else (.fin false m.sqrt, 0)

/-- EA(x) of spec/02 R57 for a finite number: 48 significant bits, nearest even, no exponent limit.  `sticky` is the
remainder bit of R59. -/
def eaRound (neg : Bool) (m : Mag) (sticky : Bool) : Val × Bool :=
  if m.num == 0 then (Val.zero false, sticky) else
  let u := m.log2 - 47
  let (n, d) := m.over u
  let q := n / d
  let r := if sticky then 4 * (n % d) + 1 else 4 * (n % d)
  let y := if RMode.nearest.away neg q r (4 * d) then q + 1 else q
  (.fin neg ⟨y, 1, u⟩, r != 0)

/-- EA of a value and whether it was inexact; an exact zero is +0. -/
def Val.ea (x : Val) : Val × Bool :=
  match x with
  | .fin neg m => eaRound neg m false
  | y => (y, false)

end Sys2Proof.Machine
end

