-- ==== Sys2Proof/Machine/State.lean ====
section
/-! DEFINITION. The state of an NB4 package, as plain data: cores and their streams, engines, memory, contexts,
Keystone, Xiost, links and bring-up (spec/01 R10 to R36 and the chapters each structure cites), and the machine
right after reset. -/

namespace Sys2Proof.Machine

/-- A table: keys in rising order, each with its entry; a key that is not listed holds the table's default. -/
abbrev Tab (α : Type) := List (Nat × α)

/-- Bytes by key, in rising order, none of them zero: an unlisted byte reads 0 (spec/17 R433;
notes/assumptions/5.md). -/
abbrev Mem := List Host.Cell

/-- A run: a 32-bit value field and a count of 1 to 65,535 (spec/01 R24). -/
structure Run where
  val : Nat
  cnt : Nat
  deriving DecidableEq, Repr, Inhabited

/-- A v or m register: its format tag and its runs (spec/01 R24, R29).  Its length is the sum of the counts. -/
structure VReg where
  tag : Nat := 0
  runs : List Run := []
  deriving DecidableEq, Repr, Inhabited

/-- A latch of the clause in progress (spec/01 R22, spec/03 R69, R70). -/
inductive Latch where
  | none
  | word (v : Word)
  | vec (r : VReg)
  | mask (r : VReg)
  deriving DecidableEq, Repr, Inhabited

/-- A tile register: shape word, row validity mask and the bytes of its 64 KiB unit (spec/01 R25, spec/07 R195). -/
structure Tile where
  shape : Word := 0
  valid : BitVec 256 := 0
  data : Mem := []
  deriving DecidableEq, Repr, Inhabited

/-- An accumulator: tag, shape and its elements in row-major order (spec/01 R26). -/
structure Acc where
  tag : Nat := 0
  rows : Nat := 0
  cols : Nat := 0
  vals : List Nat := []
  deriving DecidableEq, Repr, Inhabited

/-- A stationary plane (spec/07 R199 to R201): element tag, rows, stored elements per row, block size, scale format,
values, scales and 2:4 sparsity metadata. -/
structure Plane where
  (tag rows elems blk sfmt : Nat := 0)
  sparse : Bool := false
  vals : List (List Nat) := []
  scales : List (List Nat) := []
  nibs : List (List Nat) := []
  deriving DecidableEq, Repr, Inhabited

/-- A cause with its detail (spec/08 R226). -/
structure Cause where
  code : Nat := 0
  (i0 i1 i2 i3 : Word := 0)
  deriving DecidableEq, Repr, Inhabited

/-- A unit that a stream register has fetched and transformed (spec/05 R138 to R141). -/
structure QUnit where
  (rows elems tag : Nat := 0)
  codes : List Nat := []
  valid : List Bool := []
  runs : List Run := []
  asRuns : Bool := false
  flags : Word := 0
  fault : Option Cause := none
  deriving DecidableEq, Repr, Inhabited

/-! ### What a party has seen of memory (spec/11 R302 to R309; notes/assumptions/3.md) -/

/-- Writes that an access must find performed: every write of a number below `base`, those of the numbers [lo, hi) listed, and by
byte the writes of a number below the one listed. -/
structure View where
  base : Nat := 0
  ids : List (Nat × Nat) := []
  part : Tab Nat := []
  deriving DecidableEq, Repr, Inhabited

/-- A release: the agent, its scope, and the writes it covers (spec/11 R305). -/
structure Rel where
  (by_ scope : Nat := 0)
  view : View := {}
  deriving DecidableEq, Repr, Inhabited

/-- A release that the later writes of a stream carry: those to the object at a key after a REL, every one after a FENCE
(spec/04 R117; spec/11 R306). -/
structure Mark where
  key : Option Nat := none
  rel : Rel
  deriving DecidableEq, Repr, Inhabited

/-- What comes before the next access of a stream in core order: writes, releases, bytes seen by the number past their last write, and
what agents had seen at a count of the free values when so many writes had been made (spec/04 R108; spec/11 R304); how many writes
had been made when it last met another party's order; and by object the releases that its latest load, CAS or AMO of it returned
(spec/04 R116). -/
structure Sight where
  view : View := {}
  seen : Tab Nat := []
  marks : List Mark := []
  eyes : List (Nat × Nat × Nat) := []
  since : Nat := 0
  read : Tab (List Rel) := []
  deriving DecidableEq, Repr, Inhabited

/-- A write that some agent may not see yet (spec/11 R302, R309): its number and agent, the bytes before it, the size of the pieces
in which it becomes visible (0 all at once), whether all see it, for an atomic its scope, the releases it carries and those that
the next write of its release sequence or barrier phase inherits, and whether it flips a barrier (spec/11 R305; spec/05 R151). -/
structure Wr where
  (id by_ : Nat := 0)
  old : List Host.Cell := []
  grain : Nat := 0
  now : Bool := false
  scope : Option Nat := none
  (rels next : List Rel := [])
  (bar flip : Bool := false)
  deriving DecidableEq, Repr, Inhabited

/-- What an acquire or a release covers: scopes, each with ranges of addresses, or none for every address (spec/04 R118). -/
abbrev Cover := List (Nat × Option (List (Nat × Nat)))

/-- How a store is performed: in pieces of so many bytes (0 all at once), the scope of an atomic, what a release that it carries
covers, the units of a barrier credit, and whether it goes on with the release sequence before it, as a SIG add or a near-memory
add does. -/
structure How where
  grain : Nat := 1
  scope : Option Nat := none
  rel : Option Cover := none
  bar : Option Nat := none
  chain : Bool := false
  deriving DecidableEq, Repr, Inhabited

/-- A stream register: unbound, or bound to a descriptor image and a binding image, with its walk position
(spec/01 R23, spec/05 R137 to R142). -/
structure QReg where
  bound : Bool := false
  (desc bind : BitVec 512 := 0)
  popped : Nat := 0
  /-- Bound at supervisor level. -/
  sup : Bool := false
  units : List QUnit := []
  /-- What comes before its fetches. -/
  sight : Sight := {}
  deriving DecidableEq, Repr, Inhabited

/-- The register files of a core (spec/01 R19). -/
structure Regs where
  s : Vector Word 32
  a : Vector Word 32
  x : Vector Word 8
  v : Vector VReg 32
  m : Vector VReg 8
  t : Vector Tile 16
  c : Vector Acc 8
  d : Vector (Option (BitVec 512)) 16
  q : Vector QReg 16
  deriving DecidableEq, Repr

/-- What a clause reads, as it stood when the clause issued (spec/03 R72): the register files, RCAP, and RMODE of its
stream, and the table that its releases and acquires consult. -/
structure Snap where
  regs : Regs
  rcap : Nat
  (ctl seed : Word)
  /-- The binding table of the context (spec/04 R118). -/
  binds : Tab (BitVec 256) := []
  deriving DecidableEq, Repr

/-- A transfer of a copy channel that has not completed (spec/05 R143 to R148). -/
structure Transfer where
  ident : Nat := 0
  (src dst : BitVec 512 := 0)
  tile : Option Nat := none
  chan : Nat := 0
  ctl : Word := 0
  (crc check : Bool := false)
  /-- Queued at supervisor level. -/
  sup : Bool := false
  prog : Nat := 0
  /-- The source sector it has read, with its 32 bytes, and what it has yet to write of its destination's sectors: keys, values and
  masks of bits, and addresses (spec/11 R311; spec/12 R330, R331). -/
  line : Option (Nat × List Byte) := none
  out : List (Nat × Nat × Nat × Nat) := []
  /-- What comes before its reads. -/
  sight : Sight := {}
  deriving DecidableEq, Repr, Inhabited

/-- A copy channel: next identifier, CDONE, identifiers completed beyond it, queue, and the fault that suspends it
(spec/05 R144 to R148). -/
structure Channel where
  next : Nat := 1
  cdone : Nat := 0
  done : List Nat := []
  queue : List Transfer := []
  susp : Option Cause := none
  deriving DecidableEq, Repr, Inhabited

/-- An active loop: index, counter, and the start and end of its body (spec/03 R82). -/
structure LoopSt where
  n : Nat
  count : Nat
  start : Word
  stop : Word
  deriving DecidableEq, Repr, Inhabited

/-- What a clause does at its commit (spec/03 R72), in position order. -/
inductive Eff where
  | sreg (n : Nat) (v : Word)
  | areg (n : Nat) (v : Word)
  | xreg (n : Nat) (v : Word)
  | vreg (n : Nat) (r : VReg)
  | mreg (n : Nat) (r : VReg)
  | vfree (n : Nat)
  | mfree (n : Nat)
  | dslot (n : Nat) (img : BitVec 512)
  | qset (n : Nat) (q : QReg)
  | qpop (n : Nat)
  | tile (n : Nat) (t : Tile)
  | acc (n : Nat) (c : Acc)
  | swap
  | mlds (tb : Nat) (tm : Option Nat)
  | nest (n : Nat) (img : Word)
  | nestGo
  | fold (l : List Word)
  | mmode (v : Word)
  | fence4 (mask : Nat)
  | store (cells : List Host.Cell) (va : Nat) (how : How := {})
  | mark (scope : Nat) (key : Option Nat) (cover : Cover)
  | fill (key : Nat)
  | nadd (key : Nat) (ty : Nat) (v : Nat) (va : Nat)
  | addNow (key : Nat) (ty : Nat) (v : Nat) (va : Nat)
  | bind (i : Nat) (entry : BitVec 256)
  | sys (n : Nat) (v : Word)
  | npBegin
  | npEnd
  | transfer (ch : Nat) (t : Transfer)
  | stage (stg : Nat) (released : List Nat)
  | abort (ch : Nat)
  | edgePut (port : Nat) (item : Word)
  | patch (lrec word lo width v : Nat)
  | arm (lrec tier copy : Nat)
  deriving DecidableEq, Repr, Inhabited

/-- What follows a clause's commit (spec/03 R73; spec/08 R228, R234, R236). -/
inductive Post where
  | none
  | goto (target : Word)
  | loop (l : LoopSt)
  | syscall (n : Word)
  | eret
  | eretFail
  | suspend (why : Nat) (a b : Word)
  | finish
  | yielded
  | putWait (port : Nat) (item : Word)
  | armWait (lrec copy : Nat)
  | noSuspend
  deriving DecidableEq, Repr, Inhabited

/-- One position of a clause: the address of its word (the pair word for a dictionary entry, spec/03 R80) and its
instruction. -/
structure Slot where
  addr : Word
  ins : Instr
  deriving DecidableEq, Repr, Inhabited

/-- The clause a stream has issued and not yet committed (spec/03 R71, R72): its positions, the position that moves
next, latches and pending effects, tokens taken, and flags and seed so far. -/
structure Clause where
  live : Bool := false
  start : Word := 0
  next : Word := 0
  pos : Nat := 0
  slots : List Slot := []
  latches : List Latch := []
  effs : List Eff := []
  /-- How many effects each position added. -/
  lens : List Nat := []
  taken : List Nat := []
  flags : Word := 0
  /-- RMODE.SEED after the draws so far, if there were any. -/
  seed : Option Word := none
  post : Post := .none
  waiting : Bool := false
  bad : Option (Nat × Cause) := none
  snap : Option Snap := none
  /-- Run-pool entries that its check has found room for (spec/06 R158). -/
  need : Nat := 0
  /-- The position of an atomic that found its word uncorrectable, and MEM_UE (spec/04 R112). -/
  ue : Option (Nat × Cause) := none
  /-- The bytes of memory and the binding table on which what its positions answered rests (spec/04 R110 to R113, R119), and the
  positions whose wait has ended (spec/03 R445). -/
  basis : List Host.Cell := []
  table : Option (Tab (BitVec 256)) := none
  passed : Nat := 0
  deriving DecidableEq, Repr, Inhabited

/-- A failed residue check: its kind (1 product, 2 block sum, 3 integer EA), row, column, block and course (spec/07 R212). -/
structure Residue where
  (kind row col block course : Nat)
  deriving DecidableEq, Repr, Inhabited

/-- A wrong value that the array makes when it next computes element (row, col) (spec/02 R63): kind 1 the multiplier's output for
product `prod` of a block, 2 the block's sum, 3 the integer EA with the block whose course adds it last; and by how much, in units
of the significand product, of the block's grid, or of 1. -/
structure Glitch where
  (kind row col block prod : Nat := 0)
  delta : Int := 0
  deriving DecidableEq, Repr, Inhabited

/-- Progress of a resumable instruction (spec/03 R76; spec/07 R220): steps done, staged values, latched courses and
flags so far; for MGO the iteration and the working plane; for VCOMPRESS the segments done (spec/06 R178). -/
structure Progress where
  active : Bool := false
  step : Nat := 0
  iter : Nat := 0
  /-- Bits [11:0] of FOLDREP word 0 as last latched, and whether a later latch changed the courses in P. -/
  courses : Nat := 0
  mixed : Bool := false
  /-- EA of the elements of each completed step, in row-major order within the step. -/
  staged : List (List Val) := []
  flags : Word := 0
  seed : Word := 0
  accs : List Nat := []
  /-- Live rows as they stood at issue. -/
  mask : BitVec 256 := 0
  boff : Int := 0
  work : Plane := {}
  /-- For MGO the base and tensor-scale words; for VCOMPRESS the result runs so far. -/
  words : List Word := []
  runs : List Run := []
  /-- The first element in row-major order whose residue check has failed (spec/07 R212). -/
  bad : Option Residue := none
  deriving DecidableEq, Repr, Inhabited

/-- One instruction stream (spec/01 R19, R28, R31, R32): program counter, FLAGS, RMODE.CTL, RMODE.SEED, active loops
(innermost first), loop buffer, clause, recorded progress, and whether it stalls. -/
structure StreamSt where
  pc : Word := 0
  (flags ctl seed : Word := 0)
  loops : List LoopSt := []
  buf : Tab Nat := []
  clause : Clause := {}
  prog : Progress := {}
  held : List Nat := []
  tokenStall : Bool := false
  /-- The WFEs of the clause, by position, that have registered their word in `State.watch`. -/
  wake : Nat := 0
  stopped : Bool := false
  sight : Sight := {}
  deriving DecidableEq, Repr, Inhabited

/-- The token FIFOs of a core, in the order S→A, S→V, S→M, A→S, A→V, A→M, V→S, V→A, V→M, M→S, M→A, M→V
(spec/01 R21, spec/03 R78, spec/08 R226). -/
structure Tokens where
  count : Vector Nat 12
  held : Vector Nat 12
  /-- Tokens taken from each FIFO so far (spec/01 R20). -/
  took : Vector Nat 12 := Vector.replicate 12 0
  /-- What came before each token in a FIFO, those held first (spec/04 R108). -/
  sights : Vector (List Sight) 12 := Vector.replicate 12 []
  deriving DecidableEq, Repr

/-- ERET.run in progress (spec/08 R229): the stream, clauses asked for and done, and the address limit. -/
structure Erun where
  active : Bool := false
  strm : Strm := .a
  want : Nat := 0
  did : Nat := 0
  base : Word := 0
  savedPc : Word := 0
  result : Option Word := none
  deriving DecidableEq, Repr, Inhabited

/-- Trap state of a core (spec/01 R36, R37; spec/08 R222 to R233). -/
structure TrapSt where
  super : Bool := false
  (cause src : Word := 0)
  pcs : Vector Word 4
  info : Vector Word 4
  kscr : Vector Word 4
  (waddr wctl : Word := 0)
  oneshot : Nat := 0
  pending : List Cause := []
  userLoops : List LoopSt := []
  userBuf : Tab Nat := []
  /-- Faults of overlapping clauses, taken together: stream, position, cause (spec/03 R75). -/
  faults : List (Strm × Nat × Cause) := []
  first : Cause := {}
  erun : Erun := {}
  deriving DecidableEq, Repr

/-- Matrix state of a core (spec/01 R27; spec/07 R199, R208 to R219). -/
structure MatSt where
  (active shadow : Plane := {})
  pending : List (Nat × Option Nat) := []
  (nestShadow nestActive : Vector Word 6)
  fold : Vector Word 9
  mode : Word := 0
  /-- Courses fenced, in heat skip, and failing the known-pattern test. -/
  (fenced heat failing : Nat := 0)
  /-- Wrong values to come. -/
  glitch : List Glitch := []
  deriving DecidableEq, Repr

/-- Copies of a core: channels and the static schedule (spec/05 R143 to R155). -/
structure CopySt where
  ch : Vector Channel 8
  stg : Nat := 0
  (schedAddr schedCount : Nat := 0)
  released : List Nat := []
  deriving DecidableEq, Repr

/-- A write of an x, v or t register that another stream may not see yet (spec/01 R20): the register's value before it, its
stream, or the channel and identifier of a copy (spec/05 R146), the streams for which it is settled (a 4-bit mask), and for each
FIFO, by its number, the first token whose taker comes after it. -/
structure Past where
  old : Eff
  by_ : Option Strm
  copy : Nat × Nat := (0, 0)
  seen : Nat := 0
  first : Tab Nat := []
  deriving DecidableEq, Repr, Inhabited

/-- The continuation a core runs (spec/01 R14, R15). -/
structure Cont where
  (asid lrec node recIdx tier prio slot : Nat := 0)
  wid : Word := 0
  base : Word := 0
  lseed : Word := 0
  (restart replay : Bool := false)
  gang : List Nat := []
  /-- A member of a quad gang or a sector gang (spec/13 R353). -/
  ganged : Bool := false
  atSusp : Bool := false
  /-- When it was dispatched, in Keystone's own order. -/
  since : Nat := 0
  deriving DecidableEq, Repr, Inhabited

/-- One core. -/
structure Core where
  enabled : Bool := false
  inReset : Bool := false
  running : Bool := false
  cont : Cont := {}
  regs : Regs
  (ss sa sv sm : StreamSt := {})
  tok : Tokens
  trap : TrapSt
  mat : MatSt
  copy : CopySt
  (part : Word)
  (rcap : Nat)
  dict : Tab Nat := []
  np : Bool := false
  npCycles : Nat := 0
  npPc : Word := 0
  ctxBase : Word := 0
  past : List Past := []
  /-- Streams whose next clauses overlap and have yet to move, whether the moving one is of them, the run-pool need of those that
  failed their check, and the streams that commit only after the others have checked (spec/03 R75; spec/06 R158). -/
  (overlap tried later : Nat := 0)
  overlapping : Bool := false
  deriving DecidableEq, Repr

/-- A core as after reset (spec/01 R5, R17, R33, R35): PART at its reset fields, RCAP 8,192, everything else zero,
empty or unbound (notes/assumptions/4.md for the registers whose reset the spec does not state). -/
def Core.init : Core where
  regs := { s := Vector.replicate 32 0, a := Vector.replicate 32 0, x := Vector.replicate 8 0,
            v := Vector.replicate 32 {}, m := Vector.replicate 8 {}, t := Vector.replicate 16 {},
            c := Vector.replicate 8 {}, d := Vector.replicate 16 none, q := Vector.replicate 16 {} }
  tok := { count := Vector.replicate 12 0, held := Vector.replicate 12 0 }
  trap := { pcs := Vector.replicate 4 0, info := Vector.replicate 4 0, kscr := Vector.replicate 4 0 }
  mat := { nestShadow := Vector.replicate 6 0, nestActive := Vector.replicate 6 0, fold := Vector.replicate 9 0 }
  copy := { ch := Vector.replicate 8 {} }
  part := 0x182028
  rcap := 8192

/-- DRAM timing of one bank: the first cycles at which ACT, REF, RD or WR, and PRE may issue, the open row, and the
last refresh (spec/09 R253, R254). -/
structure Bank where
  row : Option Nat := none
  (nextAct nextRef nextCol nextPre lastRef : Nat := 0)
  /-- Its REF came after its deadline, and the refresh that is then forced has not (spec/09 R254). -/
  missed : Bool := false
  deriving DecidableEq, Repr, Inhabited

/-- A row read in flight: when it lands and what it brings; `ue` is the first column of an uncorrectable sector
(spec/09 R252, R282). -/
structure Landing where
  at_ : Nat
  bank : Nat
  row : Nat
  data : List Nat
  ue : Option Nat
  deriving DecidableEq, Repr, Inhabited

/-- A near-memory add: location, type (0 i32, 1 i64, 2 f32), value, who issued it, and its place among what its bank group has
accepted (spec/04 R113; spec/09 R271, R272). -/
structure Add where
  (key ty value : Nat := 0)
  (asid lrec node source seqNo va order arrived : Nat := 0)
  wid : Nat := 0
  det : Bool := false
  rels : List Rel := []
  deriving DecidableEq, Repr, Inhabited

/-- Who makes the accesses of a step (spec/12 R320): a stream, the fetches of a stream register, a copy channel, an engine that waits
for a semaphore, or a party outside the cores and engines. -/
inductive Asker where
  | stream (core : Nat) (k : Strm)
  | fetch (core q : Nat)
  | copy (core ch : Nat)
  | engine (n : Nat)
  | outside (n : Nat)
  deriving DecidableEq, Repr, Inhabited

/-- A main-die request that waits at a bank group, of at most 256 bytes (spec/12 R320): bytes of an MCAST row, bytes that Keystone
or Xiost writes (`sys`), a semaphore add with its slot, rows of a migration, or the place of an access that its agent makes itself;
the bank group, the engine that issued it and its instance; and its place among what the group has accepted. -/
structure Req where
  cells : List Host.Cell := []
  (isAdd sys : Bool := false)
  (key value owner inst slot toGroup arrived : Nat := 0)
  asker : Option Asker := none
  wr : Bool := false
  moves : Bool := false
  /-- The releases it carries, and for Keystone's and Xiost's bytes the item that an error is reported to. -/
  rels : List Rel := []
  who : Add := {}
  deriving DecidableEq, Repr, Inhabited

/-- An arbitration window (spec/12 R323, R324): the cycle at which it opened, that of the controller's last command, how much it has
served and applied, whether it has stopped, and the rows that were open. -/
structure Win where
  (opened cursor served applied : Nat := 0)
  stopped : Bool := false
  rows : List (Option Nat) := []
  deriving DecidableEq, Repr, Inhabited

/-- An Idmas engine and the controller of its bank group (spec/09 R245 to R255, R281; spec/12 R319 to R323). -/
structure Engine where
  running : Bool := false
  (asid lrec node index scope interval : Nat := 0)
  wid : Nat := 0
  (sup det : Bool := false)
  mpc : Nat := 0
  store : Tab Nat := []
  w : List Nat := []
  ba : Tab (List Nat) := []
  (key mask : Nat := 0)
  tags : BitVec 256 := 0
  vv : List Nat := []
  e : Vector Word 8
  loops : List LoopSt := []
  banks : Vector Bank 4
  eflags : Word := 0
  rwin : Vector Word 4
  sems : Vector (Option Nat) 4
  /-- Engine cycles: the next issue, the end of the datapath's and of the bus's occupancy, the last boundary; and what the
  datapath is writing (bit 0 W, 1 to 4 ba0 to ba3, 5 T, 6 VV, 8 to 15 e0 to e7). -/
  (now dpFree busFree dpDest lastBound : Nat := 0)
  /-- When the last boundary took effect. -/
  boundAt : Nat := 0
  lands : List Landing := []
  /-- What the engine has written since its last boundary (spec/12 R327). -/
  wbuf : List Host.Cell := []
  /-- The writes of the instance that have been performed (spec/09 R275), and what comes before its next read of a row (spec/11
  R307). -/
  view : View := {}
  sight : Sight := {}
  (refMiss rowOvr : Bool := false)
  /-- At a row boundary that has taken effect; stalled in MCAST, WAITS or HALT. -/
  (atBound stalled : Bool := false)
  /-- The slot of a semaphore whose add met an uncorrectable sector. -/
  semBad : Option Nat := none
  /-- Adds in the network, in the queue, and held for a flush (spec/09 R271, R272). -/
  (inbound adds held : List Add := [])
  /-- The queue of main-die requests, and at the first bank group of a channel those of the channel that wait in the stack port; how
  many requests and adds have been accepted; the window that is open (spec/12 R320, R322, R323; spec/16 R416). -/
  (reqs port : List Req := [])
  accepted : Nat := 0
  win : Option Win := none
  /-- The number of the instance, and its semaphore adds that have yet to be performed (spec/09 R279). -/
  (inst posted : Nat := 0)
  deriving DecidableEq, Repr

/-- An engine as after reset: no instance runs, every bank is precharged (spec/09 R245). -/
def Engine.init : Engine where
  e := Vector.replicate 8 0
  banks := Vector.replicate 4 {}
  rwin := Vector.replicate 4 0
  sems := Vector.replicate 4 none

/-- A context (spec/01 R10, R11; spec/04 R121; spec/10 R296): held state 0 OPEN, 1 STOPPED, 2 CLOSED, its block's
address, and the device's copy of the binding table. -/
structure Ctx where
  held : Nat := 2
  base : Nat := 0
  binds : Tab (BitVec 256) := []
  /-- Valid entries of its tables that are cached: the 4 KiB page they were walked for, where each lies, and its value (spec/10
  R296). -/
  cached : List (Nat × Nat × Nat) := []
  deriving DecidableEq, Repr, Inhabited

/-- Who moves in this step: a core and one of its streams, or an engine; who makes its accesses, and whether one of them waits for a
bank group. -/
structure Mover where
  core : Nat := 0
  strm : Strm := .s
  eng : Nat := 0
  asker : Asker := .outside 0
  wants : Bool := false
  deriving DecidableEq, Repr, Inhabited

/-- Why the machine stops. -/
inductive Fault where
  /-- The clocks are stopped after a thermal shutdown (spec/17 R442); raised by step.  Safe: nothing runs. -/
  | clocksStopped
  /-- The supplies are out of range (spec/17 R432); raised by step.  Safe: nothing runs. -/
  | noSupply
  deriving DecidableEq, Repr

/-- Why a step has no meaning. -/
inductive Refusal where
  /-- The instruction has no meaning in this model yet; raised by Dispatch alone.  Safe: nothing runs. -/
  | notModelled (mnemonic : String)
  deriving DecidableEq, Repr

/-- Keystone's own state of a launch record (spec/13 R338, R340, R446): 0 IDLE, 1 PENDING, 2 ACTIVE. -/
structure LRec where
  (state tier gen : Nat := 0)
  deriving DecidableEq, Repr, Inhabited

/-- Keystone's own state of a continuation record (spec/01 R15; spec/13 R351, R446): STATE, what it waits for
(1 semaphore, 2 held put, 3 barrier, 4 arm), its readiness time, core and save slot. -/
structure ContRec where
  (state lrec node wait prio age slot tier : Nat := 0)
  lastCore : Nat := 0xFF
  wid : Nat := 0
  (restart replay : Bool := false)
  /-- Last dispatched from PREEMPTED. -/
  resumed : Bool := false
  /-- When it became READY or was suspended, in Keystone's own order. -/
  readyAt : Nat := 0
  (waitAddr waitVal port item : Nat := 0)
  heldReady : Bool := false
  notCore : Nat := 0xFF
  adds : Nat := 0
  core : Nat := 0
  deriving DecidableEq, Repr, Inhabited

/-- Counts of a node of an admitted graph (spec/13 R357, R365). -/
structure NodeSt where
  (created done failed ended : Nat := 0)
  first : Nat := 2 ^ 64 - 1
  firstBad : Bool := false
  stopped : Bool := false
  flushed : Bool := false
  /-- The record held in reserve for the node (spec/13 R349). -/
  reserve : Nat := 2 ^ 24
  /-- Releases of engine instances that have ended, at a scope within the package (spec/09 R279). -/
  rels : List Rel := []
  /-- When the creations of a root node or a completion consumer became possible, in Keystone's own order (spec/13 R351). -/
  since : Option Nat := none
  deriving DecidableEq, Repr, Inhabited

/-- An edge of an admitted graph: its entry, its items with the moments at which they entered, in Keystone's own order, and the
puts held for it (record, item), oldest first (spec/13 R344, R351, R355). -/
structure EdgeSt where
  entry : Nat
  items : List Nat := []
  times : List Nat := []
  held : List (Nat × Nat) := []
  deriving DecidableEq, Repr, Inhabited

/-- An admitted graph with Keystone's copies (spec/13 R340, R342, R347). -/
structure Graph where
  (asid lrec tier : Nat := 0)
  copy : Nat := 0
  count : Nat := 0
  nodes : List Nat := []
  images : List (List (BitVec 512)) := []
  code : List (List Nat) := []
  sems : List (List (Option Nat)) := []
  st : List NodeSt := []
  edges : List EdgeSt := []
  deriving DecidableEq, Repr, Inhabited

/-- A launch in the pending pool (spec/13 R345): which dependences have been found to hold, and the graph once it has
passed the checks of R347. -/
structure Pending where
  (asid lrec tier order : Nat := 0)
  copy : Nat := 0
  priv : Bool := false
  /-- Its dependences are registered in the monitor (spec/13 R346, R358). -/
  reg : Bool := false
  (dep0 dep1 : Bool := false)
  passed : Option Graph := none
  deriving DecidableEq, Repr, Inhabited

/-- An engine instance that waits at its stack controller (spec/13 R352). -/
structure EngInst where
  (asid lrec node eng prio order : Nat := 0)
  wid : Nat := 0
  deriving DecidableEq, Repr, Inhabited

/-- A remembered affinity key (spec/13 R354). -/
structure Affinity where
  (asid lrec node level key core : Nat := 0)
  deriving DecidableEq, Repr, Inhabited

/-- KSRING of a context (spec/13 R368). -/
structure KsRing where
  bad : Bool := false
  lost : Nat := 0
  deriving DecidableEq, Repr, Inhabited

/-- Storage of a core that can hold an uncorrectable error (spec/10 R285; spec/15 R392): a register by its number, a
dictionary entry, an 8-byte word of the pool by its offset (in the run pool with the v register, or 32 and the m register,
whose data it holds; in the accumulator region with the accumulator; in a tile unit or in scratch from its start), the
active (0) or shadow (1) plane, the staging store. -/
inductive Store where
  | s (n : Nat)
  | a (n : Nat)
  | x (n : Nat)
  | d (n : Nat)
  | q (n : Nat)
  | dict (n : Nat)
  | run (reg off : Nat)
  | acc (reg off : Nat)
  | tile (unit off : Nat)
  | scratch (off : Nat)
  | plane (k : Nat)
  | staging
  deriving DecidableEq, Repr, Inhabited

/-- An uncorrectable error in the storage of a core. -/
structure Flaw where
  core : Nat := 0
  store : Store
  deriving DecidableEq, Repr, Inhabited

/-- What a pre-emption saved (spec/13 R361; spec/15 R398): the core's state and its scratch by offset. -/
structure Saved where
  core : Core
  scr : Mem := []
  /-- Uncorrectable errors of the core's storage as it was saved. -/
  flaws : List Store := []
  deriving DecidableEq, Repr

/-- Keystone (spec/13): launches, records, graphs, queued engine instances and affinity keys, most recent first; dispatch
rounds; quads and sectors reserved for gang groups; what save slots hold, by record; a halt of dispatch. -/
structure Keystone where
  lrecs : Tab LRec := []
  recs : Tab ContRec := []
  pend : List Pending := []
  graphs : List Graph := []
  engQ : List EngInst := []
  aff : List Affinity := []
  (round order : Nat := 0)
  tslice : Bool := false
  rings : Tab KsRing := []
  reserved : List (Nat × Nat) := []
  saved : Tab Saved := []
  halted : Bool := false
  /-- The semaphores that the monitor's entries hold, and those of its overflow list in the order of their reads, as ASID × 2^56 +
  address (spec/13 R358). -/
  (mon overflow : List Nat := [])
  /-- The round's placement is over and it has pre-empted nothing yet (spec/13 R361). -/
  mayPreempt : Bool := false
  deriving DecidableEq, Repr

/-- A command queue (spec/14 R370 to R373, R382). -/
structure Queue where
  (base sbase ctl : Nat := 0)
  (en err pend : Bool := false)
  (tail head seq nfail presult ecode epos ehdr : Nat := 0)
  /-- 0 none, 1 WAIT, 2 full tier 0, 3 BARR; and the words of the WAIT. -/
  hold : Nat := 0
  words : List Nat := []
  /-- EN := 0 waits for the packet being accepted. -/
  closing : Bool := false
  deriving DecidableEq, Repr, Inhabited

/-- A packet that has been accepted and not completed (spec/14 R379): its queue, type and IRQ, and what it waits
for. -/
structure Packet where
  (queue type asid lrec lo hi : Nat := 0)
  irq : Bool := false
  deriving DecidableEq, Repr, Inhabited

/-- The Xiost complexes (spec/14 R373, R386 to R391). -/
structure Xiost where
  queues : Tab Queue := []
  scan : Nat := 0
  /-- The packet now being carried out: queue, slot count, header and payload words. -/
  now : List Nat := []
  nowQueue : Nat := 0
  accepted : Nat := 0
  open_ : List Packet := []
  /-- The queue `nowQueue` is being served. -/
  serving : Bool := false
  (gen imgver upst sby active : Nat := 0)
  /-- The UPDATE in progress: its queue, the image and its signature. -/
  updQueue : Nat := 0
  (updImage updSig : List Byte := [])
  /-- A checkpoint has stopped acceptance. -/
  quiet : Bool := false
  /-- 0 off, 1 record, 2 replay -/
  recMode : Nat := 0
  /-- The record buffer: its address, port, LOG2SIZE and HEAD, and the queue of the REC packet. -/
  (recBuf recLog recQueue recPort recHead : Nat := 0)
  /-- The dispatch round of the REC packet, from which the rounds of its entries count (notes/assumptions/46.md). -/
  recBase : Nat := 0
  deriving DecidableEq, Repr, Inhabited
/-- A link as LINKSTAT reports it (spec/16 R418). -/
structure Link where
  (state width reason : Nat := 0)
  deriving DecidableEq, Repr, Inhabited

/-- The receiving side of a Vomel port (spec/16 R423): the sequence number expected, whether flits are discarded
until a replay arrives, and consecutive replays. -/
structure VPort where
  (expect replays : Nat := 0)
  discarding : Bool := false
  deriving DecidableEq, Repr, Inhabited

/-- The external flash and the identity (spec/17 R435 to R438): the two record copies, the copy in use, the copy being
written, the two image slots, helper data and certificate chain, and the images on complexes A and B. -/
structure Flash where
  copies : List (List Byte) := [[], []]
  used : Option Nat := none
  writing : Option (Nat × List Byte) := none
  images : List (List Byte) := [[], []]
  helper : List Byte := []
  chain : List Byte := []
  ident : List Byte := []
  (imgA imgB : List Byte := [])
  deriving DecidableEq, Repr, Inhabited

/-- A write to a peer package that its port has sent and the peer has not acknowledged (spec/16 R425): the Vomel port, the core,
the bytes, and the issuer. -/
structure FarWrite where
  (port core : Nat := 0)
  cells : List Host.Cell := []
  who : Add := {}
  /-- The agent that writes, how, and the releases the write carries. -/
  agent : Nat := 0
  how : How := {}
  rels : List Rel := []
  deriving DecidableEq, Repr, Inhabited

/-- Device registers, links, resets, checkpoints and power (spec/15 R394 to R410; spec/16; spec/17). -/
structure Dev where
  /-- The supplies are in range; the clocks are stopped. -/
  supply : Bool := true
  halted : Bool := false
  /-- DEVSTAT (spec/17 R433). -/
  (ready therm recok idfail : Bool := false)
  (phase failCode ncores : Nat := 0)
  /-- Phase 3 has begun: the host ports answer configuration requests (spec/17 R434); LANEMAP and TRAIN as it left them (R435). -/
  phy : Bool := false
  found : List Byte := []
  /-- Corrected-error counters by BAR0 offset (spec/15 R394). -/
  counters : Tab Nat := []
  /-- Uncorrectable sectors that have been met, and are counted (spec/15 R394). -/
  met : List Nat := []
  autopc : Bool := true
  autocore : Bool := true
  /-- CORERST: RES, CORE as written, BUSY; the core in reset; and the cores of resets that wait, oldest first (spec/15 R402, R411). -/
  (rstRes rstCore rstReg : Nat := 0)
  rstBusy : Bool := false
  rstLater : List Nat := []
  /-- CKDESC and CKCTL (spec/15 R405), the port that wrote them, the descriptor in force and the TICK of the fence. -/
  (ckdesc ckport ckStatus ckOp npoison ckTick : Nat := 0)
  ckHold : Bool := false
  /-- The 10 ms of the fence have passed: streams stop at their clause boundaries (spec/15 R406). -/
  ckStop : Bool := false
  /-- A checkpoint that waits for a reset to end (spec/15 R411). -/
  ckLater : Bool := false
  ckWords : List Nat := []
  /-- Ethernet ports still used by the stream, and the masks of ports used before it with the block at which each was lost
  (spec/15 R409). -/
  ckPorts : Nat := 0
  ckLost : List (Nat × Nat) := []
  links : Tab Link := []
  vself : Nat := 0xFF
  vinwin : Tab Nat := []
  ethqp : Tab Nat := []
  /-- ASIDFN by port × 1,024 + ASID; an unlisted byte is 0xFF (spec/16 R420). -/
  asidfn : Tab Nat := []
  /-- Configuration of a function by port × 64 + function (spec/16 R419, R421): log2 of the BAR2 size, ATS enabled, virtual
  functions enabled. -/
  config : Tab (Nat × Bool × Bool) := []
  /-- Contexts that a Function Level Reset has stopped, with port × 64 + function of the reset (spec/16 R422). -/
  flr : List (Nat × Nat) := []
  vports : Tab VPort := []
  /-- What the far sides refuse (spec/10 R298; spec/16 R421, R426): link × 64 + requesting function, with the 4 KiB page of a host
  or the 256-byte block of a peer; and the host pages among them whose translation a port still caches. -/
  (refused atc : List (Nat × Nat) := [])
  /-- Writes to peers that await their acknowledgement, oldest first. -/
  farWrites : List FarWrite := []
  /-- The Vomel port that has just gone down with reads in flight, and the step's counter then (spec/16 R425). -/
  farCut : Nat × Nat := (18, 0)
  /-- Send-rate steps of the Ethernet ports and retransmissions per port × 1,024 + queue pair (spec/16 R427, R429). -/
  ethRate : Tab Nat := []
  ethRetry : Tab Nat := []
  /-- Work requests in flight per port × 1,024 + queue pair, oldest first (spec/16 R429). -/
  ethFly : Tab (List Nat) := []
  /-- Core clock in MHz set for heat, by core; the courses that stepped it down and are not yet cool, and those for which a migration
  was asked, by core; steps taken for power; stacks that hold starts, and that are at 80 degrees or above (spec/17 R441, R443). -/
  (clocks slowed long : Tab Nat := [])
  powerSteps : Nat := 0
  (dieHold dieSlow : Nat := 0)
  /-- Cores whose continuation is to be migrated (spec/17 R441). -/
  migrate : List Nat := []
  flash : Flash := {}
  /-- Pseudo-channels that migrate: stack × 64 + channel × 2 + pc, and the rows copied so far; and the rows being copied: their
  pseudo-channel, the first and how many (spec/12 R333). -/
  retiring : List (Nat × Nat) := []
  copying : Option (Nat × Nat × Nat) := none
  /-- Nodes of other packages that have ended, whose adds await their flush: ASID, launch record and node (spec/09 R272). -/
  farEnds : List (Nat × Nat × Nat) := []
  /-- SPDM state per port: 0 none, 1 version, 2 capabilities, 3 algorithms (spec/17 R439). -/
  spdm : Tab Nat := []
  /-- What the outside has received: read data, completions, attestation answers, newest first. -/
  out : List (List Nat) := []
  deriving DecidableEq, Repr, Inhabited

/-- The machine. -/
structure State where
  /-- Who moves next, in order (notes/assumptions/1.md). -/
  turns : List Turn
  /-- Who moves now, and whether its clause keeps the turn. -/
  cur : Mover
  moving : Bool
  /-- What the event now being taken supplies. -/
  inp : Input
  /-- The counter the free values are drawn at (notes/assumptions/2.md). -/
  free : Nat
  cores : Tab Core
  engines : Tab Engine
  mem : Mem
  /-- Writes that some stream may not see yet, newest first, the number of the next, and the FENCEs and invalidations before it (spec/11 R306, R309). -/
  hist : List Wr
  nextWr : Nat
  fences : List Rel
  /-- Uncorrectable HBM sectors, and host data that a link delivers poisoned, by location ÷ 32 (spec/12 R331; spec/15 R392). -/
  ue : List Nat
  /-- Uncorrectable errors in the storage of cores (spec/15 R392). -/
  flaws : List Flaw
  /-- The words that stalled WFEs watch, by core × 4 + clause position, until they are written (spec/08 R235). -/
  watch : Tab Nat
  /-- Sector read buffer lines, by line × 16 + sector (spec/10 R288). -/
  srb : Tab (List Byte)
  ctxs : Tab Ctx
  /-- Interleave generation, migration flag and the LIVE and LOST masks of the eight stacks (spec/12 R337). -/
  igen : Nat
  migrating : Bool
  live : Vector Word 8
  lost : Vector Word 8
  /-- Core cycles since DEVICE_READY as last read (spec/01 R36). -/
  tick : Nat
  /-- Links that cannot carry an access: host ports 0 and 1, and 16 + package for peers (spec/10 R298). -/
  down : List Nat
  /-- Uncorrectable errors met by writes and adds that their context has yet to hear of (spec/15 R396). -/
  ues : List Add
  ks : Keystone
  xi : Xiost
  /-- MSI-X messages sent, as port and vector, newest first (spec/14 R381). -/
  msix : List (Nat × Nat)
  dev : Dev
  deriving DecidableEq, Repr

/-- The machine right after reset: the supplies have just come into range (spec/17 R432), every register holds its
stated Reset value (R433), no core is enabled yet, memory lists nothing and no context is open. -/
def State.reset : State where
  turns := []
  cur := {}
  moving := false
  inp := {}
  free := 0
  cores := []
  engines := []
  mem := []
  hist := []
  nextWr := 0
  fences := []
  ue := []
  flaws := []
  watch := []
  srb := []
  ctxs := []
  igen := 1
  migrating := false
  live := Vector.replicate 8 (BitVec.allOnes 64)
  lost := Vector.replicate 8 0
  tick := 0
  down := []
  ues := []
  ks := {}
  xi := {}
  msix := []
  dev := {}

end Sys2Proof.Machine
end

