-- ==== Sys2Proof/Config.lean ====
section
/-! DEFINITION. What the spec leaves open: free values, as constants without a body.  Nothing can be proved about
which value one of them has, so a statement about the machine holds for every value. -/

namespace Sys2Proof.Config

/-- Who moves when `turns` lists nobody (notes/assumptions/1.md). -/
opaque freeTurn : Nat → Turn

/-- A free 64-bit value: elapsed core cycles at a read of TICK or NPSTATE (spec/01 R36; notes/assumptions/2.md). -/
opaque freeCycles : Nat → Nat

/-- Which of the cached values of a table entry a walk uses, counted from 1, or the entry as it is (spec/10 R296, R297): by the
step's counter, the address that is translated and the address of the entry. -/
opaque staleXlate : Nat → Nat → Nat → Nat

/-- Whether a read or write of a register that races keeps the older value (spec/01 R20): by the step's counter, the register
(its file and number) and the element, or a number past every element for the tag, shape or length. -/
opaque raceOld : Nat → Nat → Nat → Bool

/-- When a piece of a write becomes visible to an agent that nothing makes see it: the value of the step's counter, by the agent, the
number of the write and the piece (spec/11 R309). -/
opaque arrives : Nat → Nat → Nat → Nat

/-- Whether piece `k` of a plain write at count `t` takes its place in coherence order before newer writes that its agent has not
met, and of how many (spec/11 R302, R309; notes/assumptions/3.md). -/
opaque late : Nat → Nat → Bool
opaque slip : Nat → Nat

/-- Whether a load at count `t` goes to its home although its sector's read buffer holds line `k` (spec/10 R288;
notes/assumptions/13.md). -/
opaque passBuffer : Nat → Nat → Bool

/-- Whether a host port holds the translation of a page that the host starts to refuse (spec/16 R421): by the step's counter and
the page. -/
opaque atcHolds : Nat → Nat → Bool

/-- Which of the numbers that the error bound of a special function admits is its result (spec/02 R65): by function, FP32
source code and FTZ. -/
opaque special : Nat → Nat → Bool → Nat

/-- Byte of a save slot whose encoding is the core's own (spec/15 R398; notes/assumptions/18.md): by the core's state and the
offset. -/
opaque slotPrivate : Machine.Core → Nat → BitVec 8

/-- Ed25519 verification of a signature over bytes under a public key, and SHA-512 (spec/14 R387; spec/17 R435 to R439;
notes/assumptions/19.md). -/
opaque ed25519 : List (BitVec 8) → List (BitVec 8) → List (BitVec 8) → Bool
opaque sha512 : List (BitVec 8) → List (BitVec 8)

/-- A firmware image's header: IMGVER, the lowest and highest state-table version it imports, and its length (spec/17 R438 gives no
offsets), and the state-table version that a running image exports. -/
opaque imgHeader : List (BitVec 8) → Nat × Nat × Nat × Nat
opaque stateVersion : List (BitVec 8) → Nat

/-- The Pralon root key in the boot ROM, and the boot ROM (spec/17 R436, R439). -/
opaque rootKey : List (BitVec 8)
opaque bootRom : List (BitVec 8)

/-- Whether the standby is failed after an update that was aborted once it had booted (spec/14 R387 does not say;
notes/assumptions/20.md). -/
opaque standbyLost : Nat → Bool

/-- Keystone's state with the contexts, and Xiost's state, as a checkpoint image holds them in their own formats (spec/15 R407,
R410; notes/assumptions/21.md); a version that is refused is none. -/
opaque packKs : Machine.Keystone → Machine.Tab Machine.Ctx → List (BitVec 8)
opaque unpackKs : List (BitVec 8) → Option (Machine.Keystone × Machine.Tab Machine.Ctx)
opaque packXi : Machine.Xiost → List (BitVec 8)
opaque unpackXi : List (BitVec 8) → Option Machine.Xiost

/-- An engine in two blocks of an image after word 0, and back; what the core's own encoding keeps of a core, back from its image in
the save-slot format. -/
opaque packEngine : Machine.Engine → List (BitVec 8)
opaque unpackEngine : List (BitVec 8) → Option Machine.Engine
opaque unpackOwn : List (BitVec 8) → Option Machine.Core

/-- The seed that the security engine gets from the response of its SRAM and the helper data, and the public key of a seed; the
signature of bytes under the secret of a public identity key, which never leaves the security engine (spec/17 R436, R437,
R439). -/
opaque seed : List (BitVec 8) → List (BitVec 8) → BitVec 256
opaque publicKey : BitVec 256 → BitVec 256
opaque sign : List (BitVec 8) → List (BitVec 8) → List (BitVec 8)

/-- The interleave generation of a power-up that finds no valid configuration record (spec/17 R435 gives none;
notes/assumptions/23.md). -/
opaque firstIgen : Nat

end Sys2Proof.Config
end

