-- ==== Sys2Proof/Machine/Formats.lean ====
section
/-! DEFINITION. Format tags (spec/01 R29), the element functions every family shares, and the CRC (spec/05 R149). -/

namespace Sys2Proof.Machine

/-- Width in bits of an element of format tag `t` (spec/01 R29, spec/02 R38 to R44). -/
def tagBits (t : Nat) : Nat :=
  match t with
  | 1 | 5 => 4
  | 2 | 6 | 7 | 12 | 13 => 8
  | 3 | 8 | 9 => 16
  | 4 | 10 => 32
  | 11 => 1
  | _ => 8

/-- INT4, INT8, INT16 or INT32. -/
def isIntTag (t : Nat) : Bool := 1 ≤ t && t ≤ 4

/-- BF16, FP16 or FP32. -/
def isWideTag (t : Nat) : Bool := t == 8 || t == 9 || t == 10

/-- FP4, E4M3 or E5M2. -/
def isNarrowTag (t : Nat) : Bool := t == 5 || t == 6 || t == 7

/-- The tags valid in v registers (spec/01 R29). -/
def vTag (t : Nat) : Bool := (1 ≤ t && t ≤ 10) || t == 12 || t == 13

/-- The tags valid in t registers. -/
def tTag (t : Nat) : Bool := 1 ≤ t && t ≤ 10

/-- The floating-point format of a tag; E5M2S is 13. -/
def tagFmt (t : Nat) : FFmt :=
  match t with
  | 5 => fmtFP4
  | 6 => fmtE4M3
  | 7 => fmtE5M2
  | 8 => fmtBF16
  | 9 => fmtFP16
  | 13 => fmtE5M2S
  | _ => fmtFP32

/-- The value of a code of tag `t` (spec/02 R38 to R44). -/
def tagVal (t code : Nat) : Val :=
  if isIntTag t then Val.ofInt (signed (tagBits t) code)
  else if t == 12 then decodeUE8M0 code
  else (tagFmt t).decode code

/-- Round into floating-point tag `t`, into UE8M0 or into an integer tag (spec/02 R48, R52 to R54). -/
def roundTag (t : Nat) (mode : RMode) (ftz : Bool) (x : Val) : Nat × Word :=
  if isIntTag t then x.toInt (tagBits t) mode
  else if t == 12 then x.toUE8M0
  else (tagFmt t).round mode ftz x

/-- Whether a conversion from tag `a` to tag `b` draws in mode 4: it rounds by the mode and is no bit copy
(spec/06 R175). -/
def cvtDraws (a b : Nat) : Bool := a != b && b != 12 && !(isIntTag a && isIntTag b)

/-- Conversion of a code from tag `a` to tag `b` (spec/06 R175; spec/02 R52 to R54).  A signalling NaN sets INV
(spec/02 R45). -/
def convert (a b : Nat) (mode : RMode) (ftz : Bool) (code : Nat) : Nat × Word :=
  if a == b then (code, 0)
  else if isIntTag a && isIntTag b then satInt (tagBits b) (signed (tagBits a) code)
  else
    let v := tagVal a code
    let (c, fl) := roundTag b mode ftz v
    (c, fl ||| fIf v.isSig fINV)

/-- Mode 0 to 3 of RMODE.CTL or of an encoding (spec/02 R49). -/
def fixedMode (n : Nat) : RMode :=
  match n with
  | 1 => .zero
  | 2 => .up
  | 3 => .down
  | _ => .nearest

/-- Bytes that `n` packed elements of tag `t` take (spec/02 R39). -/
def packedBytes (t n : Nat) : Nat := ceilDiv (n * tagBits t) 8

/-- Element `j` of tag `t` in a byte list (spec/02 R39). -/
def elemOf (t : Nat) (bs : List Byte) (j : Nat) : Nat :=
  if tagBits t == 4 then (bs.getD (j / 2) 0).toNat / 16 ^ (j % 2) % 16
  else ofBytes ((bs.drop (j * (tagBits t / 8))).take (tagBits t / 8))

/-- The bytes of a list of element codes of tag `t`, packed (spec/02 R39). -/
def packElems (t : Nat) (codes : List Nat) : List Byte :=
  if tagBits t == 4 then
    (chunks 2 codes.length codes).map fun p => BitVec.ofNat 8 (p.getD 0 0 % 16 + 16 * (p.getD 1 0 % 16))
  else codes.flatMap (bytesOf (tagBits t / 8))

/-- A near-memory add (spec/04 R113; spec/09 R271): type 0 i32, 1 i64, 2 f32, to nearest even, a NaN canonical. -/
def addWord (ty old v : Nat) : Nat :=
  if ty == 0 then (old + v) % 2 ^ 32
  else if ty == 1 then (old + v) % 2 ^ 64
  else (fmtFP32.round .nearest false ((fmtFP32.decode old).add false (fmtFP32.decode v)).1).1

/-- One bit of the CRC-64 division (spec/05 R149). -/
def crcBit (c : Word) : Word := if c.msb then (c <<< 1) ^^^ 0x42F0E1EBA9EA3693 else c <<< 1

/-- One byte, most significant bit first. -/
def crcByte (c : Word) (b : Byte) : Word :=
  let c := c ^^^ (BitVec.zeroExtend 64 b <<< 56)
  crcBit (crcBit (crcBit (crcBit (crcBit (crcBit (crcBit (crcBit c)))))))

/-- CRC-64/ECMA-182 of bytes in ascending order (spec/05 R149). -/
def crc64 (bs : List Byte) : Word := bs.foldl crcByte 0

end Sys2Proof.Machine
end

