-- ==== Sys2Proof/Machine/Basic.lean ====
section
/-! DEFINITION. Tables, vectors and the accessors of the state: one home for every register, all reads and writes
through here (spec/01 R19, R22). -/

namespace Sys2Proof.Machine

/-- The entry of key `k`, or the default `d`. -/
def Tab.get {α : Type} (t : Tab α) (k : Nat) (d : α) : α :=
  match t with
  | [] => d
  | (j, x) :: r => if j = k then x else Tab.get r k d

/-- Insert before the first larger key. -/
def Tab.insert {α : Type} (t : Tab α) (k : Nat) (x : α) : Tab α :=
  match t with
  | [] => [(k, x)]
  | (j, y) :: r => if k ≤ j then (k, x) :: (j, y) :: r else (j, y) :: Tab.insert r k x

/-- Drop the entry of key `k`. -/
def Tab.erase {α : Type} (t : Tab α) (k : Nat) : Tab α := t.filter fun p => p.1 != k

/-- Write the entry of key `k`. -/
def Tab.set {α : Type} (t : Tab α) (k : Nat) (x : α) : Tab α := Tab.insert (Tab.erase t k) k x

/-- Whether key `k` is listed. -/
def Tab.has {α : Type} (t : Tab α) (k : Nat) : Bool := t.any fun p => p.1 == k

/-- Entry `i` of a register file, or `d` beyond it. -/
def vget {α : Type} {n : Nat} (v : Vector α n) (i : Nat) (d : α) : α := (v[i]?).getD d

/-- Write entry `i`; beyond the file nothing changes. -/
def vset {α : Type} {n : Nat} (v : Vector α n) (i : Nat) (x : α) : Vector α n := v.setIfInBounds i x

/-- The index of a token FIFO from stream `i` to stream `j` in the order of spec/08 R226. -/
def fifo (i j : Strm) : Nat := i.idx * 3 + (if j.idx < i.idx then j.idx else j.idx - 1)

/-- A core of the machine; a core that is not listed is as after reset. -/
def State.core (s : State) (c : Nat) : Core := Tab.get s.cores c Core.init

/-- Write a core. -/
def State.setCore (s : State) (c : Nat) (x : Core) : State := { s with cores := Tab.set s.cores c x }

/-- The core that moves. -/
def State.me (s : State) : Core := s.core s.cur.core

/-- Change the core that moves. -/
def State.onMe (s : State) (f : Core → Core) : State := s.setCore s.cur.core (f s.me)

/-- Change core `c`. -/
def State.onCore (s : State) (c : Nat) (f : Core → Core) : State := s.setCore c (f (s.core c))

/-- An engine of the machine. -/
def State.engine (s : State) (n : Nat) : Engine := Tab.get s.engines n Engine.init

/-- Write an engine. -/
def State.setEngine (s : State) (n : Nat) (x : Engine) : State := { s with engines := Tab.set s.engines n x }

/-- Change engine `n`. -/
def State.onEngine (s : State) (n : Nat) (f : Engine → Engine) : State := s.setEngine n (f (s.engine n))

/-- A context; one that is not listed is CLOSED. -/
def State.ctx (s : State) (a : Nat) : Ctx := Tab.get s.ctxs a {}

/-- Write a context. -/
def State.setCtx (s : State) (a : Nat) (x : Ctx) : State := { s with ctxs := Tab.set s.ctxs a x }

/-- A stream of a core. -/
def Core.strm (c : Core) (k : Strm) : StreamSt :=
  match k with
  | .s => c.ss
  | .a => c.sa
  | .v => c.sv
  | .m => c.sm

/-- Write a stream of a core. -/
def Core.setStrm (c : Core) (k : Strm) (x : StreamSt) : Core :=
  match k with
  | .s => { c with ss := x }
  | .a => { c with sa := x }
  | .v => { c with sv := x }
  | .m => { c with sm := x }

/-- Change a stream of a core. -/
def Core.onStrm (c : Core) (k : Strm) (f : StreamSt → StreamSt) : Core := c.setStrm k (f (c.strm k))

/-- s0 reads as zero (spec/01 R22). -/
def Core.sreg (c : Core) (n : Nat) : Word := if n = 0 then 0 else vget c.regs.s n 0

/-- a0 reads as zero (spec/01 R22). -/
def Core.areg (c : Core) (n : Nat) : Word := if n = 0 then 0 else vget c.regs.a n 0

def Core.xreg (c : Core) (n : Nat) : Word := vget c.regs.x n 0
def Core.vreg (c : Core) (n : Nat) : VReg := vget c.regs.v n {}
def Core.mreg (c : Core) (n : Nat) : VReg := vget c.regs.m n {}
def Core.tile (c : Core) (n : Nat) : Tile := vget c.regs.t n {}
def Core.acc (c : Core) (n : Nat) : Acc := vget c.regs.c n {}
def Core.slot (c : Core) (n : Nat) : Option (BitVec 512) := vget c.regs.d n none
def Core.qreg (c : Core) (n : Nat) : QReg := vget c.regs.q n {}
def Core.chan (c : Core) (n : Nat) : Channel := vget c.copy.ch n {}

/-- A write to s0 is discarded (spec/01 R22). -/
def Core.setS (c : Core) (n : Nat) (v : Word) : Core :=
  if n = 0 then c else { c with regs := { c.regs with s := vset c.regs.s n v } }

/-- A write to a0 is discarded (spec/01 R22). -/
def Core.setA (c : Core) (n : Nat) (v : Word) : Core :=
  if n = 0 then c else { c with regs := { c.regs with a := vset c.regs.a n v } }

def Core.setX (c : Core) (n : Nat) (v : Word) : Core := { c with regs := { c.regs with x := vset c.regs.x n v } }
def Core.setV (c : Core) (n : Nat) (r : VReg) : Core := { c with regs := { c.regs with v := vset c.regs.v n r } }
def Core.setM (c : Core) (n : Nat) (r : VReg) : Core := { c with regs := { c.regs with m := vset c.regs.m n r } }
def Core.setT (c : Core) (n : Nat) (t : Tile) : Core := { c with regs := { c.regs with t := vset c.regs.t n t } }
def Core.setC (c : Core) (n : Nat) (x : Acc) : Core := { c with regs := { c.regs with c := vset c.regs.c n x } }
def Core.setD (c : Core) (n : Nat) (x : Option (BitVec 512)) : Core := { c with regs := { c.regs with d := vset c.regs.d n x } }
def Core.setQ (c : Core) (n : Nat) (x : QReg) : Core := { c with regs := { c.regs with q := vset c.regs.q n x } }
def Core.setChan (c : Core) (n : Nat) (x : Channel) : Core := { c with copy := { c.copy with ch := vset c.copy.ch n x } }

/-- The partition word's fields (spec/01 R33): run pool entries, accumulator bytes and scratch bytes. -/
def Core.poolRuns (c : Core) : Nat := (field c.part 6 0 - 16) * 8192
def Core.accBytes (c : Core) : Nat := field c.part 14 8 * 65536
def Core.scrBytes (c : Core) : Nat := field c.part 22 16 * 65536

/-- Number of runs, and logical length, of a v or m register (spec/01 R24). -/
def VReg.n (r : VReg) : Nat := r.runs.length
def VReg.len (r : VReg) : Nat := r.runs.foldl (fun a x => a + x.cnt) 0

/-! ### Tile shapes (spec/07 R195, R196) -/

def tRows (w : Word) : Nat := field w 8 0
def tRowb (w : Word) : Nat := field w 17 9
def tFmt (w : Word) : Nat := field w 22 18
def tSfmt (w : Word) : Nat := field w 27 23
def tBlk (w : Word) : Nat := field w 29 28

/-- Block size in elements, 0 for none. -/
def blkSize (b : Nat) : Nat := if b == 0 then 0 else 2 ^ (b + 2)

/-- Elements in a tile row, and scales in a row. -/
def tElems (w : Word) : Nat := tRowb w * 8 / tagBits (tFmt w)
def tScales (w : Word) : Nat := if tBlk w == 0 then 0 else ceilDiv (tElems w) (blkSize (tBlk w))

/-- Bytes of the rows and their scales. -/
def tBytes (w : Word) : Nat := tRows w * tRowb w + tRows w * tScales w

/-- Run pool entries in use (spec/06 R156). -/
def Core.usedRuns (c : Core) : Nat :=
  c.regs.v.toList.foldl (fun a r => a + r.n) 0 + c.regs.m.toList.foldl (fun a r => a + r.n) 0

/-- Accumulator bytes in use (spec/01 R26). -/
def Core.usedAcc (c : Core) : Nat := c.regs.c.toList.foldl (fun a x => a + x.rows * x.cols * 4) 0

end Sys2Proof.Machine
end

