-- ==== Sys2Proof/Machine/Memory.lean ====
section
/-! DEFINITION. Memory as canonical lists of bytes, the DRAM maps, and where the kinds of memory lie in it
(spec/10 R284 to R287; spec/12 R316 to R318). -/

namespace Sys2Proof.Machine

/-- The byte at key `k`; an unlisted byte reads 0. -/
def Mem.read : Mem → Nat → Byte
  | [], _ => 0
  | (j, b) :: r, k => if j = k then b else if k < j then 0 else Mem.read r k

/-- Write one byte, keeping the keys rising and no byte zero. -/
def Mem.write : Mem → Nat → Byte → Mem
  | [], k, b => if b = 0 then [] else [(k, b)]
  | (j, c) :: r, k, b =>
    if k < j then (if b = 0 then (j, c) :: r else (k, b) :: (j, c) :: r)
    else if k = j then (if b = 0 then r else (k, b) :: r)
    else (j, c) :: Mem.write r k b

/-- The canonical form: keys strictly above `lo` and rising, no byte zero. -/
def Mem.wfFrom : Nat → Mem → Bool
  | _, [] => true
  | lo, (k, b) :: r => lo ≤ k && b != 0 && Mem.wfFrom (k + 1) r

/-- The canonical form of a memory. -/
def Mem.wf (m : Mem) : Bool := Mem.wfFrom 0 m

/-- `n` bytes from key `k` up. -/
def Mem.bytes (m : Mem) (k n : Nat) : List Byte := (upTo n).map fun i => Mem.read m (k + i)

/-- Write listed bytes in order; a later byte of the same key remains. -/
def Mem.writeCells (m : Mem) (cells : List Host.Cell) : Mem := cells.foldl (fun a c => Mem.write a c.1 c.2) m

/-- Consecutive cells from key `k` up. -/
def cellsAt (k : Nat) (bs : List Byte) : List Host.Cell := (upTo bs.length).zipWith (fun i b => (k + i, b)) bs

/-- Drop the cells of keys in [lo, hi). -/
def Mem.clear (m : Mem) (lo hi : Nat) : Mem := m.filter fun c => c.1 < lo || hi ≤ c.1

/-- Index of a DRAM location: its bank-local physical address (spec/12 R317). -/
def dramIndex (stack channel pc bgroup bank row column : Nat) : Nat :=
  row * 2 ^ 23 + stack * 2 ^ 20 + channel * 2 ^ 15 + pc * 2 ^ 14 + bgroup * 2 ^ 12 + bank * 2 ^ 10 + column

/-- The striped map (spec/12 R318): the DRAM location of `pa`. -/
def striped (pa : Nat) : Nat :=
  dramIndex (bits pa 10 8 ^^^ bits pa 25 23) (bits pa 15 11 ^^^ bits pa 30 26) (bits pa 16 16 ^^^ bits pa 31 31)
    (bits pa 18 17 ^^^ bits pa 33 32) (bits pa 20 19 ^^^ bits pa 35 34) (bits pa 38 23) (bits pa 22 21 * 256 + bits pa 7 0)

/-- The DRAM location of `pa` under an interleave mode: 1 bank-local, 0 striped (spec/10 R291). -/
def dramOf (bankLocal : Bool) (pa : Nat) : Nat := if bankLocal then pa % 2 ^ 39 else striped pa

/-- The engine that owns a DRAM location (spec/12 R317). -/
def engineOf (loc : Nat) : Nat := bits loc 22 12

/-- Bank and row of a DRAM location. -/
def bankOf (loc : Nat) : Nat := bits loc 11 10
def rowOf (loc : Nat) : Nat := bits loc 38 23

/-- The DRAM location of a row of an engine's bank (spec/09 R244). -/
def rowLoc (eng bank row : Nat) : Nat := row * 2 ^ 23 + eng * 2 ^ 12 + bank * 2 ^ 10

/-- A key that names no memory. -/
def noKey : Nat := 2 ^ 39

/-- Scratch offset `o` of core `c` (spec/10 R285). -/
def scratchKey (c o : Nat) : Nat := 2 ^ 40 + c * 2 ^ 23 + o

/-- Address `a` of the host on port `p` (spec/10 R284). -/
def hostKey (p a : Nat) : Nat := 2 ^ 64 * (p + 1) + a

/-- DRAM location `l` of peer package `p`. -/
def peerKey (p l : Nat) : Nat := 2 ^ 80 + p * 2 ^ 40 + l

/-- The link that reaches a key, if one does: host ports 0 and 1, and 16 + package. -/
def linkOfKey (k : Nat) : Option Nat :=
  if k < 2 ^ 64 then none else if k < 2 ^ 80 then some (k / 2 ^ 64 - 1) else some (16 + (k - 2 ^ 80) / 2 ^ 40)

/-- Whether a key is device HBM. -/
def isHbm (k : Nat) : Bool := k < 2 ^ 39

/-- Grid row and column of a core, 12 × 12 (spec/00, spec/16 R413). -/
def gridRow (c : Nat) : Nat := c / 12
def gridCol (c : Nat) : Nat := c % 12

/-- Quad and sector numbers, and the positions in them (spec/10 R286). -/
def quadOf (c : Nat) : Nat := gridRow c / 2 * 6 + gridCol c / 2
def sectorOf (c : Nat) : Nat := gridRow c / 4 * 3 + gridCol c / 4
def quadPos (c : Nat) : Nat := 2 * (gridRow c % 2) + gridCol c % 2
def sectorPos (c : Nat) : Nat := 4 * (2 * (gridRow c / 2 % 2) + gridCol c / 2 % 2) + quadPos c

/-- The core at a position of a quad or of a sector. -/
def coreInQuad (c pos : Nat) : Nat :=
  (gridRow c / 2 * 2 + pos / 2 % 2) * 12 + gridCol c / 2 * 2 + pos % 2
def coreInSector (c pos : Nat) : Nat :=
  (gridRow c / 4 * 4 + pos / 8 % 2 * 2 + pos / 2 % 2) * 12 + gridCol c / 4 * 4 + pos / 4 % 2 * 2 + pos % 2

/-- Whether a DRAM location is unbacked: its pseudo-channel is lost (spec/12 R334). -/
def State.unbacked (s : State) (loc : Nat) : Bool := wbit (vget s.lost (bits loc 22 20) 0) (bits loc 19 14)

/-! ### The far side of a link (spec/10 R298; spec/16 R420, R421, R425) -/

/-- ASIDFN of a port. -/
def State.asidFn (s : State) (port asid : Nat) : Nat := Tab.get s.dev.asidfn (port * 1024 + asid) 0xFF

/-- The function whose requester ID an access of a context to host memory carries: the one ASIDFN names, else the physical
function (spec/16 R420). -/
def State.requester (s : State) (port asid : Nat) : Nat := if s.asidFn port asid == 0xFF then 0 else s.asidFn port asid

/-- The unit in which a far side refuses: a page of a host, a block of a peer. -/
def farUnit (k : Nat) : Nat := if k < 2 ^ 80 then k / 4096 else k / 256

/-- Whether an access of function `fn` of a link to a key is not carried: its link is down, or the far side refuses it, unless the port
still uses a translation it has cached. -/
def State.refusesFn (s : State) (fn k : Nat) : Bool :=
  match linkOfKey k with
  | none => false
  | some l =>
    let x := (l * 64 + (if l < 2 then fn else 0), farUnit k)
    s.down.contains l || (s.dev.refused.contains x && !s.dev.atc.contains x)

/-- Whether an access of a context to a key is not carried. -/
def State.refuses (s : State) (asid k : Nat) : Bool :=
  match linkOfKey k with
  | none => false
  | some l => s.refusesFn (s.requester l asid) k

/-- Vomel ports that are up. -/
def State.livePorts (s : State) : List Nat := (upTo 18).filter fun k => (Tab.get s.dev.links (k + 2) {}).state == 2

/-- The port of an access to address `pa` of peer `p` (spec/16 R425). -/
def State.peerPort (s : State) (p pa : Nat) : Option Nat :=
  let h := (p + bits pa 38 8) % 18
  ((upTo 18).map fun i => (h + i) % 18).find? s.livePorts.contains

/-- Whether an access of this step to address `pa` of peer `p` was in flight on a port that went down in the step before. -/
def State.cutOff (s : State) (p pa : Nat) : Bool :=
  s.free ≤ s.dev.farCut.2 + 1 && s.dev.farCut.1 < 18
    && ((upTo 18).map fun i => (p + bits pa 38 8 + i) % 18).find? (fun k => k == s.dev.farCut.1 || s.livePorts.contains k) == some s.dev.farCut.1

/-- Whether a write of an agent of a core awaits its acknowledgement. -/
def State.farBusy (s : State) (agent : Nat) : Bool := s.dev.farWrites.any (·.agent == agent)

/-- Whether a write to the block of key `k` awaits its acknowledgement. -/
def State.farPending (s : State) (k : Nat) : Bool :=
  s.dev.farWrites.any fun w => w.cells.any fun c => c.1 / 256 == k / 256

/-- Whether any of `n` bytes at key `k` lies in an uncorrectable HBM sector (spec/12 R331). -/
def State.ueAt (s : State) (k n : Nat) : Bool := s.ue.any fun u => k < 32 * u + 32 && 32 * u < k + n

/-! ### What waits at a bank group (spec/09 R271; spec/12 R319, R320) -/

/-- Bytes a near-memory add reads and writes. -/
def Add.size (a : Add) : Nat := if a.ty == 1 then 8 else 4

/-- Whether an accepted add to some of `n` bytes is still queued: it is applied before any later access to them
(spec/11 R313; spec/12 R323). -/
def State.addsTouch (s : State) (key n : Nat) : Bool :=
  isHbm key && (s.engine (engineOf key)).adds.any fun a => a.key < key + n && key < a.key + a.size

/-- Consecutive cells of one block of `n` bytes. -/
def cellBlocks (n : Nat) : List Host.Cell → List (List Host.Cell)
  | [] => []
  | c :: r => match cellBlocks n r with
    | (d :: ds) :: bs => if c.1 / n == d.1 / n then (c :: d :: ds) :: bs else [c] :: (d :: ds) :: bs
    | bs => [c] :: bs

/-- The cells of a near-memory add performed at its home on memory `m`. -/
def addCells (m : Mem) (key ty v : Nat) : List Host.Cell :=
  let n := if ty == 1 then 8 else 4
  cellsAt key (bytesOf n (addWord ty (ofBytes (Mem.bytes m key n)) v))

/-- Memory as Keystone and Xiost find it at some keys: with the adds accepted there, and with what they have written themselves, of
what waits at the bank groups (spec/11 R313). -/
def State.sysMem (s : State) (ks : List Nat) : Mem :=
  if s.engines.isEmpty then s.mem
  else ((ks.filter isHbm).map engineOf).eraseDups.foldl (fun m n =>
    let e := s.engine n
    ((e.reqs ++ (s.engine (n / 8 * 8)).port.filter (·.toGroup == n)).filter (·.sys)).foldl (fun m r => Mem.writeCells m r.cells)
      (e.adds.foldl (fun m a => Mem.writeCells m (addCells m a.key a.ty a.value)) m)) s.mem

/-- A device word of `n` bytes at a striped physical address (spec/12 R316), read at its home. -/
def phys (m : Mem) (pa n : Nat) : Nat := ofBytes ((upTo n).map fun i => Mem.read m (striped (pa + i)))

/-- A device word at a striped physical address as it stands, with the adds accepted there (spec/11 R313). -/
def State.physNow (s : State) (pa n : Nat) : Nat :=
  let keys := (upTo n).map fun i => striped (pa + i)
  ofBytes (keys.map (Mem.read (s.sysMem keys)))

/-- Bytes at a striped physical address, as cells. -/
def physCells (pa : Nat) (bs : List Byte) : List Host.Cell := (upTo bs.length).zipWith (fun i b => (striped (pa + i), b)) bs

/-- Bytes placed at a striped physical address. -/
def State.poke (s : State) (pa : Nat) (bs : List Byte) : State := { s with mem := Mem.writeCells s.mem (physCells pa bs) }

end Sys2Proof.Machine
end

