-- ==== Sys2Proof/Machine/Banks.lean ====
section
/-! DEFINITION. The banks of a bank group: their commands and timing, and the channel controller's arbitration windows (spec/09
R253 to R255; spec/12 R320 to R324). -/

namespace Sys2Proof.Machine

/-- A bank of the group. -/
def Engine.bank (e : Engine) (k : Nat) : Bank := vget e.banks k {}
def Engine.setBank (e : Engine) (k : Nat) (b : Bank) : Engine := { e with banks := vset e.banks k b }

/-! ### Commands (spec/09 R253) -/

/-- ACT of row `r`, PRE and REF at cycle `t`. -/
def Bank.act (b : Bank) (t r : Nat) : Bank := { b with row := some r, nextCol := t + 17, nextPre := t + 40, nextAct := t + 57 }
def Bank.pre (b : Bank) (t : Nat) : Bank := { b with row := none, nextAct := max b.nextAct (t + 17), nextRef := t + 17 }
def Bank.ref (b : Bank) (t : Nat) : Bank := { b with lastRef := t, nextAct := t + 180, nextRef := t + 180 }

/-- RD or WR at cycle `t`, and the bus it holds. -/
def Bank.col (b : Bank) (t : Nat) (w : Bool) : Bank := { b with nextPre := max b.nextPre (t + if w then 28 else 16) }

/-- Whether a bank's refresh deadline has passed at cycle `t`: at that time, or when it was last refreshed (spec/09 R254). -/
def Bank.late (b : Bank) (t : Nat) : Bool := b.missed || b.lastRef + 4680 < t

/-- The cycle at which every RD in flight has landed and every WR is written (spec/09 R255). -/
def Engine.quiet (e : Engine) : Nat := e.lands.foldl (fun a l => max a l.at_) e.busFree

/-! ### What waits (spec/09 R255; spec/12 R322) -/

/-- Whether something that opens a window waits at cycle `t`. -/
def Engine.waits (e : Engine) (t : Nat) : Bool := !e.reqs.isEmpty || !e.adds.isEmpty || e.banks.toList.any fun b => b.late t

/-- Whether the row interval has passed by cycle `t`, at which the engine would issue, while something waits. -/
def Engine.overdue (e : Engine) (t : Nat) : Bool := e.running && !e.stalled && e.lastBound + e.interval ≤ t && e.waits t

/-! ### Windows (spec/12 R323, R324) -/

/-- Open a window at cycle `t`, unless one is open. -/
def Engine.openWin (e : Engine) (t : Nat) : Engine :=
  match e.win with
  | some _ => e
  | none => { e with win := some { opened := t, cursor := t, rows := e.banks.toList.map (·.row) } }

/-- The controller opens row `r` of bank `k` from cycle `c` on, closing another row first, and issues one column command; with
that command's cycle. -/
def Engine.reach (e : Engine) (k r c : Nat) (w : Bool) : Engine × Nat :=
  let b := e.bank k
  let bc := match b.row with
    | none => (b, c)
    | some x => if x == r then (b, c) else (b.pre (max c b.nextPre), max c b.nextPre)
  let bc := if bc.1.row.isSome then bc else (bc.1.act (max bc.2 bc.1.nextAct) r, max bc.2 bc.1.nextAct)
  let x := max bc.2 (max bc.1.nextCol e.busFree)
  ({ (e.setBank k (bc.1.col x w)) with busFree := x + 16 }, x)

/-- In an open window the controller reads or writes at a location. -/
def Engine.winTouch (e : Engine) (key : Nat) (w : Bool) : Engine :=
  match e.win with
  | none => e
  | some x =>
    let q := e.reach (bankOf key) (rowOf key) x.cursor w
    { q.1 with win := some { x with cursor := q.2 } }

/-- Whether the window may start another request. -/
def Win.mayServe (x : Win) : Bool := !x.stopped && x.served < 16 && x.cursor < x.opened + 240

/-- Whether the window may start another add. -/
def Win.mayApply (x : Win) : Bool := !x.stopped && x.applied < 16 && (x.cursor < x.opened + 240 || x.applied == 0)

/-- Count a request, or an add, of the open window. -/
def Engine.winServed (e : Engine) : Engine := { e with win := e.win.map fun x => { x with served := x.served + 1 } }
def Engine.winApplied (e : Engine) : Engine := { e with win := e.win.map fun x => { x with applied := x.applied + 1 } }

/-- The refreshes that are forced in an open window: each late bank is closed and refreshed (spec/09 R254). -/
def Engine.refreshLate (e : Engine) : Engine :=
  match e.win with
  | none => e
  | some x =>
    (upTo 4).foldl (fun e k =>
      let b := e.bank k
      if !b.late x.cursor then e
      else
        let b := if b.row.isSome then b.pre (max x.cursor b.nextPre) else b
        let t := max x.cursor (max b.nextRef b.nextAct)
        { (e.setBank k { b.ref t with missed := false }) with
          refMiss := true, win := e.win.map fun y => { y with cursor := max y.cursor t } }) e

/-- One bank restored to the row it had open, from cycle `c` on; with the cycle of the last command. -/
def Bank.restore (b : Bank) (c : Nat) (row : Option Nat) : Bank × Nat :=
  if b.row == row then (b, c)
  else
    let bc := if b.row.isSome then (b.pre (max c b.nextPre), max c b.nextPre) else (b, c)
    match row with
    | none => bc
    | some r => (bc.1.act (max bc.2 bc.1.nextAct) r, max bc.2 bc.1.nextAct)

/-- The window stops, the banks are restored, and the engine may issue when the last restoring command has (spec/12 R324); that is
a boundary (R322). -/
def Engine.resume (e : Engine) : Engine :=
  match e.win with
  | none => e
  | some x =>
    let e := (upTo 4).foldl (fun e k =>
      let q := (e.bank k).restore x.cursor (x.rows.getD k none)
      { (e.setBank k q.1) with now := max e.now q.2 }) { e with win := none, now := max e.now x.cursor }
    { e with lastBound := e.now }

/-- The window has done its last request, add and refresh (spec/12 R323). -/
def Engine.stopWin (e : Engine) : Engine := { e with win := e.win.map fun x => { x with stopped := true } }

/-- At a boundary the first access that waits opens a window; what follows one waits for the engine's next look (spec/12 R322). -/
def Engine.begin (e : Engine) : Engine := if e.running && e.atBound then e.openWin e.boundAt else e

/-- A window for what waits at a boundary: the one that is open, a new one where none has been, and while the engine stalls a new one
after each that has stopped (spec/12 R319, R322). -/
def Engine.reopen (e : Engine) : Engine :=
  if !e.running || !e.atBound then e
  else match e.win with
    | none => e.openWin e.boundAt
    | some x => if x.stopped && e.stalled then e.resume.openWin e.resume.now else e

/-- Refresh each bank whose deadline is less than 2,340 cycles ahead, until none is (spec/12 R321): at most `fuel` times. -/
def Engine.margin (e : Engine) : Nat → Engine
  | 0 => e
  | fuel + 1 =>
    let short := fun (b : Bank) => b.lastRef + 4680 < e.now + 2340
    if e.banks.toList.any short then
      let at_ := fun (b : Bank) => max e.now (max b.nextRef b.nextAct)
      let t := e.banks.toList.foldl (fun a b => if short b then max a (at_ b + 180) else a) e.now
      Engine.margin { e with
        banks := e.banks.map fun b => if short b then { b.ref (at_ b) with missed := false } else b
        now := t, lastBound := t } fuel
    else e

end Sys2Proof.Machine
end

