-- ==== Sys2Proof/Machine/Requests.lean ====
section
/-! DEFINITION. Main-die requests: their order at a bank group and in the stack port, the places that accesses take there, and when an
access goes through (spec/12 R319 to R327, R333; spec/16 R416; notes/assumptions/43.md). -/

namespace Sys2Proof.Machine

/-! ### The queue and the stack port -/

/-- Whether a request writes a part of an MCAST row. -/
def Req.isRow (r : Req) : Bool := !r.isAdd && !r.sys && !r.moves && r.asker.isNone

/-- Requests leave the stack port of the channel whose first bank group is `c` in the order in which they entered it (spec/16 R416), as
long as the next finds room in the queue of its bank group: at most `fuel` of them. -/
def State.drainPort (s : State) (c : Nat) : Nat → State
  | 0 => s
  | fuel + 1 =>
    match (s.engine c).port with
    | [] => s
    | r :: p =>
      if (s.engine r.toGroup).reqs.length < 16 then
        State.drainPort ((s.onEngine c fun e => { e with port := p }).onEngine r.toGroup fun e =>
          { e with reqs := e.reqs ++ [{ r with arrived := e.accepted }], accepted := e.accepted + 1 }) c fuel
      else s

/-- A request for bank group `n` enters the stack port (spec/12 R320). -/
def State.arrive (s : State) (n : Nat) (r : Req) : State :=
  let c := n / 8 * 8
  (s.onEngine c fun e => { e with port := e.port ++ [{ r with toGroup := n }] }).drainPort c ((s.engine c).port.length + 1)

/-- A request leaves the queue of bank group `n`. -/
def State.leave (s : State) (n : Nat) (r : Req) : State :=
  let c := n / 8 * 8
  (s.onEngine n fun e => { e with reqs := e.reqs.erase r }).drainPort c (s.engine c).port.length

/-! ### Places of accesses -/

/-- Whether an asker can still make the access it has taken a place for.  Of a party outside nothing tells. -/
def State.comes (s : State) : Asker → Bool
  | .stream c k => (s.core c).running && !(s.core c).inReset && !((s.core c).strm k).stopped
  | .fetch c q => (s.core c).running && ((s.core c).qreg q).bound
  | .copy c ch => (s.core c).running && ((s.core c).chan ch).susp.isNone && !((s.core c).chan ch).queue.isEmpty
  | .engine n => (s.engine n).running && (s.engine n).stalled
  | .outside _ => false

/-- The place of an asker in the queue. -/
def Engine.place (e : Engine) (a : Asker) : Option Req := e.reqs.find? fun r => r.asker == some a

/-- Whether a request at bank group `n` lets later ones go first: the place of an access that is not sure to come, or that waits for
another bank group too. -/
def State.yields (s : State) (n : Nat) (r : Req) : Bool :=
  r.asker.any fun a => !s.comes a || s.engines.any fun e => e.1 != n && (e.2.place a).isSome

/-- Whether the mover's accesses reach bank group `n` now: no instance runs there, or in the open window its request is the next. -/
def State.mayAccess (s : State) (n : Nat) : Bool :=
  let e := s.engine n
  !e.running || (e.atBound && e.win.any Win.mayServe && (e.place s.cur.asker).isSome
    && (e.reqs.takeWhile fun r => r.asker != some s.cur.asker).all (s.yields n))

/-- Whether an add to some of `n` bytes at `k` comes before the mover's access: one accepted before its request arrived (spec/11 R313;
spec/12 R323). -/
def State.addBefore (s : State) (k n : Nat) : Bool :=
  let e := s.engine (engineOf k)
  isHbm k && e.adds.any fun a => a.key < k + n && k < a.key + a.size && (e.place s.cur.asker).all fun r => a.arrived < r.arrived

/-- The row of a location within its pseudo-channel. -/
def pcRow (k : Nat) : Nat := (engineOf k % 4 * 4 + bankOf k) * 65536 + rowOf k

/-- Whether a location lies in a row that is being copied (spec/12 R333). -/
def State.rowMoves (s : State) (k : Nat) : Bool :=
  s.dev.copying.any fun x => engineOf k / 4 == x.1 && x.2.1 ≤ pcRow k && pcRow k < x.2.1 + x.2.2

/-- Whether the byte at `k` cannot be reached now: its bank group is the engine's or older requests wait there (spec/12 R319, R320),
an add to it comes first, its row is being copied, or a write to its block of a peer is not acknowledged (spec/16 R425). -/
def State.owned (s : State) (k : Nat) : Bool :=
  s.farPending k || isHbm k && (!s.mayAccess (engineOf k) || s.addBefore k 1 || s.rowMoves k)

/-- The mover's access to the byte at `k` waits at the bank group: it takes its place there, one for all that it accesses in that
group, unless an add of its own core has yet to get there (spec/11 R304; spec/12 R320, R322). -/
def State.want (s : State) (k : Nat) (w : Bool := false) : State :=
  let n := engineOf k
  let e := s.engine n
  let a := s.cur.asker
  if !isHbm k || !e.running || e.inbound.any (fun x => x.source == s.cur.core && !x.det && x.key < k + 8 && k < x.key + x.size) then s
  else
    let s := match e.place a with
      | some _ => s.onEngine n fun e => { e with reqs := e.reqs.map fun (r : Req) => if r.asker == some a then { r with key := k } else r }
      | none =>
        if (s.engine (n / 8 * 8)).port.any fun r => r.toGroup == n && r.asker == some a then s
        else s.arrive n { asker := some a, key := k, wr := w }
    { (s.onEngine n Engine.begin) with cur := { s.cur with wants := true } }

/-- An access to some keys waits at the first that cannot be reached now. -/
def State.wantAny (s : State) (ks : List Nat) : State :=
  match ks.find? s.owned with
  | some k => s.want k
  | none => s

/-- The places of an asker are given up: an access that was served in the open window has taken its time. -/
def State.leaveAll (s : State) (a : Asker) : State :=
  s.engines.foldl (fun s e =>
    let s := s.onEngine e.1 fun e => { e with port := e.port.filter fun r => r.asker != some a }
    match (s.engine e.1).place a with
    | none => s
    | some r => (s.onEngine e.1 fun e => if e.running && e.atBound then (e.winTouch r.key r.wr).winServed else e).leave e.1 r) s

/-- Whether the window of bank group `n` goes on for an access that has its place. -/
def State.winHeld (s : State) (n : Nat) : Bool :=
  (s.engine n).win.any Win.mayServe && (s.engine n).reqs.any fun r => r.asker.any fun a => s.comes a && a != .engine n

/-- The places of askers that will not come are given up. -/
def State.dropGone (s : State) (n : Nat) : State :=
  ((s.engine n).reqs.filter fun r => match r.asker with
    | none => false
    | some (.outside _) => false
    | some a => !s.comes a).foldl (fun s r => s.leave n r) s

end Sys2Proof.Machine
end

