-- ==== Sys2Proof/Machine/Views.lean ====
section
/-! DEFINITION. What agents see of memory (spec/11 R299 to R309): scopes, the writes that come before an access, and the byte that
an agent reads.  A write takes its place in coherence order when it is performed; an agent that nothing makes see it goes on
reading what was there before, until it becomes visible (notes/assumptions/3.md). -/

namespace Sys2Proof.Machine

/-! ### Agents (spec/11 R299) -/

/-- Numbers of agents: 0 reads every write; then the streams, the engines, the stream-register fetches, the queue pairs of the Ethernet
ports, the copies. -/
def streamAgent (c : Nat) (k : Strm) : Nat := 1 + 4 * c + k.idx
def engineAgent (n : Nat) : Nat := 1024 + n
def fetchAgent (c q : Nat) : Nat := 3072 + 16 * c + q
def ethAgent (k n : Nat) : Nat := 8192 + 1024 * k + n
def copyAgent (c ch ident : Nat) : Nat := 16384 + ((ident * 144 + c) * 8 + ch)

/-- The core an agent belongs to, and the stream that issues for it. -/
def agentCore (a : Nat) : Option Nat :=
  if a == 0 || (1024 ≤ a && a < 3072) || (8192 ≤ a && a < 16384) then none
  else if a < 1024 then some ((a - 1) / 4)
  else if a < 16384 then some ((a - 3072) / 16)
  else some ((a - 16384) / 8 % 144)
def agentStrm (a : Nat) : Nat :=
  if a < 1024 then a else match agentCore a with
    | some c => streamAgent c .a
    | none => 0

/-- Whether an agent is a stream, whose accesses of up to 8 bytes are single-copy atomic (spec/11 R302): the S stream. -/
def agentIsS (a : Nat) : Bool := 0 < a && a < 1024 && a % 4 == 1

/-! ### Scopes (spec/11 R300, R301) -/

/-- Whether a scope taken relative to `by_` contains agent `q`. -/
def scopeHas (scope by_ q : Nat) : Bool :=
  match agentCore by_ with
  | some c =>
    let same := fun (f : Nat → Bool) => (agentCore q).any f
    match scope with
    | 0 => agentStrm by_ == agentStrm q
    | 1 => same (· == c)
    | 2 => same fun d => quadOf d == quadOf c
    | 3 => same fun d => sectorOf d == sectorOf c
    | 4 => (agentCore q).isSome
    | _ => true
  | none =>
    let e := by_ - 1024
    let eng := 1024 ≤ q && q < 3072
    if scope == 5 then eng && (q - 1024) / 8 == e / 8 else if scope == 6 then eng && (q - 1024) / 256 == e / 256 else true

/-- Whether two scopes each contain the other's agent (spec/11 R305). -/
def scopesMeet (s1 a1 s2 a2 : Nat) : Bool := scopeHas s1 a1 a2 && scopeHas s2 a2 a1

/-- The scope that an atomic's code names (spec/04 R109; spec/11 R300). -/
def atomScope (code : Nat) : Nat := [1, 2, 3, 4, 7, 8, 9, 10].getD code 10

/-- Whether a release at a scope is performed for every agent of the package (spec/11 R301). -/
def Rel.deviceWide (r : Rel) : Bool := if (agentCore r.by_).isSome then 5 ≤ r.scope else 7 ≤ r.scope

/-- The smallest scope that contains two scopes named by a core. -/
def scopeLub (a b : Nat) : Nat :=
  let n := fun (x : Nat) => if x == 5 || x == 6 then 7 else x
  if n a + n b == 17 && n a != 7 && n b != 7 then 10 else max (n a) (n b)

/-! ### Writes that come before (spec/11 R308) -/

/-- Whether write `id` comes before, for the byte at `k`. -/
def View.has (v : View) (id k : Nat) : Bool :=
  id < v.base || v.ids.any (fun r => r.1 ≤ id && id < r.2) || id < Tab.get v.part k 0

/-- Whether it does for every byte. -/
def View.hasAll (v : View) (id : Nat) : Bool := id < v.base || v.ids.any fun r => r.1 ≤ id && id < r.2

/-- One more number. -/
def addId (n : Nat) : List (Nat × Nat) → List (Nat × Nat)
  | [] => [(n, n + 1)]
  | (lo, hi) :: r => if hi == n then (lo, n + 1) :: r else (n, n + 1) :: (lo, hi) :: r

def View.learn (v : View) (id : Nat) : View := if v.hasAll id then v else { v with ids := addId id v.ids }

/-- Byte by byte, the later of two. -/
def laterTab (a b : Tab Nat) : Tab Nat := b.foldl (fun t p => if Tab.get t p.1 0 < p.2 then Tab.set t p.1 p.2 else t) a

def View.join (a b : View) : View :=
  { base := max a.base b.base
    ids := b.ids.foldl (fun l r => if l.any fun x => x.1 ≤ r.1 && r.2 ≤ x.2 then l else r :: l) a.ids
    part := laterTab a.part b.part }

/-- What a view holds of the bytes that `p` selects. -/
def View.only (v : View) (hist : List Wr) (p : Nat → Bool) : View :=
  { part := hist.foldl (fun t r => r.old.foldl (fun t c => if v.has r.id c.1 && p c.1 then laterTab t [(c.1, r.id + 1)] else t) t) [] }

/-- One more look of an agent. -/
def addEye (e : Nat × Nat × Nat) (l : List (Nat × Nat × Nat)) : List (Nat × Nat × Nat) :=
  if l.any fun x => x.1 == e.1 && e.2.1 ≤ x.2.1 then l else e :: l.filter (·.1 != e.1)

/-- What comes before, joined at a token (spec/04 R108). -/
def Sight.join (a b : Sight) : Sight :=
  { view := a.view.join b.view, seen := laterTab a.seen b.seen
    marks := a.marks ++ b.marks.filter fun m => !a.marks.contains m
    eyes := b.eyes.foldl (fun l e => addEye e l) a.eyes
    since := max a.since b.since
    read := b.read.foldl (fun t p => Tab.set t p.1 (p.2 ++ Tab.get t p.1 [])) a.read }

/-- The writes that a release has had performed for every agent of the package (spec/11 R302, R305). -/
def State.floor (s : State) : View := ((s.fences.filter (·.by_ == 0)).map (·.view)).foldl View.join {}

/-- An agent that begins after some writes. -/
def Sight.after (s : State) (v : View) : Sight := { view := v, since := s.nextWr }

/-- A release joins those that later writes carry; a FENCE stands for the earlier ones of its scope and agent. -/
def Sight.mark (g : Sight) (m : Mark) : Sight :=
  { g with marks := m :: g.marks.filter fun x => !(m.key.isNone && x.key.isNone && x.rel.by_ == m.rel.by_ && x.rel.scope == m.rel.scope) }

/-- The sight that stream `k` of core `c` hands on with a token, or to a transfer or a fetch that it issues. -/
def State.handed (s : State) (c : Nat) (k : Strm) : Sight :=
  if s.hist.isEmpty then { view := { base := s.nextWr }, marks := ((s.core c).strm k).sight.marks, since := s.nextWr }
  else
    let g := ((s.core c).strm k).sight
    { g with eyes := addEye (streamAgent c k, s.free, s.nextWr) g.eyes, since := s.nextWr }

/-! ### What an agent reads -/

/-- The piece of a write in which byte `k` becomes visible. -/
def Wr.piece (r : Wr) (k : Nat) : Nat := if r.grain == 0 then 0 else 1 + k / r.grain

/-- Whether byte `k` of a write had become visible to agent `a` at count `t`.  An access of single bytes may find a part of what is
written at once (spec/11 R310). -/
def Wr.arrived (r : Wr) (whole : Bool) (a t k : Nat) : Bool :=
  Config.arrives a r.id (r.piece k) ≤ t || (r.grain == 0 && !whole && Config.arrives a r.id (1 + k) ≤ t)

/-- The scratch bank of a key (spec/11 R312). -/
def bankKey (k : Nat) : Option Nat := if 2 ^ 40 ≤ k && k < 2 ^ 48 then some (k / 2 ^ 23) else none

/-- Whether an agent with a sight sees byte `k` of a write at count `t`; `whole` where it reads single-copy atomically. -/
def Sight.finds (g : Sight) (whole : Bool) (a t : Nat) (r : Wr) (k : Nat) : Bool :=
  r.now || g.view.has r.id k || r.id < Tab.get g.seen k 0 || r.arrived whole a t k
    || g.eyes.any fun e => r.id < e.2.2
      && (if whole then r.old.any fun c => r.arrived false e.1 e.2.1 c.1 else r.arrived (agentIsS e.1) e.1 e.2.1 k)

/-- Whether it does, or sees a later write of the same scratch bank, whose writes are performed in one order (spec/11 R312), those of
copies in any (spec/05 R145). -/
def State.sees (s : State) (g : Sight) (whole : Bool) (a : Nat) (r : Wr) (k : Nat) : Bool :=
  g.finds whole a s.free r k || (r.by_ < 16384 && (bankKey k).isSome && (s.hist.takeWhile fun x => x.id != r.id).any fun x =>
    x.old.any fun c => bankKey c.1 == bankKey k && g.finds whole a s.free x c.1)

/-- Whether a write is one of some bytes. -/
def Wr.touches (r : Wr) (keys : List Nat) : Bool := r.old.any fun c => keys.contains c.1

/-- A cell with the byte that a list holds at its key, if it holds one. -/
def cellFrom (l : List Host.Cell) (c : Host.Cell) : Host.Cell := (l.find? fun o => o.1 == c.1).getD c

/-- Some bytes at the newest point of their coherence orders at which `p` selects the last write to one of them, and the writes up
to there (spec/11 R302). -/
def pastCells (p : Wr → Bool) : List Wr → List Host.Cell → List Host.Cell × List Wr
  | [], cs => (cs, [])
  | r :: rs, cs =>
    if !r.touches (cs.map (·.1)) then pastCells p rs cs
    else if p r then (cs, r :: rs)
    else pastCells p rs (cs.map (cellFrom r.old))

/-- What comes before the next access of an agent; none for an agent that reads every write. -/
def State.sightOf (s : State) (a : Nat) : Option Sight :=
  match agentCore a with
  | none => none
  | some c =>
    let x := s.core c
    if a < 1024 then some (x.strm ((([Strm.s, .a, .v, .m])[(a - 1) % 4]?).getD .s)).sight
    else if a < 16384 then some (x.qreg ((a - 3072) % 16)).sight
    else (((x.chan ((a - 16384) % 8)).queue.find? fun t => t.ident == (a - 16384) / 8 / 144).map (·.sight))

/-- Some bytes as agent `a`, with that before it, reads them at their home, and the writes up to there; `whole` where the read is
single-copy atomic. -/
def State.lookAs (s : State) (g : Option Sight) (whole : Bool) (a : Nat) (keys : List Nat) : List Host.Cell × List Wr :=
  pastCells (fun r => match g with
    | none => true
    | some g => r.old.any fun c => keys.contains c.1 && s.sees g whole a r c.1) s.hist (keys.map fun k => (k, Mem.read s.mem k))

/-- A data read of bytes that agent `a` reads in one piece: those of the S stream are single-copy atomic. -/
def State.lookAll (s : State) (a : Nat) (keys : List Nat) : List Host.Cell × List Wr :=
  if s.hist.isEmpty then (keys.map fun k => (k, Mem.read s.mem k), []) else s.lookAs (s.sightOf a) (agentIsS a) a keys

/-- A data read of one byte. -/
def State.look (s : State) (a k : Nat) : Byte :=
  if s.hist.isEmpty then Mem.read s.mem k else ((s.lookAs (s.sightOf a) (agentIsS a) a [k]).1.map (·.2)).headD 0

/-- What a walk for an agent sees: also what a FENCE at DEVICE scope or an invalidation came after (spec/04 R114; spec/10 R296). -/
def State.walkSight (s : State) (a : Nat) : Option Sight :=
  (s.sightOf a).map fun g =>
    { g with view := (s.fences.filter fun f => 5 ≤ f.scope).foldl (fun v f => v.join f.view) g.view }

/-- A table entry of `n` bytes at a striped physical address, as a walk for agent `a` reads it (spec/10 R297), with the adds
accepted there (spec/11 R313). -/
def State.physSeen (s : State) (a pa n : Nat) : Nat :=
  let keys := (upTo n).map fun i => striped (pa + i)
  if s.hist.isEmpty then ofBytes (keys.map (Mem.read (s.sysMem keys)))
  else ofBytes ((State.lookAs { s with mem := s.sysMem keys } (s.walkSight a) true a keys).1.map fun c => c.2)

/-! ### Keeping the writes -/

/-- Bytes are as they are for everyone. -/
def State.forget (s : State) (p : Nat → Bool) : State :=
  if s.hist.isEmpty then s
  else { s with hist := (s.hist.map fun r => { r with old := r.old.filter fun c => !p c.1 }).filter fun r => !r.old.isEmpty }

/-- The agents that may yet read: the streams of running cores, and the engines that run. -/
def State.watchers (s : State) : List Sight :=
  ((s.cores.filter (·.2.running)).flatMap fun c => [c.2.ss.sight, c.2.sa.sight, c.2.sv.sight, c.2.sm.sight])
    ++ (s.engines.filter fun e => e.2.running).map fun (e : Nat × Engine) => e.2.sight

/-- Oldest first, the writes that some agent may not see, one that has yet to begin among them, or that stand over an older one. -/
def keptWrites (l : List View) : List Wr → List Wr → List Wr
  | kept, [] => kept
  | kept, r :: rs =>
    keptWrites l (if (!r.now && l.any fun v => !v.hasAll r.id) || (!kept.isEmpty && (r.now || !(r.rels.isEmpty && r.next.isEmpty)))
      then r :: kept else kept) rs

/-- Writes that every agent has seen are forgotten. -/
def State.pruneWrites (s : State) : State :=
  let hist := keptWrites (s.floor :: s.watchers.map (·.view)) [] s.hist.reverse
  { s with hist := hist, fences := if hist.isEmpty then [] else s.fences }

end Sys2Proof.Machine
end

