-- ==== Sys2Proof/Machine/Translate.lean ====
section
/-! DEFINITION. Address translation (spec/10 R286, R287, R291 to R298): core windows, the range table, the page walk,
rights, and the details of its faults. -/

namespace Sys2Proof.Machine

/-- The access kinds of spec/10 R293. -/
inductive Kind where
  | read | write | atomic | nadd | fetch
  deriving DecidableEq, Repr, Inhabited

/-- Where a translated byte lies: its key, whether its line may be buffered, and the memory it belongs to
(0 HBM, 1 host, 2 peer package, 3 scratch) with the link that reaches it. -/
structure Loc where
  key : Nat
  cache : Bool := false
  target : Nat := 0
  link : Nat := 0
  /-- For a peer, its physical address; the context and the agent that access. -/
  (pa asid agent : Nat := 0)
  deriving DecidableEq, Repr, Inhabited

/-- Who translates: the core, its context, whether at supervisor level, and the agent that accesses. -/
structure Who where
  core : Nat
  asid : Nat
  super : Bool
  gang : List Nat := []
  scr : Nat := 0
  agent : Nat := 0
  deriving DecidableEq, Repr, Inhabited

def xlateFault (va d2 d3 : Nat) : Cause := { code := 8, i0 := word va, i2 := word d2, i3 := word d3 }
def protFault (va d2 d3 : Nat) : Cause := { code := 9, i0 := word va, i2 := word d2, i3 := word d3 }

/-- Whether a range entry is in force (spec/10 R291). -/
def rangeValid (e : Nat) : Bool :=
  bit e 0 && bits e 255 200 == 0 && !bit e 11 && bits e 10 8 < 4
    && !(bits e 10 8 == 3 && 143 < bits e 199 192)
    && bits e 63 12 * 4096 ≤ bits e 127 64 && bits e 75 64 == 4095 && bits e 139 128 == 0
    && !(bit e 6 && (bits e 10 8 != 0 || bits e 191 128 != 0))

/-- Whether a range entry covers `va`. -/
def rangeCovers (e va : Nat) : Bool := bits e 63 12 * 4096 ≤ va && va ≤ bits e 127 64

/-- The cached values of the entry at `pa` that a translation of `va` may still use. -/
def Ctx.cachedAt (c : Ctx) (va pa : Nat) : List Nat :=
  (c.cached.filter fun x => x.1 == va / 4096 && x.2.1 == pa).map (·.2.2)

/-- A table entry as one walk finds it: as it stands, or a value of it that is still cached (spec/10 R296, R297). -/
def State.entry (s : State) (agent asid va pa n : Nat) : Nat :=
  let new := s.physSeen agent pa n
  match (s.ctx asid).cachedAt va pa with
  | [] => new
  | l => match Config.staleXlate s.free va pa with
    | 0 => new
    | i + 1 => (l[i]?).getD new

/-- Look `va` up in the range table from entry `i` up (spec/10 R292, R295): its index and value. -/
def State.rangeFrom (s : State) (agent asid xl va : Nat) : Nat → Nat → Except Cause (Nat × Nat)
  | 0, _ => .error (xlateFault va 2 0)
  | fuel + 1, i =>
    let pa := xl + 32 * i
    let loc := striped pa
    if s.unbacked loc then .error (xlateFault va 6 i)
    else if s.ueAt loc 32 then .error { code := 13, i0 := word va, i1 := word pa, i2 := 1 }
    else
      let e := s.entry agent asid va pa 32
      if rangeValid e && rangeCovers e va then .ok (i, e) else State.rangeFrom s agent asid xl va fuel (i + 1)

/-- The range table of a context (spec/01 R10, spec/10 R291). -/
def State.xlBase (s : State) (asid : Nat) : Nat :=
  s.physNow ((s.ctx asid).base + 0x10) 8 / 8192 * 8192 % 2 ^ 39

/-- The lookup of spec/10 R292. -/
def State.range (s : State) (agent asid va : Nat) : Except Cause (Nat × Nat) :=
  State.rangeFrom s agent asid (s.xlBase asid) va 256 0

/-- Page size of a leaf at a level (spec/10 R294). -/
def pageBits (level : Nat) : Nat := 12 + 9 * level

/-- Whether a present page entry is malformed at a level. -/
def pteBad (level e : Nat) : Bool :=
  bits e 63 40 != 0 || bits e 11 5 != 0 || bit e 39
    || (bit e 1 && 3 ≤ level) || (!bit e 1 && level == 0)
    || (!bit e 1 && bits e 4 2 != 0)
    || (bit e 1 && bits e 39 12 * 4096 % 2 ^ pageBits level != 0)

/-- The page walk (spec/10 R294, R295): the physical address and the leaf. -/
def State.walk (s : State) (agent asid va : Nat) : Nat → List Nat → Except Cause (Nat × Nat)
  | _, [] => .error (xlateFault va 4 0)
  | table, level :: rest =>
    let idx := va / 2 ^ pageBits level % (if level == 4 then 256 else 512)
    let pa := table + 8 * idx
    let loc := striped pa
    if s.unbacked loc then .error (xlateFault va 7 level)
    else if s.ueAt loc 8 then .error { code := 13, i0 := word va, i1 := word pa, i2 := 2 }
    else
      let e := s.entry agent asid va pa 8
      if !bit e 0 then .error (xlateFault va 3 level)
      else if pteBad level e then .error (xlateFault va 4 level)
      else if bit e 1 then .ok (bits e 39 12 * 4096 + va % 2 ^ pageBits level, e)
      else State.walk s agent asid va (bits e 39 12 * 4096) rest

/-- The rights a kind needs: R in bit 0, W in bit 1, X in bit 2. -/
def Kind.needs (k : Kind) : Nat :=
  match k with
  | .read => 1
  | .write => 2
  | .atomic => 3
  | .nadd => 2
  | .fetch => 4

/-- Core window addresses (spec/10 R286, R287). -/
def window (w : Who) (va : Nat) (k : Kind) : Except Cause Loc :=
  let sel := bits va 47 40
  let bad := (sel == 0 && bits va 39 24 != 0) || (sel == 1 && (bits va 39 34 != 0 || bits va 31 24 != 0))
    || (sel == 2 && (bits va 39 36 != 0 || bits va 31 24 != 0)) || 2 < sel
  let tgt := if sel == 1 then coreInQuad w.core (bits va 33 32) else if sel == 2 then coreInSector w.core (bits va 35 32) else w.core
  let off := bits va 23 0
  if bad then .error (xlateFault va 5 0)
  else if k == .nadd || k == .fetch then .error (protFault va 11 0xFF)
  else if tgt != w.core && !(w.gang.contains tgt) then .error (protFault va 13 0xFF)
  else if w.scr ≤ off then .error (protFault va 12 0xFF)
  else .ok { key := scratchKey tgt off, target := 3, agent := w.agent }

/-- Translation of one byte address (spec/10 R292 to R295), in the order of spec/04 R104. -/
def State.xlate (s : State) (w : Who) (va : Nat) (k : Kind) : Except Cause Loc :=
  if 2 ^ 56 ≤ va then .error (xlateFault va 1 0)
  else if bits va 55 48 == 255 then window w va k
  else match s.range w.agent w.asid va with
    | .error c => .error c
    | .ok (i, e) =>
      let walked := if bit e 6 then s.walk w.agent w.asid va (s.physNow ((s.ctx w.asid).base + 0x18) 8 / 4096 * 4096 % 2 ^ 39) [4, 3, 2, 1, 0]
        else .ok ((va + bits e 191 128) % 2 ^ 64, 0x1C)
      match walked with
      | .error c => .error c
      | .ok (a, leaf) =>
        let target := bits e 10 8
        let rights := bits e 3 1 &&& bits leaf 4 2
        let loc := dramOf (bit e 7) a
        if bit e 4 && !w.super then .error (protFault va 9 i)
        else if target != 0 && (k == .nadd || k == .fetch) then .error (protFault va 11 i)
        else if rights &&& k.needs != k.needs then .error (protFault va 8 i)
        else if target == 0 then
          (if 2 ^ 39 ≤ a || s.unbacked loc then .error (protFault va 10 i)
           else .ok { key := loc, cache := bit e 5, agent := w.agent })
        else if target == 3 then
          (if 2 ^ 39 ≤ a then .error (protFault va 10 i)
           else .ok { key := peerKey (bits e 199 192) loc, target := 2, link := 16 + bits e 199 192, pa := a, asid := w.asid, agent := w.agent })
        else .ok { key := hostKey (target - 1) a, cache := bit e 5, target := 1, link := target - 1, asid := w.asid, agent := w.agent }

/-- The valid range entries that a lookup of `va` reads, from entry `i` up: where they lie and what they hold. -/
def State.rangeTrail (s : State) (xl va : Nat) : Nat → Nat → List (Nat × Nat)
  | 0, _ => []
  | fuel + 1, i =>
    let pa := xl + 32 * i
    let e := s.physNow pa 32
    if s.unbacked (striped pa) || s.ueAt (striped pa) 32 then []
    else if rangeValid e then (pa, e) :: (if rangeCovers e va then [] else State.rangeTrail s xl va fuel (i + 1))
    else State.rangeTrail s xl va fuel (i + 1)

/-- The valid page entries that a walk of `va` reads. -/
def State.pageTrail (s : State) (va : Nat) : Nat → List Nat → List (Nat × Nat)
  | _, [] => []
  | table, level :: rest =>
    let pa := table + 8 * (va / 2 ^ pageBits level % (if level == 4 then 256 else 512))
    let e := s.physNow pa 8
    if s.unbacked (striped pa) || s.ueAt (striped pa) 8 || !bit e 0 || pteBad level e then []
    else (pa, e) :: (if bit e 1 then [] else State.pageTrail s va (bits e 39 12 * 4096) rest)

/-- Where the range entries lie that a lookup of `va` reads, from entry `i` up, and the entry that covers it. -/
def State.rangeReads (s : State) (xl va : Nat) : Nat → Nat → List Nat × Nat
  | 0, _ => ([], 0)
  | fuel + 1, i =>
    let pa := xl + 32 * i
    let e := s.physNow pa 32
    if s.unbacked (striped pa) || (rangeValid e && rangeCovers e va) then ([striped pa], e)
    else
      let q := State.rangeReads s xl va fuel (i + 1)
      (striped pa :: q.1, q.2)

/-- Where the page entries lie that a walk of `va` reads. -/
def State.pageReads (s : State) (va : Nat) : Nat → List Nat → List Nat
  | _, [] => []
  | table, level :: rest =>
    let pa := table + 8 * (va / 2 ^ pageBits level % (if level == 4 then 256 else 512))
    let e := s.physNow pa 8
    striped pa :: (if s.unbacked (striped pa) || !bit e 0 || pteBad level e || bit e 1 then []
      else State.pageReads s va (bits e 39 12 * 4096) rest)

/-- A table entry that the walk of an access cannot reach now (spec/12 R319, R320).  A translation that is cached needs no walk. -/
def State.walkWaits (s : State) (asid va : Nat) : Option Nat :=
  if !(s.engines.any fun e => e.2.running) || bits va 55 48 == 255 || (s.ctx asid).cached.any (fun x => x.1 == va / 4096) then none
  else
    let q := s.rangeReads (s.xlBase asid) va 256 0
    (q.1 ++ if bit q.2 6 then s.pageReads va (s.physNow ((s.ctx asid).base + 0x18) 8 / 4096 * 4096 % 2 ^ 39) [4, 3, 2, 1, 0] else []).find? s.owned

/-- The device caches the valid entries of a translation of `va`, never an absent or a malformed one (spec/10 R296). -/
def State.cacheXlate (s : State) (asid va : Nat) : State :=
  let c := s.ctx asid
  if c.held == 2 || 2 ^ 56 ≤ va then s
  else
    let l := s.rangeTrail (s.xlBase asid) va 256 0
    let l := if l.any fun x => bit x.2 6 && rangeCovers x.2 va then
        l ++ s.pageTrail va (s.physNow (c.base + 0x18) 8 / 4096 * 4096 % 2 ^ 39) [4, 3, 2, 1, 0] else l
    s.setCtx asid { c with cached := c.cached ++ (l.map fun x => (va / 4096, x.1, x.2)).filter fun x => !c.cached.contains x }

/-- The cores of a gang that still run its members (spec/13 R353). -/
def State.gangCores (s : State) (c : Nat) : List Nat :=
  let me := (s.core c).cont
  me.gang.filter fun g =>
    let x := s.core g
    x.running && x.cont.asid == me.asid && x.cont.lrec == me.lrec && x.cont.node == me.node

/-- Those that are not being reset (spec/15 R404). -/
def State.liveGang (s : State) (c : Nat) : List Nat :=
  (s.gangCores c).filter fun g => !(s.core g).inReset && !(s.dev.rstBusy && s.dev.rstCore == g)

/-- Who a core translates for: the continuation it runs, at its privilege level. -/
def State.who (s : State) (c : Nat) : Who :=
  { core := c, asid := (s.core c).cont.asid, super := (s.core c).trap.super, gang := s.liveGang c, scr := (s.core c).scrBytes }

/-- The key of a scratch word that a flaw makes uncorrectable. -/
def Flaw.key : Flaw → Option Nat
  | ⟨c, .scratch o⟩ => some (scratchKey c o)
  | _ => none

/-- Whether a flaw lies in `n` bytes of scratch at key `k`. -/
def Flaw.touches (f : Flaw) (k n : Nat) : Bool :=
  match f.key with
  | some j => k < j + 8 && j < k + n
  | none => false

/-- Whether reading `n` bytes at a location meets an uncorrectable sector or word, poisoned data, or a far side that does not carry it
(spec/10 R285, R298; spec/12 R331; spec/15 R392). -/
def State.readBad (s : State) (l : Loc) (n : Nat) : Bool :=
  if l.target == 0 then s.ueAt l.key n
  else if l.target == 3 then s.flaws.any fun f => f.touches l.key n
  else s.refuses l.asid l.key || s.ueAt l.key n || (l.target == 2 && s.cutOff (l.link - 16) l.pa)

/-- MEM_UE at a data read (spec/08 R226). -/
def memUe (va : Nat) : Cause := { code := 13, i0 := word va }

/-- Kind and number of storage as REG_UE reports it, under the PART of core `c` (spec/08 R226; spec/10 R285). -/
def Store.info (c : Core) : Store → Nat × Nat
  | .s n | .a n | .x n | .d n | .q n => (5, n)
  | .dict n => (5, 1024 + n)
  | .run _ o => (1, o)
  | .tile u o => (2, 65536 * u + o)
  | .acc _ o => (3, o)
  | .scratch o => (4, (field c.part 6 0 + field c.part 14 8) * 65536 + o)
  | .plane _ | .staging => (6, 0)

/-- REG_UE (spec/08 R226) for the first of some flaws, by what it reports. -/
def State.regUe (s : State) (l : List Flaw) : Option Cause :=
  let one := fun (f : Flaw) => f.store.info (s.core f.core)
  match l.map one with
  | [] => none
  | x :: r =>
    let m := r.foldl (fun (a b : Nat × Nat) => if b.1 < a.1 || (b.1 == a.1 && b.2 < a.2) then b else a) x
    some { code := 14, i0 := word m.1, i1 := word m.2 }

/-- The cause of a read that meets an error (spec/10 R285; spec/08 R226): REG_UE in scratch, MEM_UE elsewhere. -/
def State.badCause (s : State) (l : Loc) (n va : Nat) : Cause :=
  if l.target == 3 then (s.regUe (s.flaws.filter fun f => f.touches l.key n)).getD (memUe va) else memUe va

/-- The sector read buffer line of key `k` for sector `x`. -/
def lineKey (k x : Nat) : Nat := k / 256 * 16 + x

/-- Whether a plain load is served by the buffer, so that the home's errors do not reach it: its sector holds the line, and the load
does not go to the home all the same (spec/10 R288; notes/assumptions/13.md). -/
def State.buffered (s : State) (c : Nat) (l : Loc) : Bool :=
  l.cache && Tab.has s.srb (lineKey l.key (sectorOf c)) && !Config.passBuffer s.free (l.key / 256)

/-- The byte a plain load of core `c` reads: in its sector's line, or at the home, as its agent sees it (spec/11 R309). -/
def State.loadByte (s : State) (c : Nat) (l : Loc) : Byte :=
  if s.buffered c l then (Tab.get s.srb (lineKey l.key (sectorOf c)) []).getD (l.key % 256) 0 else s.look l.agent l.key

end Sys2Proof.Machine
end

