-- ==== Sys2Proof/Machine/Writes.lean ====
section
/-! DEFINITION. Writes as they take their place in coherence order (spec/11 R302, R305, R309): the bytes at their homes, the
releases a write carries, and who sees it. -/

namespace Sys2Proof.Machine

/-- The moving stream as an agent, what it has seen, and a change of it. -/
def State.agent (s : State) : Nat := streamAgent s.cur.core s.cur.strm
def State.sight (s : State) : Sight := (s.me.strm s.cur.strm).sight
def State.onSight (s : State) (c : Nat) (k : Strm) (f : Sight → Sight) : State :=
  s.onCore c fun x => x.onStrm k fun t => { t with sight := f t.sight }

/-- Whether cells cover `n` bytes from key `k`. -/
def covers (cells : List Host.Cell) (k n : Nat) : Bool := (upTo n).all fun i => cells.any fun c => c.1 == k + i

/-- Bytes at their homes: a sector or a scratch word written whole becomes correct (spec/12 R331; spec/15 R392), and a WFE that
watches a word they touch goes on (spec/08 R235). -/
def State.put (s : State) (cells : List Host.Cell) : State :=
  { s with
    mem := Mem.writeCells s.mem cells
    watch := s.watch.filter fun w => !cells.any fun c => w.2 ≤ c.1 && c.1 < w.2 + 8
    ue := s.ue.filter fun u => !covers cells (32 * u) 32
    flaws := s.flaws.filter fun f => !(f.key.any fun k => covers cells k 8) }

/-- The newest write to some bytes that others may not see yet. -/
def State.lastWrite (s : State) (keys : List Nat) : Option Wr := s.hist.find? fun r => r.touches keys

/-! ### Writes that others see later -/

/-- The releases of a write and of what follows it: a plain store carries its own; one that continues a release sequence or a
barrier's phase, those of the write before too.  `flips` counts the phases a credit completes, and `left` whether it goes beyond
the last (spec/11 R305; spec/05 R151, R153). -/
def relsOf (prev : List Rel) (own : List Rel) (chain : Bool) (bar : Option (Nat × Bool)) : List Rel × List Rel :=
  let all := if chain then prev ++ own else own
  match bar with
  | none => (all, all)
  | some (0, _) => ([], all)
  | some (flips, left) => (if flips == 1 then all else own, if left then own else [])

/-- The releases that a write of some bytes by an agent carries: a copy has those of FENCEs before its issue alone. -/
def Sight.carried (g : Sight) (copy : Bool) (keys : List Nat) : List Rel :=
  (g.marks.filter fun m => match m.key with
    | none => true
    | some k => !copy && keys.any fun j => k ≤ j && j < k + 8).map (·.rel)

/-! A plain write may take its place before newer writes (spec/11 R302, R309): to the same byte, of other agents, which nothing makes
come before it and which no access before it has read. -/

/-- The core whose stream writes to scratch, with the bank: its writes there are performed in their order (spec/11 R312), those of its
copies are not ordered with them (spec/05 R145). -/
def bankPath (a k : Nat) : Option (Nat × Nat) :=
  if 16384 ≤ a then none else (bankKey k).bind fun b => (agentCore a).map fun c => (c, b)

/-- Whether a plain write of agent `a` to some bytes may stand before write `r`. -/
def State.mayPass (s : State) (g : Sight) (a : Nat) (keys : List Nat) (r : Wr) : Bool :=
  (!(keys.any fun k => (bankPath a k).isSome && r.old.any fun c => bankPath r.by_ c.1 == bankPath a k))
    && (!r.touches keys || (r.scope.isNone && !r.bar && !r.now && g.since ≤ r.id && r.by_ != a
      && !(r.old.any fun c => keys.contains c.1 && s.sees g (agentIsS a) a r c.1)))

/-- The writes that a write to `cells` stands before, oldest first, with their older bytes made its own, the write with its older
bytes, and the cells that none of them writes. -/
def slipUnder : List Wr → Wr → List Host.Cell → List Wr × Wr × List Host.Cell
  | [], w, cs => ([], w, cs)
  | r :: rs, w, cs =>
    let mine := cs.filter fun c => r.touches [c.1]
    let q := slipUnder rs { w with old := w.old.map fun o => if mine.any (·.1 == o.1) then cellFrom r.old o else o }
      (cs.filter fun c => !r.touches [c.1])
    ({ r with old := r.old.map (cellFrom mine) } :: q.1, q.2)

/-- Write `w` of `cells` takes its place before the newest writes that it may pass, at most `n`. -/
def State.slipIn (s : State) (g : Sight) (n : Nat) (w : Wr) (cells : List Host.Cell) : State :=
  let l := (s.hist.take n).takeWhile (s.mayPass g w.by_ (cells.map (·.1)))
  let q := slipUnder l.reverse w cells
  { s.put q.2.2 with hist := q.1.reverse ++ q.2.1 :: s.hist.drop l.length, nextWr := s.nextWr + 1 }

/-- Bytes take their place in coherence order as the newest, written by `w`. -/
def State.placeNewest (s : State) (w : Wr) (cells : List Host.Cell) : State :=
  { s.put cells with
    hist := { w with id := s.nextWr, old := cells.map fun c => (c.1, Mem.read s.mem c.1) } :: s.hist, nextWr := s.nextWr + 1 }

/-- Whether a byte of a plain write comes late, with its piece of the write. -/
def State.isLate (s : State) (how : How) (c : Host.Cell) : Bool := Config.late s.free (if how.grain == 0 then 0 else c.1 / how.grain)

/-- The pieces of plain write `w` that come late. -/
def State.placeLate (s : State) (g : Sight) (w : Wr) (cells : List Host.Cell) : State :=
  if cells.isEmpty then s
  else s.slipIn g (Config.slip s.free) { w with id := s.nextWr, old := cells.map fun c => (c.1, Mem.read s.mem c.1) } cells

/-- Bytes take their place in coherence order as write `w`; a part of a plain write without a release may come earlier. -/
def State.placeWrite (s : State) (agent : Nat) (how : How) (w : Wr) (cells : List Host.Cell) : State :=
  match s.sightOf agent with
  | none => s.placeNewest w cells
  | some g =>
    if s.hist.isEmpty || w.scope.isSome || w.bar || w.now || !w.rels.isEmpty || !w.next.isEmpty then s.placeNewest w cells
    else
      let t := s.placeLate g w (cells.filter (s.isLate how))
      let newer := cells.filter fun c => !s.isLate how c
      if newer.isEmpty then t else t.placeNewest w newer

/-- An agent knows its own writes of the numbers from `lo` to `hi`. -/
def State.ownWrites (s : State) (agent lo hi : Nat) : State :=
  let f := fun (v : View) => ((upTo (hi - lo)).map (lo + ·)).foldl View.learn v
  match agentCore agent with
  | some c => if agent < 1024 then
      s.onSight c ((([Strm.s, .a, .v, .m])[(agent - 1) % 4]?).getD .s) fun g => { g with view := f g.view } else s
  | none => if agent == 0 || 3072 ≤ agent then s else s.onEngine (agent - 1024) fun e => { e with view := f e.view, sight := { e.sight with view := f e.sight.view } }

/-- Engines whose rows are written at a boundary find the writes of the numbers from `lo` to `hi` at their banks (spec/12 R327). -/
def State.engineSees (s : State) (keys : List Nat) (lo hi : Nat) : State :=
  ((((keys.filter isHbm).map engineOf).eraseDups).filter fun n => (s.engine n).running).foldl (fun s n =>
    s.onEngine n fun e => { e with sight := { e.sight with view := ((upTo (hi - lo)).map (lo + ·)).foldl View.learn e.sight.view } }) s

/-- Releases that reach every agent of the package: what they cover has been performed for walks (spec/10 R296). -/
def State.deviceWide (s : State) (rels : List Rel) : State :=
  match rels.filter Rel.deviceWide with
  | [] => s
  | l =>
    let old := (s.fences.filter (·.by_ == 0)).map (·.view)
    { s with fences := { by_ := 0, scope := 7, view := (old ++ l.map (·.view)).foldl View.join {} } :: s.fences.filter (·.by_ != 0) }

/-- What a core's streams have before them together, with what its copies have written (spec/05 R154; spec/08 R236). -/
def State.allSeen (s : State) (c : Nat) : View :=
  let x := s.core c
  ((s.hist.filter fun r => 16384 ≤ r.by_ && agentCore r.by_ == some c).map (·.id)).foldl View.learn
    ([x.ss, x.sa, x.sv, x.sm].foldl (fun v t => v.join t.sight.view) {})

/-- A release at DEVICE scope of a view by core `c`: of a suspension point, EPUT, LARM, LARMW and the end of an item (spec/08 R236 to
R241; spec/13 R356). -/
def State.deviceRelease (s : State) (c : Nat) (v : View) : State :=
  if s.hist.isEmpty then s else (s.deviceWide [{ by_ := streamAgent c .s, scope := 7, view := v }]).pruneWrites

/-- A release at HOST scope by Keystone or Xiost, of what has been performed for the package (spec/13 R357; spec/14 R373, R376). -/
def State.sysRel (s : State) (scope : Nat) : List Rel := if s.hist.isEmpty then [] else [{ by_ := 0, scope := scope, view := s.floor }]

/-- Bytes performed by an agent, with all the releases they carry: they take their place in coherence order, and other agents see them
when they become visible; `now` where they see them at once. -/
def State.performRels (s : State) (agent : Nat) (how : How) (own : List Rel) (bar : Option (Nat × Bool)) (now : Bool)
    (cells : List Host.Cell) : State :=
  let keys := cells.map (·.1)
  let prev := ((s.lastWrite keys).map (·.next)).getD []
  let (rels, next) := relsOf prev own (how.scope.isSome || bar.isSome || how.chain) bar
  let w : Wr := { by_ := agent, grain := how.grain, now := now, scope := how.scope, rels := rels, next := next
                  bar := bar.isSome, flip := bar.any fun b => b.1 != 0 }
  let t := s.placeWrite agent how w cells
  (((t.ownWrites agent s.nextWr t.nextWr).engineSees keys s.nextWr t.nextWr).deviceWide own).pruneWrites

/-- The releases that the next write of an agent to some bytes carries. -/
def State.carries (s : State) (agent : Nat) (keys : List Nat) : List Rel :=
  match s.sightOf agent with
  | some g => g.carried (1024 ≤ agent) keys
  | none => []

/-- Bytes performed by an agent with the releases `own` and those its FENCEs and RELs have it carry.  A barrier credit carries them
too, so that a FENCE or REL before BARARRIVE is acquired through the credit (R306; DESIGN CHOICE, notes/assumptions/71.md). -/
def State.performBy (s : State) (agent : Nat) (how : How) (own : List Rel) (bar : Option (Nat × Bool)) (now : Bool)
    (cells : List Host.Cell) : State :=
  s.performRels agent how (own ++ s.carries agent (cells.map (·.1))) bar now cells

/-- Bytes that Keystone, Xiost or a party outside writes, with the releases it carries: every agent sees them at once. -/
def State.performFor (s : State) (rels : List Rel) (cells : List Host.Cell) : State :=
  if s.hist.isEmpty then s.put cells else s.performBy 0 { grain := 0 } rels none true cells

/-- Such a write that releases nothing. -/
def State.perform (s : State) (cells : List Host.Cell) : State := s.performFor [] cells

end Sys2Proof.Machine
end

