-- ==== Sys2Proof/Machine/Graph.lean ====
section
/-! DEFINITION. What Keystone keeps and writes on behalf of every instruction that starts, ends or fails an item:
launch records, continuation records, nodes and edges, completion and error records, and the stop of a context
(spec/13 R338 to R368, R446; spec/15 R393 to R397). -/

namespace Sys2Proof.Machine

/-! ### Memory as Keystone and Xiost reach it -/

/-- Keystone and Xiost translate as a supervisor access of the context (spec/14 R375). -/
def kWho (asid : Nat) : Who := { core := 0, asid := asid, super := true }

/-- The keys of `n` bytes at `va` for an access of kind `k`. -/
def State.keysOf (s : State) (w : Who) (va : Nat) (k : Kind) : Nat → Except Cause (List Loc)
  | 0 => .ok []
  | n + 1 =>
    match s.xlate w va k with
    | .error c => .error c
    | .ok l => match State.keysOf s w (va + 1) k n with
      | .error c => .error c
      | .ok r => .ok (l :: r)

/-- Whether a write of these cells meets an uncorrectable sector that it does not cover whole, or a link that is
down (spec/12 R331). -/
def State.writeBad (s : State) (locs : List Loc) : Bool :=
  (s.ue.any fun u => locs.any (fun l => l.target != 1 && l.key / 32 == u)
      && !(upTo 32).all fun i => locs.any fun l => l.key == 32 * u + i)
    || locs.any fun l => (l.target == 1 || l.target == 2) && s.refuses l.asid l.key

/-- Whether 32 bytes lie in host memory, where a write meets no poison. -/
def hostSector (u : Nat) : Bool := 2 ^ 59 ≤ u && u < 2 ^ 75

/-- Whether a write of cells by a context meets an uncorrectable sector it does not cover whole, or a far side that does not
carry it (spec/12 R331, spec/10 R298). -/
def State.badCells (s : State) (asid : Nat) (cells : List Host.Cell) : Bool :=
  (s.ue.any fun u => cells.any (fun c => c.1 / 32 == u) && !hostSector u && !covers cells (32 * u) 32)
    || cells.any fun c => s.refuses asid c.1

/-- A write of Keystone or Xiost with the releases it carries: now where the controllers own the rows, else in the order of arrival
(spec/12 R319, R320). -/
def State.sysStoreFor (s : State) (who : Add) (rels : List Rel) (cells : List Host.Cell) : State :=
  if (cells.any fun c => s.owned c.1) then
    (cellBlocks 256 cells).foldl (fun s b => match b with
      | [] => s
      | c :: _ => if b.any fun x => s.owned x.1 then
          s.arrive (engineOf c.1) { cells := b, sys := true, key := c.1, rels := rels, who := who }
        else s.performFor rels b) s
  else s.performFor rels cells

/-- Such a write that releases nothing. -/
def State.sysStore (s : State) (who : Add) (cells : List Host.Cell) : State := s.sysStoreFor who [] cells

/-- Bytes that the device writes at a striped physical address for a context.  A write of part of an uncorrectable sector is not
performed, and is reported to the context (spec/12 R330, R331). -/
def State.physWrite (s : State) (asid pa : Nat) (bs : List Byte) : State :=
  let cells := physCells pa bs
  if s.badCells asid cells then { s with ues := s.ues ++ [{ asid := asid, va := pa }] } else s.sysStore { asid := asid, va := pa } cells

/-- Read `n` bytes at a virtual address of a context, at the home: the number, or 8, 9 or 13. -/
def State.kRead (s : State) (asid va n : Nat) : Except Nat Nat :=
  match s.keysOf (kWho asid) va .read n with
  | .error c => .error c.code
  | .ok ls => if ls.any fun l => s.readBad l 1 then .error 13
    else
      let m := s.sysMem (ls.map (·.key))
      .ok (ofBytes (ls.map fun l => Mem.read m l.key))

/-- Write bytes at a virtual address of a context, with the releases they carry: the state after, or 8, 9 or 13 with nothing
written. -/
def State.kWriteFor (s : State) (rels : List Rel) (asid va : Nat) (bs : List Byte) : Except Nat State :=
  match s.keysOf (kWho asid) va .write bs.length with
  | .error c => .error c.code
  | .ok ls => if s.writeBad ls then .error 13 else .ok (s.sysStoreFor { asid := asid, va := va } rels (ls.zipWith (fun l b => (l.key, b)) bs))

/-- Such a write that releases nothing. -/
def State.kWrite (s : State) (asid va : Nat) (bs : List Byte) : Except Nat State := s.kWriteFor [] asid va bs

/-- A word of the context block (spec/01 R10). -/
def State.ctxWord (s : State) (asid off : Nat) : Nat := s.physNow ((s.ctx asid).base + off) 8

/-! ### Queues and interrupts -/

def qVec (ctl : Nat) : Nat := bits ctl 48 38
def qFn (ctl : Nat) : Nat := bits ctl 37 32
def qPriv (ctl : Nat) : Bool := bit ctl 30
def qOwner (ctl : Nat) : Nat := bits ctl 29 29
def qAsid (ctl : Nat) : Nat := bits ctl 28 19
def qLoc (ctl : Nat) : Nat := bits ctl 17 16
def qLog (ctl : Nat) : Nat := bits ctl 12 8

/-- MSI-X on the VEC of a queue (spec/14 R381). -/
def State.sendMsix (s : State) (ctl : Nat) : State := { s with msix := (qOwner ctl, qVec ctl) :: s.msix }

/-- MSI-X on the VEC of every enabled queue of a context (spec/13 R368, spec/15 R396). -/
def State.msixAsid (s : State) (asid : Nat) : State :=
  s.xi.queues.foldl (fun s q => if q.2.en && qAsid q.2.ctl == asid then s.sendMsix q.2.ctl else s) s

def State.queue (s : State) (q : Nat) : Queue := Tab.get s.xi.queues q {}
def State.setQueue (s : State) (q : Nat) (x : Queue) : State := { s with xi := { s.xi with queues := Tab.set s.xi.queues q x } }

/-- Complete the open packets that `p` selects; a queue that waited for its last one goes on (spec/14 R378 to R381). -/
def State.completePackets (s : State) (p : Packet → Bool) : State :=
  let done := s.xi.open_.filter p
  let left := s.xi.open_.filter fun x => !p x
  let freed := fun (q : Nat × Queue) =>
    if q.2.hold == 3 && !left.any fun x => x.queue == q.1 then (q.1, { q.2 with hold := 0, pend := true }) else q
  let s := { s with xi := { s.xi with open_ := left, queues := s.xi.queues.map freed } }
  done.foldl (fun s x => if x.irq then s.sendMsix (s.queue x.queue).ctl else s) s

/-! ### Error records -/

def State.ring (s : State) (asid : Nat) : KsRing := Tab.get s.ks.rings asid {}

/-- The error ring could not be read or written (spec/13 R368). -/
def State.ringBad (s : State) (asid : Nat) : State :=
  let r := s.ring asid
  let s' := { s with ks := { s.ks with rings := Tab.set s.ks.rings asid { bad := true, lost := min (r.lost + 1) (2 ^ 32 - 1) } } }
  if r.bad then s' else s'.msixAsid asid

/-- The bytes of an error record (spec/13 R367). -/
def errBytes (kind cause lrec node wid d0 d1 tick : Nat) : List Byte :=
  bytesOf 8 (kind + cause % 256 * 2 ^ 8 + lrec % 4096 * 2 ^ 16 + node % 256 * 2 ^ 28) ++ bytesOf 8 wid ++ bytesOf 8 d0
    ++ bytesOf 8 d1 ++ bytesOf 8 tick ++ bytesOf 24 0

/-- TICK now: some core cycles after it was last read (spec/01 R36). -/
def State.tickNow (s : State) : State := { s with tick := s.tick + Config.freeCycles s.free, free := s.free + 1 }

/-- Append an error record to the context's ring (spec/13 R366 to R368). -/
def State.errRecord (s : State) (asid kind cause lrec node wid d0 d1 : Nat) : State :=
  let s := s.tickNow
  if (s.ring asid).bad then s.ringBad asid
  else
    let base := s.ctxWord asid 0x50
    match s.kRead asid base 32 with
    | .error _ => s.ringBad asid
    | .ok h =>
      let log := bits h 4 0
      let head := bits h 127 64
      let tail := bits h 191 128
      let dropped := bits h 255 192
      let drop := fun (_ : Unit) => match s.kWrite asid (base + 24) (bytesOf 8 (dropped + 1)) with
        | .error _ => s.ringBad asid
        | .ok s1 => s1
      if log < 4 || 16 < log then drop ()
      else if (head + 2 ^ 64 - tail) % 2 ^ 64 < 2 ^ log then
        match s.kWrite asid (base + 64 + 64 * (head % 2 ^ log)) (errBytes kind cause lrec node wid d0 d1 s.tick) with
        | .error _ => s.ringBad asid
        | .ok s1 => match s1.kWriteFor (s1.sysRel 8) asid (base + 8) (bytesOf 8 (head + 1)) with
          | .error _ => s.ringBad asid
          | .ok s2 => s2
      else drop ()

/-! ### Launch records -/

def lrKey (asid i : Nat) : Nat := asid * 4096 + i
def State.lrec (s : State) (asid i : Nat) : LRec := Tab.get s.ks.lrecs (lrKey asid i) {}
/-- Address of launch record `i` (spec/13 R338). -/
def State.lrAddr (s : State) (asid i : Nat) : Nat := s.ctxWord asid 0x20 + 128 * i

/-- Write Keystone's state of a launch record and its memory copy (spec/13 R446). -/
def State.setLrec (s : State) (asid i : Nat) (x : LRec) : State :=
  let s := { s with ks := { s.ks with lrecs := Tab.set s.ks.lrecs (lrKey asid i) x } }
  let a := s.lrAddr asid i
  match s.keysOf (kWho asid) a .write 8 with
  | .error c => s.errRecord asid 8 c.code i 0 0 a 0
  | .ok ls =>
    let m := s.sysMem (ls.map (·.key))
    let w := ofBytes (ls.map fun l => Mem.read m l.key)
    let w' := w - bits w 15 8 * 2 ^ 8 - bits w 3 0 + x.gen % 256 * 2 ^ 8 + x.tier % 4 * 4 + x.state % 4
    match s.kWrite asid a (bytesOf 8 w') with
    | .error c => s.errRecord asid 8 c i 0 0 a 0
    | .ok s' => s'

/-- Whether a launch record's header is malformed (spec/13 R338). -/
def headerBad (r : Nat) : Bool :=
  let nf := bits r 258 256
  let wd := (upTo 6).map fun i => bits r (259 + 7 * i + 6) (259 + 7 * i)
  bit r 383 || bits r 319 301 != 0 || bits r 63 16 != 0 || bits r 7 5 != 0
    || nf == 0 || nf == 7
    || (upTo 6).any (fun i => if i < nf then wd.getD i 0 == 0 || 64 < wd.getD i 0 else wd.getD i 0 != 0)
    || 64 < wd.foldl (· + ·) 0
    || 64 < bits r 382 376
    || bits r 69 64 != 0 || bits r 324 320 != 0 || bits r 645 640 != 0
    || bits r 386 384 != 0 || bits r 514 512 != 0
    || (bit r 4 && bits r 130 128 != 0)

/-- Total width of a launch's identifier fields (spec/13 R350). -/
def widBits (copy : Nat) : Nat := ((upTo 6).map fun i => bits copy (259 + 7 * i + 6) (259 + 7 * i)).foldl (· + ·) 0

/-- Whether a tier's pending slots are full (spec/13 R345). -/
def State.tierFull (s : State) (tier : Nat) : Bool := 256 ≤ (s.ks.pend.filter fun p => p.tier == tier).length

/-- Arm a record that has passed its checks (spec/13 R340, R345): PENDING at the tier, with a copy of the record. -/
def State.arm (s : State) (asid i tier copy : Nat) (priv : Bool) : State :=
  let s := { s with ks := { s.ks with
    pend := s.ks.pend ++ [({ asid := asid, lrec := i, tier := tier, order := s.ks.order, copy := copy, priv := priv } : Pending)]
    order := s.ks.order + 1 } }
  s.setLrec asid i { s.lrec asid i with state := 1, tier := tier }

/-- Return a record to IDLE; the ARM packet that armed it completes (spec/13 R340, spec/14 R379). -/
def State.idleLrec (s : State) (asid i : Nat) : State :=
  let r := s.lrec asid i
  (s.setLrec asid i { r with state := 0, gen := (r.gen + 1) % 256 }).completePackets
    fun p => p.type == 2 && p.asid == asid && p.lrec == i

/-! ### Completion records -/

/-- Write the listed pieces of a completion record in order, stopping at the first failure (spec/13 R368). -/
def State.writePieces (s : State) (asid : Nat) : List (Nat × List Byte) → State × Nat
  | [] => (s, 0)
  | (a, bs) :: rest =>
    match s.kWrite asid a bs with
    | .error c => (s, c)
    | .ok s' => s'.writePieces asid rest

/-- Write a completion record, word 0 last, which releases at HOST scope what the ends of the nodes released (spec/13 R357, R365, R368). -/
def State.completion (s : State) (asid lrec crec status reason fnode gen : Nat) (nodes : List NodeSt) : State :=
  let s := s.tickNow
  let nfail := nodes.foldl (fun a n => a + n.failed) 0
  let pieces := (upTo nodes.length).zipWith (fun i n =>
      (crec + 32 + 32 * i, bytesOf 8 n.created ++ bytesOf 8 n.done ++ bytesOf 8 n.failed ++ bytesOf 8 n.first)) nodes
    ++ [(crec + 8, bytesOf 8 nfail ++ bytesOf 8 s.tick ++ bytesOf 8 gen)]
  let (s, c) := s.writePieces asid pieces
  let bad := fun (s : State) (c : Nat) => s.errRecord asid 7 c lrec 0 0 crec 0
  if c != 0 then bad s c
  else match s.kWriteFor (s.sysRel 8) asid crec (bytesOf 8 (status + reason * 2 ^ 8 + fnode * 2 ^ 16)) with
    | .error c => bad s c
    | .ok s => s

/-! ### Continuation records -/

def recKey (asid i : Nat) : Nat := asid * 2 ^ 24 + i
def State.rec_ (s : State) (k : Nat) : ContRec := Tab.get s.ks.recs k {}
def State.setRec (s : State) (k : Nat) (r : ContRec) : State := { s with ks := { s.ks with recs := Tab.set s.ks.recs k r } }

/-- Address of a continuation record (spec/01 R15). -/
def State.recAddr (s : State) (k : Nat) : Nat := s.ctxWord (k / 2 ^ 24) 0x40 + 64 * (k % 2 ^ 24)

/-- Word 0 and word 7 of a continuation record (spec/01 R15). -/
def recWord0 (r : ContRec) : Nat :=
  r.state + r.lrec * 2 ^ 8 + r.node * 2 ^ 20 + r.slot * 2 ^ 32 + r.wait * 2 ^ 44
def recWord7 (asid : Nat) (r : ContRec) : Nat :=
  asid + r.prio * 2 ^ 10 + r.lastCore * 2 ^ 16 + r.age * 2 ^ 24 + b2n r.restart * 2 ^ 32 + b2n r.replay * 2 ^ 33

/-- Write a whole continuation record (spec/01 R15, spec/13 R446). -/
def State.writeRec (s : State) (k : Nat) (offs : List Nat) (carry : List Nat) : Except Nat State :=
  let r := s.rec_ k
  s.kWrite (k / 2 ^ 24) (s.recAddr k)
    (bytesOf 8 (recWord0 r) ++ bytesOf 8 r.wid ++ (upTo 4).flatMap (fun i => bytesOf 4 (offs.getD i 0))
      ++ (upTo 3).flatMap (fun i => bytesOf 8 (carry.getD i 0)) ++ bytesOf 8 (recWord7 (k / 2 ^ 24) r))

/-- Write word 0 of a record, where it can be written. -/
def State.writeWord0 (s : State) (k w : Nat) : State :=
  match s.kWrite (k / 2 ^ 24) (s.recAddr k) (bytesOf 8 w) with
  | .error _ => s
  | .ok s' => s'

/-- The instance of a record ends: DONE or FAILED in Keystone's state and, where it can be written, in memory (spec/13 R351). -/
def State.endRec (s : State) (k : Nat) (ok : Bool) : State :=
  let r := { s.rec_ k with state := if ok then 5 else 6 }
  { s.setRec k r with ks := { (s.setRec k r).ks with saved := Tab.erase s.ks.saved k } }.writeWord0 k (recWord0 r)

/-- Free a record (spec/13 R351). -/
def State.freeRec (s : State) (k : Nat) : State :=
  { s with ks := { s.ks with recs := Tab.erase s.ks.recs k } }.writeWord0 k 0

/-- Free the records whose instances have ended, within the round in which they ended (spec/13 R351). -/
def State.sweep (s : State) : State :=
  ((s.ks.recs.filter fun p => p.2.state == 5 || p.2.state == 6).map (·.1)).foldl State.freeRec s

/-! ### Nodes and graphs -/

def Graph.node (g : Graph) (i : Nat) : Nat := g.nodes.getD i 0
def Graph.nst (g : Graph) (i : Nat) : NodeSt := g.st.getD i {}
def Graph.setNst (g : Graph) (i : Nat) (x : NodeSt) : Graph := { g with st := g.st.set i x }
def nodeIsEngine (n : Nat) : Bool := bits n 1 0 == 1
def nodeDet (n : Nat) : Bool := bit n 7
def edgeSrc (e : Nat) : Nat := bits e 11 0
def edgeDst (e : Nat) : Nat := bits e 23 12
def edgeIsCompletion (e : Nat) : Bool := bit e 24
def edgePort (e : Nat) : Nat := bits e 28 25
def edgeSlots (e : Nat) : Nat := bits e 37 29
def edgeNeed (e : Nat) : Nat := bits e 63 38

/-- The incoming edges of a node. -/
def Graph.into (g : Graph) (i : Nat) : List EdgeSt := g.edges.filter fun e => edgeDst e.entry == i

/-- Whether a node can create no further instance, given which lower nodes have ended (spec/13 R357). -/
def Graph.noMore (g : Graph) (ends : List Bool) (i : Nat) : Bool :=
  let n := g.nst i
  match g.into i with
  | [] => n.created == g.count
  | e :: _ =>
    if edgeIsCompletion e.entry then n.created == bits (g.node i) 63 32
    else ends.getD (edgeSrc e.entry) false && e.items.isEmpty && e.held.isEmpty

/-- Which nodes have ended, in index order (spec/13 R357). -/
def Graph.ends (g : Graph) : List Bool :=
  (upTo g.nodes.length).foldl (fun acc i =>
    let n := g.nst i
    acc ++ [g.noMore acc i && n.done + n.failed == n.created && (!nodeDet (g.node i) || n.flushed)]) []

/-- Whether a completion edge is satisfied (spec/13 R356). -/
def Graph.satisfied (g : Graph) (e : EdgeSt) : Bool :=
  let n := g.nst (edgeSrc e.entry)
  let ended := g.ends.getD (edgeSrc e.entry) false
  ended || (edgeNeed e.entry != 0 && edgeNeed e.entry ≤ n.done + n.failed)

def State.graph (s : State) (asid lrec : Nat) : Option Graph := s.ks.graphs.find? fun g => g.asid == asid && g.lrec == lrec

/-- Change a graph. -/
def State.onGraph (s : State) (asid lrec : Nat) (f : Graph → Graph) : State :=
  { s with ks := { s.ks with graphs := s.ks.graphs.map fun g => if g.asid == asid && g.lrec == lrec then f g else g } }

/-- The identifier of the next instance of a node, if one can be created (spec/13 R350). -/
def Graph.nextWid (g : Graph) (i : Nat) : Option Nat :=
  let n := g.nst i
  match g.into i with
  | [] => if n.created < g.count then some n.created else none
  | e :: es =>
    if edgeIsCompletion e.entry then
      (if n.created < bits (g.node i) 63 32 && (e :: es).all g.satisfied then some n.created else none)
    else e.items.head?.map (· % 2 ^ widBits g.copy)

/-- When the next creation of a node became possible (spec/13 R351): as its item entered the edge, or with the node's first. -/
def Graph.since (g : Graph) (i : Nat) : Nat :=
  match (g.into i).find? fun e => !edgeIsCompletion e.entry with
  | some e => e.times.headD 0
  | none => (g.nst i).since.getD 0

/-- Nodes whose first creation has become possible take the present moment. -/
def Graph.mark (g : Graph) (now : Nat) : Graph :=
  { g with st := g.st.zipIdx.map fun x => if x.1.since.isNone && (g.nextWid x.2).isSome then { x.1 with since := some now } else x.1 }

/-- Note which creations of a graph have become possible. -/
def State.markNew (s : State) (asid lrec : Nat) : State :=
  let s := s.onGraph asid lrec fun g => g.mark s.ks.order
  { s with ks := { s.ks with order := s.ks.order + 1 } }

/-- End a graph whose every node has ended (spec/13 R357). -/
def State.endGraph (s : State) (asid lrec : Nat) : State :=
  match s.graph asid lrec with
  | none => s
  | some g =>
    if g.ends.all id then
      let failed := g.st.any fun n => n.failed != 0
      let s := s.completion asid lrec (bits g.copy 703 640) (if failed then 1 else 0) 0 0 (s.lrec asid lrec).gen g.st
      let s := { s with ks := { s.ks with graphs := s.ks.graphs.filter fun x => !(x.asid == asid && x.lrec == lrec) } }
      s.idleLrec asid lrec
    else s

/-- Count the end of one instance (spec/13 R356, R365; spec/15 R397). -/
def NodeSt.count (n : NodeSt) (isEngine ok : Bool) (first : Nat) : NodeSt :=
  let n := if ok then { n with done := n.done + 1 } else { n with failed := n.failed + 1 }
  if isEngine then
    (if ok && !n.firstBad then { n with first := first }
     else if !ok && !n.firstBad then { n with first := first, firstBad := true } else n)
  else if !ok && !n.firstBad then { n with first := first, firstBad := true } else n

/-- Count the end of an instance and end its graph if it was the last (spec/13 R356, R357). -/
def State.countEnd (s : State) (asid lrec node : Nat) (ok : Bool) (first : Nat) : State :=
  ((s.onGraph asid lrec fun g => g.setNst node ((g.nst node).count (nodeIsEngine (g.node node)) ok first)).markNew asid lrec).endGraph
    asid lrec

/-- Report an array item FAILED with an error record (spec/15 R397), and end its record. -/
def State.failRec (s : State) (k kind cause d0 d1 : Nat) : State :=
  let r := s.rec_ k
  let asid := k / 2 ^ 24
  let s := s.errRecord asid kind cause r.lrec r.node r.wid d0 d1
  let s := s.endRec k false
  s.countEnd asid r.lrec r.node false r.wid

/-- The core after its continuation has gone: idle, with nothing of it left running (spec/08 R230). -/
def Core.freed (c : Core) : Core :=
  let z := Core.init
  let mat := { z.mat with fenced := c.mat.fenced, heat := c.mat.heat, failing := c.mat.failing, glitch := c.mat.glitch }
  { z with enabled := c.enabled, inReset := c.inReset, mat := mat }

/-- Free the core of a continuation: a request to migrate it lapses (spec/13 R364). -/
def State.freeCore (s : State) (c : Nat) : State :=
  { s.onCore c Core.freed with dev := { s.dev with migrate := s.dev.migrate.filter (· != c) } }

/-- End the continuation of core `c` as FAILED (spec/08 R230): its copies are discarded, its record freed, the item
reported with an error record. -/
def State.endFailed (s : State) (c kind cause d0 d1 : Nat) : State :=
  let x := s.core c
  (s.freeCore c).failRec (recKey x.cont.asid x.cont.recIdx) kind cause d0 d1

/-- The identifiers a node has yet to create when its graph fails or its context stops (spec/15 R396 step 5): the
rest of a root count, every instance of a completion consumer, the items on a streaming edge. -/
def Graph.uncreated (g : Graph) (i : Nat) : List Nat :=
  let n := g.nst i
  match g.into i with
  | [] => (upTo (g.count - n.created)).map (· + n.created)
  | e :: _ =>
    if edgeIsCompletion e.entry then (upTo (bits (g.node i) 63 32 - n.created)).map (· + n.created)
    else (e.items ++ e.held.map (·.2)).map (· % 2 ^ widBits g.copy)

/-- The engine report word (spec/09 R281). -/
def reportWord (status eng mpc bank col row : Nat) (eflags : Word) (refMiss rowOvr : Bool) : Nat :=
  status + eng * 2 ^ 8 + mpc * 2 ^ 19 + bank * 2 ^ 31 + b2n refMiss * 2 ^ 33 + b2n rowOvr * 2 ^ 34
    + (b2n (wbit eflags 0) + 2 * b2n (wbit eflags 2) + 4 * b2n (wbit eflags 3) + 8 * b2n (wbit eflags 4)) * 2 ^ 35
    + col * 2 ^ 40 + row * 2 ^ 48

/-- The engine of instance `w` of an engine node (spec/13 R343, R352). -/
def engOf (node w : Nat) : Nat := bits node 202 192 + w % bits node 214 203 * bits node 225 215

/-- The report of an instance that never started: STOPPED, at the node's entry (spec/09 R283). -/
def stoppedWord (node w : Nat) : Nat := reportWord 8 (engOf node w) (bits node 139 128) 0 0 0 0 false false

/-- Create and fail every instance not yet created, and stop the engine nodes (spec/15 R393, R396). -/
def Graph.abandon (g : Graph) : Graph :=
  let st := (upTo g.nodes.length).map fun i =>
    let n := g.nst i
    let ids := g.uncreated i
    let lo := ids.foldl min (2 ^ 64 - 1)
    let n := { n with created := n.created + ids.length, failed := n.failed + ids.length, stopped := true }
    if ids.isEmpty || n.firstBad then n
    else { n with first := if nodeIsEngine (g.node i) then stoppedWord (g.node i) lo else lo, firstBad := true }
  { g with st := st, edges := g.edges.map fun e => { e with items := [], times := [], held := [] } }

/-- Report an engine instance that never started as STOPPED (spec/09 R283). -/
def State.stoppedInst (s : State) (asid lrec node wid : Nat) : State :=
  let w := match s.graph asid lrec with
    | some g => stoppedWord (g.node node) wid
    | none => 8
  (s.errRecord asid 2 8 lrec node wid w 0).countEnd asid lrec node false w

/-- Report the queued engine instances that `p` selects as STOPPED (spec/09 R283). -/
def State.dropEngQ (s : State) (p : EngInst → Bool) : State :=
  let gone := s.ks.engQ.filter p
  let s := { s with ks := { s.ks with engQ := s.ks.engQ.filter fun x => !p x } }
  gone.foldl (fun s x => s.stoppedInst x.asid x.lrec x.node x.wid) s

/-- Set the held state of a context and mirror it into CTXCTL (spec/01 R10). -/
def State.setCtxState (s : State) (asid st : Nat) : State :=
  let c := s.ctx asid
  let w := s.physNow c.base 8
  let s := s.physWrite asid c.base (bytesOf 8 (w - bits w 11 10 * 2 ^ 10 + st * 2 ^ 10))
  s.setCtx asid { c with held := st }

/-- The cores that run a continuation of a context. -/
def State.coresOf (s : State) (asid : Nat) : List Nat :=
  (s.cores.filter fun p => p.2.running && p.2.cont.asid == asid).map (·.1)

/-- The continuation records of a context that no core runs. -/
def State.recsOf (s : State) (asid : Nat) : List Nat :=
  (s.ks.recs.filter fun p => p.1 / 2 ^ 24 == asid && (p.2.state == 1 || p.2.state == 3 || p.2.state == 4)).map (·.1)

/-- Stop a context after an asynchronous MEM_UE at `addr` (spec/15 R396); the issuing item is given by LREC, NODE
and WID, and has no record but that of KIND 4.  A context that is not OPEN keeps its state (notes/assumptions/66.md). -/
def State.stopContext (s : State) (asid addr lrec node wid : Nat) : State :=
  let s := s.errRecord asid 4 13 lrec node wid addr 0
  let s := if (s.ctx asid).held == 0 then s.setCtxState asid 1 else s
  let drop := fun (s : State) (k : Nat) =>
    let r := s.rec_ k
    if r.lrec == lrec && r.node == node && r.wid == wid then (s.endRec k false).countEnd asid lrec node false wid
    else s.failRec k 1 0 0 0
  let s := (s.coresOf asid).foldl (fun s c => drop (s.freeCore c) (recKey asid (s.core c).cont.recIdx)) s
  let s := (s.recsOf asid).foldl drop s
  let s := s.dropEngQ fun x => x.asid == asid
  let gs := (s.ks.graphs.filter fun g => g.asid == asid).map (·.lrec)
  let s := gs.foldl (fun s l => (s.onGraph asid l Graph.abandon).endGraph asid l) s
  s.msixAsid asid

end Sys2Proof.Machine
end

