-- ==== Sys2Proof/Machine/Suspend.lean ====
section
/-! DEFINITION. Suspending a continuation and readying it again: the record a suspension writes, the waits Keystone
watches, edge puts and held puts, and arms that wait for a tier (spec/08 R236 to R241; spec/13 R353, R355, R358,
R446). -/

namespace Sys2Proof.Machine

/-- Whether a node holds its reserve: until it has created its last instance and the one that uses it has ended. -/
def State.holdsReserve (s : State) (g : Graph) (i : Nat) : Bool :=
  (g.nst i).reserve < 2 ^ 24 && (!g.noMore g.ends i ||
    ((s.rec_ (recKey g.asid (g.nst i).reserve)).lrec == g.lrec && (s.rec_ (recKey g.asid (g.nst i).reserve)).node == i
      && Tab.has s.ks.recs (recKey g.asid (g.nst i).reserve)))

/-- Whether a record is the reserve of its node. -/
def State.isReserve (s : State) (k : Nat) (r : ContRec) : Bool :=
  match s.graph (k / 2 ^ 24) r.lrec with
  | some g => (g.nst r.node).reserve == k % 2 ^ 24
  | none => false

/-- Ready-pool entries of a tier in use: the reserved ones, and those of other READY continuations. -/
def State.readyUsed (s : State) (tier : Nat) : Nat :=
  (s.ks.recs.filter fun p => (p.2.state == 1 || p.2.state == 4) && p.2.tier == tier && !s.isReserve p.1 p.2).length
    + ((s.ks.graphs.filter fun g => g.tier == tier).map fun g => ((upTo g.nodes.length).filter (s.holdsReserve g)).length).foldl (· + ·) 0

/-- Insert in the order of `f`, and sort. -/
def insertBy {α : Type} (f : α → Nat) (x : α) : List α → List α
  | [] => [x]
  | y :: r => if f x ≤ f y then x :: y :: r else y :: insertBy f x r
def sortBy {α : Type} (f : α → Nat) (l : List α) : List α := l.foldr (insertBy f) []

/-- Group size of a node: 1, 4 or 16 (spec/13 R353). -/
def gangSize (node : Nat) : Nat := if bits node 5 4 == 1 then 4 else if bits node 5 4 == 2 then 16 else 1

/-- The group size of a record's node. -/
def State.recGang (s : State) (k : Nat) : Nat :=
  let r := s.rec_ k
  match s.graph (k / 2 ^ 24) r.lrec with
  | some g => gangSize (g.node r.node)
  | none => 1

/-- The records of a record's group that have not ended. -/
def State.recGroup (s : State) (k : Nat) : List Nat :=
  let r := s.rec_ k
  let z := s.recGang k
  if z == 1 then [k]
  else (s.ks.recs.filter fun p => p.1 / 2 ^ 24 == k / 2 ^ 24 && p.2.lrec == r.lrec && p.2.node == r.node
      && p.2.wid / z == r.wid / z && 1 ≤ p.2.state && p.2.state ≤ 4).map (·.1)

/-- Keystone's copy of STATE, WAIT, PRIO, AGE and LASTCORE to memory; a failure leaves the memory as it was. -/
def State.mirrorRec (s : State) (k : Nat) : State :=
  let r := s.rec_ k
  match s.kWrite (k / 2 ^ 24) (s.recAddr k) (bytesOf 8 (recWord0 r)) with
  | .error _ => s
  | .ok s1 => match s1.kWrite (k / 2 ^ 24) (s.recAddr k + 56) (bytesOf 8 (recWord7 (k / 2 ^ 24) r)) with
    | .error _ => s1
    | .ok s2 => s2

/-- Make one record READY at this moment. -/
def State.setReady (s : State) (k : Nat) : State :=
  let r := s.rec_ k
  let s := s.setRec k { r with state := 1, heldReady := false, readyAt := s.ks.order }
  { s with ks := { s.ks with order := s.ks.order + 1 } }.mirrorRec k

/-- Whether the ready pool of their tier has entries for records that become READY: a record that is its node's reserve
brings its own (spec/13 R349, R358). -/
def State.readyRoom (s : State) (l : List Nat) : Bool :=
  let other := l.filter fun k => !s.isReserve k (s.rec_ k)
  l.all fun k => s.readyUsed (s.rec_ k).tier + other.length ≤ 4096 || other.isEmpty

/-- A waiter's condition is met (spec/13 R353, R358): its continuation, or its group once every suspended member is held
ready, becomes READY when the ready pool has room, and is held ready until then. -/
def State.makeReady (s : State) (k : Nat) : State :=
  let s := s.setRec k { s.rec_ k with heldReady := true }
  let group := s.recGroup k
  let here := group.filter fun j => (s.rec_ j).state == 3
  if (group.all fun j => ((s.rec_ j).state == 3 && (s.rec_ j).heldReady) || (s.rec_ j).state == 1 || (s.rec_ j).state == 4) && s.readyRoom here
  then here.foldl State.setReady s else s

/-- What a monitor read of a waiting record finds (spec/13 R358): the cause of a failed read, or whether the wait is
over. -/
def State.waitOver (s : State) (k : Nat) : Except Nat Bool :=
  let r := s.rec_ k
  if r.wait == 1 then
    (if r.waitAddr == 0 then .ok true
     else match s.kRead (k / 2 ^ 24) r.waitAddr 8 with
       | .error c => .error c
       | .ok v => .ok (decide (r.waitVal ≤ v)))
  else if r.wait == 3 then
    match s.kRead (k / 2 ^ 24) r.waitAddr 8 with
    | .error c => .error c
    | .ok v => .ok (v / 2 ^ 63 % 2 != r.waitVal % 2)
  else .ok false

/-- The puts held for a record are dropped. -/
def Graph.dropHeld (g : Graph) (k : Nat) : Graph :=
  { g with edges := g.edges.map fun e => { e with held := e.held.filter fun h => h.1 != k } }

/-- A member of a gang group fails with another one, with what it had put (spec/13 R358). -/
def State.failMember (s : State) (k cause : Nat) : State :=
  let r := s.rec_ k
  let s := s.onGraph (k / 2 ^ 24) r.lrec fun g => g.dropHeld k
  if r.state == 2 then s.endFailed r.core 1 cause 0 0 else s.failRec k 1 cause 0 0

/-- Whether a suspended record waits for a word that the monitor reads (spec/13 R358). -/
def ContRec.watches (r : ContRec) : Bool := r.state == 3 && !r.heldReady && (r.wait == 3 || (r.wait == 1 && r.waitAddr != 0))

/-- One monitor read for a suspended record (spec/13 R358): a failed read ends every member of its group FAILED; a record
held ready goes on when the pool has room. -/
def State.monitor (s : State) (k : Nat) : State :=
  let r := s.rec_ k
  if r.state == 3 && !r.heldReady && (r.wait == 1 || r.wait == 3) then
    match s.waitOver k with
    | .error c => (s.recGroup k).foldl (fun s j => s.failMember j c) s
    | .ok true => s.makeReady k
    | .ok false => s
  else if r.state == 3 && r.heldReady then s.makeReady k
  else s

/-! ### The monitor's entries (spec/13 R358) -/

/-- Entries of the monitor. -/
def monEntries : Nat := 4096

/-- The semaphore of an ASID and an address. -/
def semName (asid va : Nat) : Nat := asid * 2 ^ 56 + va

/-- The semaphores of the registered dependences of a launch that have not been found to hold (spec/13 R346). -/
def Pending.watches (p : Pending) : List Nat :=
  if !p.reg then []
  else ((if p.dep0 || word64 p.copy 6 == 0 then [] else [semName p.asid (word64 p.copy 6)])
    ++ if p.dep1 || word64 p.copy 8 == 0 then [] else [semName p.asid (word64 p.copy 8)])

/-- The semaphores that have a waiter. -/
def State.awaited (s : State) : List Nat :=
  ((s.ks.recs.filter fun p => p.2.watches).map fun p => semName (p.1 / 2 ^ 24) p.2.waitAddr) ++ s.ks.pend.flatMap Pending.watches

/-- Forget the semaphores that have no waiter left. -/
def State.prune (s : State) : State :=
  { s with ks := { s.ks with mon := s.ks.mon.filter s.awaited.contains, overflow := s.ks.overflow.filter s.awaited.contains } }

/-- A waiter on a semaphore registers: it shares the entry that the semaphore has, or takes a free one, or the semaphore goes to the
end of the overflow list. -/
def State.enter (s : State) (sem : Nat) : State :=
  let s := s.prune
  if s.ks.mon.contains sem || s.ks.overflow.contains sem then s
  else if s.ks.mon.length < monEntries then { s with ks := { s.ks with mon := s.ks.mon ++ [sem] } }
  else { s with ks := { s.ks with overflow := s.ks.overflow ++ [sem] } }

/-- A suspended record registers after its state is written, with its first read. -/
def State.register (s : State) (k : Nat) : State :=
  (if (s.rec_ k).watches then s.enter (semName (k / 2 ^ 24) (s.rec_ k).waitAddr) else s).monitor k

/-- The edge that leaves a node on a port (spec/08 R239): its position in the graph. -/
def Graph.edgeAt (g : Graph) (node port : Nat) : Option Nat :=
  g.edges.findIdx? fun e => edgeSrc e.entry == node && edgePort e.entry == port

/-- Whether an edge has a free slot (spec/13 R355). -/
def EdgeSt.hasRoom (e : EdgeSt) : Bool := e.items.length < edgeSlots e.entry

/-- Append an item to an edge, which it enters at moment `now`. -/
def Graph.putItem (g : Graph) (i item now : Nat) : Graph :=
  { g with edges := g.edges.modify i fun e => { e with items := e.items ++ [item], times := e.times ++ [now] } }

/-- Put an item on an edge (spec/13 R355). -/
def State.putItem (s : State) (asid lrec i item : Nat) : State :=
  let s := s.onGraph asid lrec fun g => g.putItem i item s.ks.order
  { s with ks := { s.ks with order := s.ks.order + 1 } }

/-- Hold a put for a suspended producer (spec/13 R355). -/
def Graph.holdPut (g : Graph) (i k item : Nat) : Graph :=
  { g with edges := g.edges.modify i fun e => { e with held := e.held ++ [(k, item)] } }

/-- Held puts of an edge enter it in suspension order while slots last, and ready their producers (spec/13 R355): at
most `fuel` of them. -/
def State.drainHeld (s : State) (asid lrec i : Nat) : Nat → State
  | 0 => s
  | fuel + 1 =>
    match (s.graph asid lrec).bind fun g => g.edges[i]? with
    | none => s
    | some e => match e.held with
      | [] => s
      | (k, item) :: rest =>
        if e.hasRoom then
          let s := (s.onGraph asid lrec fun g => { g with edges := g.edges.set i { e with held := rest } }).putItem asid lrec i item
          State.drainHeld (s.makeReady k) asid lrec i fuel
        else s

/-- The offset of a stream's next clause from the kernel image base, 32 bits (spec/01 R15). -/
def Core.offset (c : Core) (k : Strm) : Nat := (c.strm k).pc.toNat + 2 ^ 64 - c.cont.base.toNat |>.mod (2 ^ 32)

/-- Suspend the continuation of core `c` (spec/08 R236; spec/13 R446): the record takes offsets, carries, WAIT and
LASTCORE, the core is freed, and Keystone registers what the item waits for.  Every access before it is performed at DEVICE. -/
def State.suspend (s : State) (c wait addr val port item : Nat) : State :=
  let x := s.core c
  let s := s.deviceRelease c (s.allSeen c)
  let k := recKey x.cont.asid x.cont.recIdx
  let r := s.rec_ k
  let offs := [x.offset .s, x.offset .a, x.offset .v, x.offset .m]
  let carry := [(x.xreg 0).toNat, (x.xreg 1).toNat, (x.xreg 2).toNat]
  let s := s.setRec k { r with state := if wait == 0 then 1 else 3, wait := wait, lastCore := c, waitAddr := addr, waitVal := val,
                               port := port, item := item, heldReady := false, readyAt := s.ks.order }
  let s := { s.freeCore c with ks := { s.ks with order := s.ks.order + 1 } }
  match s.writeRec k offs carry with
  | .error e => s.failRec k 1 e (s.recAddr k) 0
  | .ok s =>
    if wait == 0 then (s.setRec k { s.rec_ k with state := 3 }).makeReady k
    else if wait == 2 then
      match s.graph x.cont.asid x.cont.lrec with
      | none => s
      | some g => match g.edgeAt x.cont.node port with
        | none => s
        | some i => (s.onGraph x.cont.asid x.cont.lrec fun g => g.holdPut i k item).drainHeld x.cont.asid x.cont.lrec i 256
    else s.register k

/-- End the instance of core `c` as DONE (spec/08 R237; spec/13 R351). -/
def State.endDone (s : State) (c : Nat) : State :=
  let x := (s.core c).cont
  (((s.deviceRelease c (s.allSeen c)).freeCore c).endRec (recKey x.asid x.recIdx) true).countEnd x.asid x.lrec x.node true x.wid.toNat

/-- Arm the records whose LARMW waits for a slot of a tier, in suspension order, while slots last (spec/08 R241;
spec/13 R345), with the copy that LARMW read and checked (R340). -/
def State.armWaiting (s : State) : State :=
  let ws := (sortBy (fun p => p.2.readyAt) (s.ks.recs.filter fun p => p.2.state == 3 && p.2.wait == 4 && !p.2.heldReady)).map (·.1)
  ws.foldl (fun s k =>
    let r := s.rec_ k
    let asid := k / 2 ^ 24
    if s.tierFull (r.tier + 1) then s
    else if (s.lrec asid r.waitAddr).state != 0 then s.makeReady k
    else (s.arm asid r.waitAddr (r.tier + 1) r.waitVal false).makeReady k) s

end Sys2Proof.Machine
end

