-- ==== Sys2Proof/Machine/Record.lean ====
section
/-! DEFINITION. Record and replay (spec/14 R389 to R391): the buffer's header and entries in host memory, logging an event,
and enforcing the next entry. -/

namespace Sys2Proof.Machine

/-- A number in the record buffer. -/
def State.recWord (s : State) (off n : Nat) : Nat := ofBytes (Mem.bytes s.mem (hostKey s.xi.recPort (s.xi.recBuf + off)) n)

/-- Write into the record buffer; a port that is down carries nothing. -/
def State.recWrite (s : State) (off : Nat) (bs : List Byte) : State :=
  if s.down.contains s.xi.recPort then s else s.perform (cellsAt (hostKey s.xi.recPort (s.xi.recBuf + off)) bs)

/-- TAIL as the host last wrote it. -/
def State.recTail (s : State) : Nat := s.recWord 8 8

/-- Offset of entry `n`. -/
def State.recOff (s : State) (n : Nat) : Nat := 64 + 32 * (n % 2 ^ s.xi.recLog)

/-- Whether logged events wait: recording, and the buffer is full or its port is down. -/
def State.recFull (s : State) : Bool :=
  s.xi.recMode == 1 && (s.down.contains s.xi.recPort || 2 ^ s.xi.recLog ≤ (s.xi.recHead + 2 ^ 64 - s.recTail) % 2 ^ 64)

/-- Advance HEAD. -/
def State.recNext (s : State) : State :=
  let h := (s.xi.recHead + 1) % 2 ^ 64
  { s.recWrite 0 (bytesOf 8 h) with xi := { s.xi with recHead := h } }

/-- Stop recording or enforcing with ERR, and ERRAT at the present entry. -/
def State.recStop (s : State) (err : Nat) : State :=
  let s := (s.recWrite 16 (bytesOf 1 err)).recWrite 24 (bytesOf 8 s.xi.recHead)
  { s with xi := { s.xi with recMode := 0 } }

/-- A divergence (spec/14 R391). -/
def State.diverge (s : State) : State := (s.recStop 2).sendMsix (s.queue s.xi.recQueue).ctl

/-- Word 0 of an entry of KIND 1 to 6 (spec/14 R390). -/
def recPacket (q seq : Nat) : Nat := 1 + q * 2 ^ 8 + seq * 2 ^ 20
def recAdmit (asid i : Nat) : Nat := 2 + i * 2 ^ 8 + asid * 2 ^ 20
def recPlace (core asid i : Nat) : Nat := 3 + core * 2 ^ 8 + asid * 2 ^ 16 + i * 2 ^ 26
def recPreempt (core asid i : Nat) : Nat := 4 + core * 2 ^ 8 + asid * 2 ^ 16 + i * 2 ^ 26
def recAdd (eng : Nat) : Nat := 5 + eng * 2 ^ 8
def recFold (core asid : Nat) : Nat := 6 + core * 2 ^ 8 + asid * 2 ^ 16

/-- Whether a recording is enforced. -/
def State.replaying (s : State) : Bool := s.xi.recMode == 2

/-- Word `k` of the entry to enforce next. -/
def State.recEntry (s : State) (k : Nat) : Nat := s.recWord (s.recOff s.xi.recHead + 8 * k) 8

/-- KIND of the entry to enforce next. -/
def State.recKind (s : State) : Nat := s.recEntry 0 % 256

/-- The dispatch round of an entry: rounds count from the REC packet (notes/assumptions/46.md). -/
def State.recRound (s : State) : Nat := (s.ks.round + 2 ^ 64 - s.xi.recBase) % 2 ^ 64

/-- Whether the buffer has room for `n` more entries: a device that records writes none beyond it (spec/14 R389). -/
def State.recRoom (s : State) (n : Nat) : Bool :=
  s.xi.recMode != 1 || (!s.down.contains s.xi.recPort && (s.xi.recHead + 2 ^ 64 - s.recTail) % 2 ^ 64 + n ≤ 2 ^ s.xi.recLog)

/-- Whether events with these first words may take effect together: there is room for them, and a recording names them next, as
far as it goes (spec/14 R389 to R391). -/
def State.recNames (s : State) (ws : List (List Nat)) : Bool :=
  s.recRoom ws.length && (!s.replaying || ws.zipIdx.all fun x =>
    (x.2 != 0 && s.recTail ≤ s.xi.recHead + x.2)
      || x.1.zipIdx.all fun w => s.recWord (s.recOff (s.xi.recHead + x.2) + 8 * w.2) 8 == w.1)

/-- Whether placements or pre-emptions with these words 0 may take effect together in this round. -/
def State.recMatches (s : State) (ws : List Nat) : Bool := s.recNames (ws.map fun w => [w, s.recRound])

/-- Whether the entry to enforce next is a placement or a pre-emption that can no longer be: of a round that is over, or on a core
that is not enabled (spec/14 R391). -/
def State.recStale (s : State) : Bool :=
  s.replaying && (s.recKind == 3 || s.recKind == 4)
    && (s.recEntry 1 < s.recRound || 144 ≤ bits (s.recEntry 0) 15 8 || !(s.core (bits (s.recEntry 0) 15 8)).enabled)

/-- An event takes effect: it is logged, or the entry that named it has been enforced, and a replay that has reached TAIL
ends with ERR 3. -/
def State.recEvent (s : State) (w0 w1 w2 w3 : Nat) : State :=
  if s.xi.recMode == 1 then
    (s.recWrite (s.recOff s.xi.recHead) (bytesOf 8 w0 ++ bytesOf 8 w1 ++ bytesOf 8 w2 ++ bytesOf 8 w3)).recNext
  else if s.replaying then
    let s := s.recNext
    if s.xi.recHead == s.recTail then s.recStop 3 else s
  else s

/-- Whether an event with this word 0 may take effect now: the buffer has room, and a recording names it next. -/
def State.recAllows (s : State) (w0 : Nat) : Bool := !s.recFull && (!s.replaying || s.recEntry 0 == w0)

/-- The entry of a near-memory add that engine `n` applies (spec/14 R390). -/
def Add.entry (a : Add) (n : Nat) : List Nat := [recAdd n, a.wid, a.source, a.seqNo]

/-- Whether a near-memory add of engine `n` may be applied now (spec/14 R390, R391). -/
def State.addAllowed (s : State) (n : Nat) (a : Add) : Bool := s.recNames [a.entry n]

/-- Whether a fold report of core `c` waits for room or for its turn. -/
def State.foldWaits (s : State) (c : Nat) : Bool := !s.recAllows (recFold c (s.core c).cont.asid)

/-- A fold report takes effect: a report that differs from its entry is a divergence. -/
def State.foldEvent (s : State) (c w0 : Nat) : State :=
  if s.replaying && s.recEntry 1 != w0 then s.diverge
  else s.recEvent (recFold c (s.core c).cont.asid) w0 0 0

end Sys2Proof.Machine
end

