-- ==== Sys2Proof/Machine/Roles.lean ====
section
/-! DEFINITION. What the fields of each stream instruction name: sources with their register files, the file of the
result, the registers written, and the properties the clause rules ask for (spec/03 R68 to R76; spec/06 R168; spec/07
R193; spec/08 R221). -/

namespace Sys2Proof.Machine

/-- The files a field or a result belongs to; `sys` numbers the registers of spec/08 R232. -/
inductive File where
  | s | a | x | v | m | t | c | d | q | sys
  deriving DecidableEq, Repr, Inhabited

/-- Sources that may name a latch or a stream register, with the file that a latch must hold. -/
def insSrcs : Instr → List (Src × File)
  | .add f | .sub f | .mul f | .mulh f | .div f | .rem f | .and f | .or f | .xor f | .andn f | .shl f | .shr f | .shra f | .rot f
  | .min f | .max f | .seteq f | .setlt f | .setltu f | .bext f | .bextu f | .bins f | .fshl f | .fshr f | .lpatch f | .eput f
  | .wfe f => [(f.a, .s), (f.b, .s)]
  | .popc f | .clz f | .ctz f | .brev f | .unbind f | .larm f | .larmw f | .xmovSToX f => [(f.a, .s)]
  | .addi f | .andi f | .ori f | .xori f | .mini f | .maxi f | .seteqi f | .setlti f | .setltui f | .jr f => [(f.a, .s)]
  | .shli f | .shri f | .shrai f | .roti f => [(f.a, .s)]
  | .beq f | .bne f | .blt f | .bge f | .bltu f | .bgeu f => [(f.a, .s), (f.c, .s)]
  | .xmovXToS f | .xmovXToA f | .vmovxToV f | .mmode f => [(f.a, .x)]
  | .ld f => [(f.a, .s)]
  | .st f => [(f.a, .s), (f.c, .s)]
  | .lda f => [(f.a, .s)]
  | .strel f => [(f.a, .s), (f.c, .s)]
  | .cas f => [(f.a, .s), (f.b, .s)]
  | .amo f => [(f.a, .s), (f.b, .s)]
  | .nadd f => [(f.a, .s), (f.c, .s)]
  | .bind f => [(f.a, .s)]
  | .acq f | .rel f => [(f.a, .s)]
  | .eputW f | .susp f | .suspBar f => [(f.a, .s), (f.b, .s)]
  | .eretRun f => [(f.a, .s), (f.b, .s)]
  | .syswr f => [(f.c, .s)]
  | .aadd f | .asub f | .amul f | .ashl f | .ashr f | .aand f | .aor f | .amin f | .amax f | .crcget f => [(f.a, .a), (f.b, .a)]
  | .aaddi f | .amuli f | .aandi f | .aori f | .amini f | .amaxi f => [(f.a, .a)]
  | .ashli f | .ashri f => [(f.a, .a)]
  | .abr f => [(f.a, .a), (f.c, .a)]
  | .xmovAToX f => [(f.a, .a)]
  | .tdmake f => [(f.a, .a)]
  | .tdinfo f => [(f.b, .a)]
  | .qbind f => [(f.b, .a)]
  | .cwait f => [(f.a, .a)]
  | .barinit f => [(f.a, .a), (f.b, .a)]
  | .bararrive f => [(f.a, .a), (f.b, .a)]
  | .barwait f => [(f.a, .a), (f.b, .a)]
  | .vadd f | .vsub f | .vmul f | .vfma f | .vdiv f | .vmin f | .vmax f | .vand f | .vor f | .vxor f | .vshl f | .vshr f =>
    [(f.a, .v), (f.b, .v)]
  | .vcmp f => [(f.a, .v), (f.b, .v)]
  | .vsel f => [(f.a, .v), (f.b, .v)]
  | .vmov f | .vneg f | .vabs f | .vsqrt f | .vexp2 f | .vlog2 f | .vrcp f | .vrsqrt f | .vtanh f | .vsigm f => [(f.a, .v)]
  | .vcvt f => [(f.a, .v)]
  | .vquant f => [(f.a, .v)]
  | .vbcast f => [(f.a, .v), (f.b, .v)]
  | .viota f | .vcoal f => [(f.a, .v)]
  | .vrsum f | .vrmax f | .vrmin f => [(f.a, .v)]
  | .vcompress f | .vexpand f => [(f.a, .v), (f.b, .m)]
  | .vcat f => [(f.a, .v), (f.b, .v)]
  | .vslice f | .vextend f => [(f.a, .v), (f.b, .x)]
  | .vruns f | .vlen f => [(f.a, if f.b then .m else .v)]
  | .vspill f | .vsts f => [(f.a, .v), (f.b, .x)]
  | .vfill f => [(f.b, .x)]
  | .vlds f => [(f.b, .x)]
  | .vgather f => [(f.a, .v), (f.b, .x)]
  | .vscatter f => [(f.a, .v), (f.b, .x)]
  | .vmovxToX f => [(f.a, .v)]
  | .mand f | .mor f | .mxor f => [(f.a, .m), (f.b, .m)]
  | .mnot f | .mpopc f => [(f.a, .m)]
  | .mshape f | .cshape f => [(f.a, .x)]
  | .mma f => [(f.a, .t), (f.b, .x)]
  | .mnest f => [(f.a, .x)]
  | .maccScl f => [(f.b, .x)]
  | .loopReg f => [(f.s, .x)]
  | _ => []

/-- The register file of an instruction's result, if it has one. -/
def insResult : Instr → Option File
  | .add _ | .sub _ | .mul _ | .mulh _ | .div _ | .rem _ | .and _ | .or _ | .xor _ | .andn _ | .shl _ | .shr _ | .shra _ | .rot _
  | .min _ | .max _ | .seteq _ | .setlt _ | .setltu _ | .bext _ | .bextu _ | .bins _ | .fshl _ | .fshr _ | .lpatch _ | .eput _
  | .wfe _ | .popc _ | .clz _ | .ctz _ | .brev _ | .unbind _ | .larm _ | .larmw _ | .addi _ | .andi _ | .ori _ | .xori _ | .mini _
  | .maxi _ | .seteqi _ | .setlti _ | .setltui _ | .jr _ | .shli _ | .shri _ | .shrai _ | .roti _ | .movhi _ | .jal _ | .xmovXToS _
  | .ld _ | .lda _ | .cas _ | .amo _ | .bind _ | .yield _ | .wid _ | .eretRun _ | .sysrd _ => some .s
  | .aadd _ | .asub _ | .amul _ | .ashl _ | .ashr _ | .aand _ | .aor _ | .amin _ | .amax _ | .crcget _ | .aaddi _ | .amuli _ | .aandi _
  | .aori _ | .amini _ | .amaxi _ | .ashli _ | .ashri _ | .xmovXToA _ | .tdinfo _ | .qpos _ | .tcopy _ | .tcopyTile _ | .cstage _
  | .bararrive _ => some .a
  | .xmovSToX _ | .xmovAToX _ | .vruns _ | .vlen _ | .vmovxToX _ | .mpopc _ | .mrpt _ | .mmode _ | .mtest _ => some .x
  | .vadd _ | .vsub _ | .vmul _ | .vfma _ | .vdiv _ | .vmin _ | .vmax _ | .vand _ | .vor _ | .vxor _ | .vshl _ | .vshr _ | .vsel _
  | .vmov _ | .vneg _ | .vabs _ | .vsqrt _ | .vexp2 _ | .vlog2 _ | .vrcp _ | .vrsqrt _ | .vtanh _ | .vsigm _ | .vcvt _ | .vquant _
  | .vbcast _ | .viota _ | .vcoal _ | .vrsum _ | .vrmax _ | .vrmin _ | .vcompress _ | .vexpand _ | .vcat _ | .vslice _ | .vextend _
  | .vfill _ | .vlds _ | .vgather _ | .vmovxToV _ => some .v
  | .vcmp _ | .mand _ | .mor _ | .mxor _ | .mnot _ => some .m
  | _ => none

/-- One register unless W = 1. -/
def reg1 (f : File) (d : Nat) (w : Bool) : List (File × Nat) := if w then [] else [(f, d)]

/-- The registers and exclusive system state an instruction writes (spec/03 R72). -/
def insDests : Instr → List (File × Nat)
  | .add f | .sub f | .mul f | .mulh f | .div f | .rem f | .and f | .or f | .xor f | .andn f | .shl f | .shr f | .shra f | .rot f
  | .min f | .max f | .seteq f | .setlt f | .setltu f | .bext f | .bextu f | .bins f | .fshl f | .fshr f | .lpatch f | .eput f
  | .wfe f => reg1 .s f.d f.w
  | .popc f | .clz f | .ctz f | .brev f | .unbind f | .larm f | .larmw f | .xmovXToS f => reg1 .s f.d f.w
  | .addi f | .andi f | .ori f | .xori f | .mini f | .maxi f | .seteqi f | .setlti f | .setltui f | .jr f => reg1 .s f.d f.w
  | .shli f | .shri f | .shrai f | .roti f => reg1 .s f.d f.w
  | .movhi f | .jal f => reg1 .s f.d f.w
  | .ld f => reg1 .s f.d f.w
  | .lda f => reg1 .s f.d f.w
  | .cas f => reg1 .s f.d f.w
  | .amo f => reg1 .s f.d f.w
  | .bind f => reg1 .s f.d f.w
  | .yield f => reg1 .s f.d f.w
  | .wid f | .sysrd f => reg1 .s f.d f.w
  | .eretRun f => reg1 .s f.d f.w
  | .syswr f => [(.sys, f.n)]
  | .aadd f | .asub f | .amul f | .ashl f | .ashr f | .aand f | .aor f | .amin f | .amax f | .crcget f => reg1 .a f.d f.w
  | .aaddi f | .amuli f | .aandi f | .aori f | .amini f | .amaxi f => reg1 .a f.d f.w
  | .ashli f | .ashri f => reg1 .a f.d f.w
  | .xmovXToA f => reg1 .a f.d f.w
  | .tdinfo f => reg1 .a f.d f.w
  | .qpos f => reg1 .a f.d f.w
  | .tcopy f => [(.a, f.d)]
  | .tcopyTile f => [(.a, f.d)]
  | .cstage f => reg1 .a f.d f.w
  | .bararrive f => reg1 .a f.d f.w
  | .xmovSToX f | .xmovAToX f | .vmovxToX f | .mpopc f | .mmode f => reg1 .x f.d f.w
  | .vruns f | .vlen f => reg1 .x f.d f.w
  | .mrpt f => reg1 .x f.d f.w
  | .mtest f => reg1 .x f.d f.w
  | .tdmake f => [(.d, f.d)]
  | .tld f => [(.t, f.d)]
  | .vld f => [(.v, f.d)]
  | .qbind f => [(.q, f.d)]
  | .qunbind f => [(.q, f.d)]
  | .vadd f | .vsub f | .vmul f | .vfma f | .vdiv f | .vmin f | .vmax f | .vand f | .vor f | .vxor f | .vshl f | .vshr f => reg1 .v f.d f.w
  | .vcmp f => reg1 .m f.d f.w
  | .vsel f => reg1 .v f.d f.w
  | .vmov f | .vneg f | .vabs f | .vsqrt f | .vexp2 f | .vlog2 f | .vrcp f | .vrsqrt f | .vtanh f | .vsigm f => reg1 .v f.d f.w
  | .vcvt f => reg1 .v f.d f.w
  | .vquant f => [(.v, f.d), (.v, f.d + 1)]
  | .vbcast f => reg1 .v f.d f.w
  | .viota f | .vcoal f => reg1 .v f.d f.w
  | .vrsum f | .vrmax f | .vrmin f => reg1 .v f.d f.w
  | .vcompress f | .vexpand f | .vcat f => reg1 .v f.d f.w
  | .vslice f | .vextend f => reg1 .v f.d f.w
  | .vfill f => reg1 .v f.d f.w
  | .vlds f => reg1 .v f.d f.w
  | .vgather f => reg1 .v f.d f.w
  | .vmovxToV f => reg1 .v f.d f.w
  | .mand f | .mor f | .mxor f => reg1 .m f.d f.w
  | .mnot f => reg1 .m f.d f.w
  | .mshape f => [(.t, f.d)]
  | .cshape f => [(.c, f.d)]
  | .mzeroC f => [(.c, f.d)]
  | .mzeroT f => [(.t, f.d)]
  | .mma f => [(.c, f.d)]
  | .mgo f => [(.c, f.d)]
  | .maccCvt f | .maccRelu f => [(.t, f.d)]
  | .maccAdd f | .maccLd f => [(.c, f.d)]
  | .maccScl f => [(.c, f.d)]
  | _ => []

/-- A source register that a mark frees at the commit (spec/06 R166). -/
def free1 (f : File) (on : Bool) (x : Src) : List (File × Nat) :=
  match on, x with
  | true, .reg n => [(f, n)]
  | _, _ => []

/-- The registers whose marks an instruction sets (spec/06 R166). -/
def insFrees : Instr → List (File × Nat)
  | .vadd f | .vsub f | .vmul f | .vfma f | .vdiv f | .vmin f | .vmax f | .vand f | .vor f | .vxor f | .vshl f | .vshr f =>
    free1 .v f.l f.a ++ free1 .v f.k f.b
  | .vcmp f => free1 .v f.l f.a ++ free1 .v f.k f.b
  | .vsel f => free1 .v f.l f.a ++ free1 .v f.k f.b
  | .vmov f | .vneg f | .vabs f | .vsqrt f | .vexp2 f | .vlog2 f | .vrcp f | .vrsqrt f | .vtanh f | .vsigm f => free1 .v f.l f.a
  | .vcvt f => free1 .v f.l f.a
  | .vquant f => free1 .v f.l f.a
  | .vbcast f => free1 .v f.l f.a ++ free1 .v f.k f.b
  | .viota f | .vcoal f => free1 .v f.l f.a
  | .vrsum f | .vrmax f | .vrmin f => free1 .v f.l f.a
  | .vcompress f | .vexpand f => free1 .v f.l f.a ++ free1 .m f.k f.b
  | .vcat f => free1 .v f.l f.a ++ free1 .v f.k f.b
  | .vslice f | .vextend f => free1 .v f.l f.a
  | .vspill f | .vsts f => free1 .v f.l f.a
  | .vgather f => free1 .v f.l f.a
  | .vscatter f => free1 .v f.l f.a
  | _ => []

/-- The suspension points (spec/08 R236). -/
def isSusp : Instr → Bool
  | .susp _ | .suspBar _ | .suspEnd _ | .yield _ | .eputW _ | .larmw _ => true
  | _ => false

/-- Whether an instruction lets every write before it in core order be performed first (spec/04 R114, R117; spec/05 R152;
spec/08 R236, R239, R241). -/
def isRelease : Instr → Bool
  | .fence _ | .strel _ | .rel _ | .eput _ | .larm _ | .bararrive _ => true
  | i => isSusp i

/-- The redirecting instructions (spec/03 R73). -/
def redirects : Instr → Bool
  | .beq _ | .bne _ | .blt _ | .bge _ | .bltu _ | .bgeu _ | .jmp _ | .jal _ | .jr _ | .loopImm _ | .loopReg _ | .trap _ | .eret _
  | .eretRun _ | .eretFail _ | .abr _ => true
  | i => isSusp i

/-- The resumable instructions (spec/03 R76). -/
def resumable : Instr → Bool
  | .mma _ | .mnest _ | .mgo _ | .vcompress _ | .tcopy _ | .tcopyTile _ => true
  | _ => false

/-- The TK words (spec/03 R77). -/
def isTk : Instr → Bool
  | .tkgive _ | .tktake _ => true
  | _ => false

/-- The LOOP words. -/
def isLoop : Instr → Bool
  | .loopImm _ | .loopReg _ => true
  | _ => false

/-- The file a LOOP count or a source belongs to in stream `k`. -/
def fileIn (k : Strm) (i : Instr) (f : File) : File :=
  if isLoop i then (match k with
    | .s => .s
    | .a => .a
    | _ => .x) else f

end Sys2Proof.Machine
end

