-- ==== Sys2Proof/Machine/Races.lean ====
section
/-! DEFINITION. What a clause reads (spec/03 R72), and registers that two streams reach without a token path between them
(spec/01 R20): every write of an x, v or t register is remembered until each other stream has taken a token that comes after
it; until then a read or a write by that stream meets, element by element, either value. -/

namespace Sys2Proof.Machine

/-! ### Runs as elements -/

/-- Put a run before a list, joining an equal first run whose count leaves room. -/
def Run.cons (r : Run) : List Run → List Run
  | [] => [r]
  | x :: xs => if x.val == r.val && x.cnt + r.cnt ≤ 65535 then { val := r.val, cnt := r.cnt + x.cnt } :: xs else r :: x :: xs

/-- Adjacent runs of equal value become one (spec/06 R163). -/
def mergeRuns (l : List Run) : List Run := l.foldr Run.cons []

/-- The maximal runs of a list of codes. -/
def maxRuns (codes : List Nat) : List Run := mergeRuns (codes.map fun x => { val := x, cnt := 1 })

/-- The element codes of a run list. -/
def flatRuns (l : List Run) : List Nat := l.flatMap fun r => List.replicate r.cnt r.val

/-- A register of given tag and codes. -/
def VReg.ofCodes (tag : Nat) (codes : List Nat) : VReg := { tag := tag, runs := maxRuns codes }

/-- The codes of a register. -/
def VReg.codes (r : VReg) : List Nat := flatRuns r.runs

/-! ### Either value, element by element -/

/-- Numbers past every element: the tag or shape, the length, the first validity bit, the first scale byte. -/
def pickTag : Nat := 2 ^ 40
def pickLen : Nat := 2 ^ 40 + 1
def pickValid : Nat := 2 ^ 40 + 2
def pickScale : Nat := 2 ^ 41

/-- A vector register of which `pick` keeps some elements from `old`.  Under a tag of the other value an element is cut to the
tag's width. -/
def mixVec (old new : VReg) (pick : Nat → Bool) : VReg :=
  let base := if pick pickLen then old else new
  let other := if pick pickLen then new else old
  let tag := if pick pickTag then old.tag else new.tag
  let cut := fun (x : Nat) => if old.tag == new.tag then x else x % 2 ^ tagBits tag
  let codes := base.codes.zipIdx.map fun x => cut ((if pick x.2 == pick pickLen then none else other.codes[x.2]?).getD x.1)
  { tag := tag, runs := if codes == base.codes then base.runs else maxRuns codes }

/-- The number of the element that holds nibble `h` of byte `o` of a unit of shape `w`. -/
def nibElem (w : Word) (o h : Nat) : Nat :=
  let n := tagBits (tFmt w)
  if tRows w * tRowb w ≤ o then pickScale + o else if n == 4 then 2 * o + h else o / (n / 8)

/-- A byte whose nibbles come from `a` where `keep` says so, else from `b`. -/
def mixByte (a b : Byte) (keep : Nat → Bool) : Byte :=
  BitVec.ofNat 8 ((if keep 0 then a else b).toNat % 16 + (if keep 1 then a else b).toNat / 16 * 16)

/-- The bytes of a unit, `keep o h` saying whether nibble `h` of byte `o` comes from `a`. -/
def mixUnit (a b : Mem) (keep : Nat → Nat → Bool) : Mem :=
  (a ++ b).foldl (fun m c => Mem.write m c.1 (mixByte (Mem.read a c.1) (Mem.read b c.1) (keep c.1))) []

/-- A tile of which `pick` keeps some elements from `old`. -/
def mixTile (old new : Tile) (pick : Nat → Bool) : Tile :=
  { shape := if pick pickTag then old.shape else new.shape
    valid := if old.valid == new.valid then new.valid else BitVec.ofNat 256 ((upTo 256).foldl (fun a i =>
      if (if pick (pickValid + i) then old.valid else new.valid).getLsbD i then a + 2 ^ i else a) 0)
    data := mixUnit old.data new.data fun o h => pick (nibElem new.shape o h) }

/-- A tile that a clause wrote, `base` being what it read, put over what the tile holds now: what the clause left alone
keeps what others have written since. -/
def overTile (base now new : Tile) : Tile :=
  if base == now then new
  else
    { shape := if new.shape == base.shape then now.shape else new.shape
      valid := (new.valid &&& (new.valid ^^^ base.valid)) ||| (now.valid &&& ~~~(new.valid ^^^ base.valid))
      data := mixUnit new.data now.data fun o h =>
        let at_ := fun (m : Mem) => (Mem.read m o).toNat / 16 ^ h % 16
        at_ new.data != at_ base.data }

/-! ### Registers that race -/

/-- A number for the register an effect writes: x, then v, then t. -/
def Eff.race : Eff → Option Nat
  | .xreg n _ => some n
  | .vreg n _ => some (8 + n)
  | .tile n _ => some (40 + n)
  | _ => none

/-- The present value of the register an effect writes, as an effect. -/
def Regs.now (r : Regs) : Eff → Eff
  | .xreg n _ => .xreg n (vget r.x n 0)
  | .vreg n _ => .vreg n (vget r.v n {})
  | .tile n _ => .tile n (vget r.t n {})
  | e => e

/-- Write the register of an effect. -/
def Regs.put (r : Regs) : Eff → Regs
  | .xreg n v => { r with x := vset r.x n v }
  | .vreg n v => { r with v := vset r.v n v }
  | .tile n t => { r with t := vset r.t n t }
  | _ => r

/-- Either of two values of one register; `bytes` where a tile's are picked byte by byte, as a copy writes them (spec/05 R146). -/
def mixEff (bytes : Bool) (old new : Eff) (pick : Nat → Bool) : Eff :=
  match old, new with
  | .xreg n a, .xreg _ b => .xreg n (if pick 0 then a else b)
  | .vreg n a, .vreg _ b => .vreg n (mixVec a b pick)
  | .tile n a, .tile _ b => .tile n (if bytes then { b with data := mixUnit a.data b.data fun o _ => pick (pickScale + o) } else mixTile a b pick)
  | _, e => e

/-- The stream that takes from a FIFO. -/
def fifoTo (f : Nat) : Nat := if f % 3 < f / 3 then f % 3 else f % 3 + 1

/-- Whether stream `k` comes after a write: its own, settled, or it has taken a token given after it. -/
def Past.known (p : Past) (t : Tokens) (k : Strm) : Bool :=
  p.by_ == some k || bit p.seen k.idx || p.first.any fun x => fifoTo x.1 == k.idx && x.2 ≤ vget t.took x.1 0

/-- The registers as stream `k` finds them at a clause's start: for every write that it does not come after, newest first,
either value. -/
def Core.regsFor (c : Core) (k : Strm) (i : Nat) : Regs :=
  if c.trap.super then c.regs
  else ((c.past.filter fun p => !p.known c.tok k).reverse.zipIdx).foldl (fun r p =>
    r.put (mixEff p.1.by_.isNone p.1.old (r.now p.1.old) (Config.raceOld (i + 4096 * p.2) (p.1.old.race.getD 0)))) c.regs

/-- What a clause of stream `k` that issues now reads. -/
def Core.snapFor (c : Core) (k : Strm) (i : Nat) (binds : Tab (BitVec 256)) : Snap :=
  { regs := c.regsFor k i, rcap := c.rcap, ctl := (c.strm k).ctl, seed := (c.strm k).seed, binds := binds }

/-- Write an x, v or t register at a commit of stream `k`: over a write that `k` does not come after, either value stays. -/
def Core.putReg (c : Core) (k : Strm) (i : Nat) (e : Eff) : Core :=
  if c.trap.super then { c with regs := c.regs.put e }
  else
    let mine := fun (p : Past) => p.old.race == e.race
    let v := if c.past.any fun p => mine p && !p.known c.tok k then
        mixEff false (c.regs.now e) e (Config.raceOld i (100 + e.race.getD 0)) else e
    { c with regs := c.regs.put v
             past := (c.past.map fun p => if mine p then { p with seen := p.seen ||| 2 ^ k.idx } else p)
                       ++ [{ old := c.regs.now e, by_ := some k }] }

/-- Transfer `ident` of channel `ch` writes tile `n`: what the tile held before its first write is remembered (spec/05 R146). -/
def Core.copyPast (c : Core) (n ch ident : Nat) : Core :=
  if c.past.any fun p => p.by_.isNone && p.copy == (ch, ident) then c
  else { c with past := c.past ++ [{ old := .tile n (c.tile n), by_ := none, copy := (ch, ident) }] }

/-- Stream `k` comes after the transfers of channel `ch` that `p` selects. -/
def Core.copiesKnown (c : Core) (k : Strm) (ch : Nat) (p : Nat → Bool) : Core :=
  { c with past := c.past.map fun x => if x.by_.isNone && x.copy.1 == ch && p x.copy.2 then { x with seen := x.seen ||| 2 ^ k.idx } else x }

/-- Tokens that a commit of stream `k` gives come after every write that `k` comes after; a write that all streams come
after is forgotten. -/
def Core.stamp (c : Core) (k : Strm) (gives : List Nat) : Core :=
  let past := c.past.map fun p => if p.known c.tok k then
      { p with first := gives.foldl (fun t f => if Tab.has t f then t else Tab.set t f (vget c.tok.took f 0 + vget c.tok.count f 0 + 1)) p.first } else p
  { c with past := past.filter fun p => [Strm.s, .a, .v, .m].any fun j => !p.known c.tok j }

end Sys2Proof.Machine
end

