-- ==== Sys2Proof/Machine/Sync.lean ====
section
/-! DEFINITION. Writes of agents as other agents come to see them (spec/04 R114 to R118; spec/05 R145, R151 to R153; spec/11 R305 to
R309): writes with the releases they carry, what an operation covers, acquires and fences. -/

namespace Sys2Proof.Machine

/-! ### Coverage (spec/04 R118) -/

/-- The striped physical address of a DRAM location (spec/12 R318). -/
def unstriped (loc : Nat) : Nat :=
  let row := rowOf loc
  let up := fun (lo n : Nat) => row / 2 ^ lo % 2 ^ n
  row * 2 ^ 23 + bits loc 9 8 * 2 ^ 21 + (bits loc 11 10 ^^^ up 11 2) * 2 ^ 19 + (bits loc 13 12 ^^^ up 9 2) * 2 ^ 17
    + (bits loc 14 14 ^^^ up 8 1) * 2 ^ 16 + (bits loc 19 15 ^^^ up 3 5) * 2 ^ 11 + (bits loc 22 20 ^^^ up 0 3) * 2 ^ 8
    + bits loc 7 0

/-- Whether a binding entry is in force. -/
def bindLive (e : BitVec 256) : Bool := e.getLsbD 196 && bits e.toNat 195 192 ≤ 10 && bits e.toNat 2 0 == 0

/-- The leaf pages under a page table, from entry `va` of the range up: their addresses, physical addresses and sizes in bits. -/
def State.leaves (s : State) (table va : Nat) : List Nat → List (Nat × Nat × Nat)
  | [] => []
  | level :: rest =>
    (upTo (if level == 4 then 256 else 512)).flatMap fun i =>
      let e := s.physNow (table + 8 * i) 8
      let base := va + i * 2 ^ pageBits level
      if !bit e 0 || pteBad level e then []
      else if bit e 1 then [(base, bits e 39 12 * 4096, pageBits level)]
      else State.leaves s (bits e 39 12 * 4096) base rest

/-- The addresses through which range entry `e` of a context may reach the byte at `key`. -/
def State.vasUnder (s : State) (asid e key : Nat) : List Nat :=
  let a := if key < 2 ^ 39 then (if bit e 7 then key else unstriped key) else if key < 2 ^ 80 then key % 2 ^ 64
    else if bit e 7 then key % 2 ^ 40 else unstriped (key % 2 ^ 40)
  if bit e 6 then
    (s.leaves (s.physNow ((s.ctx asid).base + 0x18) 8 / 4096 * 4096 % 2 ^ 39) 0 [4, 3, 2, 1, 0]).filterMap fun p =>
      if p.2.1 ≤ a && a < p.2.1 + 2 ^ p.2.2 then some (p.1 + (a - p.2.1)) else none
  else [(a + 2 ^ 64 - bits e 191 128) % 2 ^ 64]

/-- Whether one of some ranges of a context's addresses holds the byte at `key`. -/
def State.rangesHold (s : State) (w : Who) (rs : List (Nat × Nat)) (key : Nat) : Bool :=
  if bankKey key == some (scratchKey w.core 0 / 2 ^ 23) then
    rs.any fun r => r.1 ≤ 0xFF * 2 ^ 48 + key % 2 ^ 23 && 0xFF * 2 ^ 48 + key % 2 ^ 23 < r.1 + r.2
  else
    (upTo 256).any fun i =>
      let e := s.physNow (s.xlBase w.asid + 32 * i) 32
      rangeValid e && (s.vasUnder w.asid e key).any fun va =>
        rs.any (fun r => r.1 ≤ va && va < r.1 + r.2) && (match s.xlate { w with super := true } va .read with
          | .ok l => l.key == key
          | .error _ => false)

/-- What an acquire or a release of the object at `va` covers under a binding table. -/
def coverOf (table : Tab (BitVec 256)) (scope : Nat) (all : Bool) (va : Nat) : Cover :=
  if all then [(scope, none)]
  else (scope, some [(va, 8)]) :: ((table.filter fun e => bindLive e.2 && bits e.2.toNat 63 0 == va).map fun e =>
    (scopeLub scope (bits e.2.toNat 195 192), some [(bits e.2.toNat 127 64, bits e.2.toNat 191 128)]))

/-- The part of a view that lies in some ranges. -/
def State.within (s : State) (w : Who) (v : View) (rs : Option (List (Nat × Nat))) : View :=
  match rs with
  | none => v
  | some l => v.only s.hist (s.rangesHold w l)

/-- The releases of an agent that hands on view `v`. -/
def State.releases (s : State) (w : Who) (agent : Nat) (v : View) (cover : Cover) : List Rel :=
  if s.hist.isEmpty then [] else cover.map fun c => { by_ := agent, scope := c.1, view := s.within w v c.2 }

/-! ### Sights of streams -/

/-- The streams of a core see the same from now on: at a trap and its return, when `n` writes have been made. -/
def Core.meetSights (c : Core) (n : Nat) : Core :=
  let g := ((c.ss.sight.join c.sa.sight).join c.sv.sight).join c.sm.sight
  [Strm.s, .a, .v, .m].foldl (fun c k => c.onStrm k fun t => { t with sight := { g with since := n } }) c

/-- A core that begins: its continuation comes after what its dispatch acquires (spec/08 R236; spec/11 R307;
notes/assumptions/3.md). -/
def Core.freshSights (c : Core) (g : Sight) : Core :=
  let c := [Strm.s, .a, .v, .m].foldl (fun c k => c.onStrm k fun t => { t with sight := g }) c
  { c with
    tok := { c.tok with sights := Vector.ofFn fun i => List.replicate (vget c.tok.count i.val 0 + vget c.tok.held i.val 0) g }
    regs := { c.regs with q := c.regs.q.map fun q => { q with sight := g } }
    copy := { c.copy with ch := c.copy.ch.map fun h => { h with queue := h.queue.map fun t => { t with sight := g } } } }

/-- The lines of a sector that hold some bytes have shown their last writes to its cores' streams (spec/11 R304). -/
def State.shown (s : State) (sector : Nat) (keys : List Nat) : State :=
  let ks := keys.filter fun k => s.hist.any fun r => r.old.any fun c => c.1 == k
  if ks.isEmpty then s
  else
    let f := fun (t : StreamSt) => { t with sight := { t.sight with seen := laterTab t.sight.seen (ks.map fun k => (k, s.nextWr)) } }
    { s with cores := s.cores.map fun c =>
        if sectorOf c.1 == sector && c.2.running then (c.1, { c.2 with ss := f c.2.ss, sa := f c.2.sa, sv := f c.2.sv, sm := f c.2.sm }) else c }

/-- The releases of the writes that a read of some bytes returns, `ws` being the writes up to its point (spec/11 R305). -/
def relsIn (ws : List Wr) (keys : List Nat) : List Rel :=
  ((keys.filterMap fun k => ws.find? fun r => r.touches [k]).eraseDups.filter fun r => !r.bar).flatMap (·.rels)

/-- The moving stream has read some bytes of an object at their home, `ws` being the writes up to there: it reads nothing older of
them, and an ACQ of the object finds what they release (spec/04 R116; spec/11 R304). -/
def State.hasRead (s : State) (ws : List Wr) (keys : List Nat) : State :=
  if s.hist.isEmpty then s
  else
    let rels := relsIn ws keys
    let obj := keys.headD 0 / 8 * 8
    s.onSight s.cur.core s.cur.strm fun g =>
      { g with
        seen := laterTab g.seen (keys.filterMap fun k => (ws.find? fun r => r.touches [k]).map fun r => (k, r.id + 1))
        read := if rels.isEmpty && !Tab.has g.read obj then g.read else Tab.set g.read obj rels }

/-- The moving stream has read some bytes at their home as they are. -/
def State.readHome (s : State) (keys : List Nat) : State :=
  if s.hist.isEmpty then s
  else (s.hasRead s.hist keys).onSight s.cur.core s.cur.strm fun g => { g with seen := laterTab g.seen (keys.map fun k => (k, s.nextWr)) }

/-- What the clause's position answers rests on some bytes as they are (spec/11 R302, R310). -/
def State.restOn (s : State) (keys : List Nat) : State :=
  s.onMe fun c => c.onStrm s.cur.strm fun t =>
    { t with clause := { t.clause with basis := t.clause.basis ++ keys.map fun k => (k, Mem.read s.mem k) } }

/-! ### Barriers (spec/05 R151) -/

/-- The 128-bit word of a barrier after a credit of `x` units. -/
def barCredit (o x : Nat) : Nat :=
  let target := bits o 47 0
  let count := bits o 111 64 + x
  let flips := if target == 0 then 0 else count / target
  let count' := if target == 0 then count % 2 ^ 48 else count % target
  let phase := (bits o 63 63 + flips) % 2
  bits o 127 112 * 2 ^ 112 + count' * 2 ^ 64 + phase * 2 ^ 63 + bits o 62 48 * 2 ^ 48 + target

/-- The word after BARINIT. -/
def barInit (o target : Nat) : Nat := bits o 127 112 * 2 ^ 112 + bits o 62 48 * 2 ^ 48 + target

/-- The bytes of a store as it is performed on memory `m`: a credit of units is added to the barrier as it stands then. -/
def How.cells (h : How) (m : Mem) (cells : List Host.Cell) : List Host.Cell :=
  match h.bar, cells with
  | some u, c :: _ => cellsAt c.1 (bytesOf 16 (barCredit (ofBytes (Mem.bytes m c.1 16)) u))
  | _, _ => cells

/-- Phases that a credit of `x` completes at a barrier word, and whether it goes beyond the last. -/
def barFlips (o x : Nat) : Nat × Bool :=
  let target := bits o 47 0
  let count := bits o 111 64 + x
  if target == 0 then (0, false) else (count / target, count % target != 0)

/-! ### Acquires (spec/04 R116, R118; spec/11 R305 to R307) -/

/-- The views of the releases that an acquire of an agent reaches, cut to what both cover. -/
def State.reached (s : State) (w : Who) (agent : Nat) (cover : Cover) (rels : List Rel) : List View :=
  cover.flatMap fun c => (rels.filter fun r => scopesMeet r.scope r.by_ c.1 agent).map fun r => s.within w r.view c.2

/-- The moving stream acquires releases at what an operation covers. -/
def State.takeRels (s : State) (w : Who) (agent : Nat) (cover : Cover) (rels : List Rel) : State :=
  let vs := s.reached w agent cover rels
  if vs.isEmpty then s
  else s.onSight s.cur.core s.cur.strm fun g => { g with view := vs.foldl View.join g.view, since := s.nextWr }

/-- The releases carried by the writes that the moving stream sees at the object at `key`. -/
def State.relsAt (s : State) (key : Nat) : List Rel :=
  let keys := (upTo 8).map (key + ·)
  relsIn (s.lookAll s.agent keys).2 keys

/-- The releases that the moving stream's latest load, CAS or AMO of the object at `key` returned (spec/04 R116). -/
def State.relsRead (s : State) (key : Nat) : List Rel := Tab.get s.sight.read (key / 8 * 8) []

/-- A FENCE of the moving stream comes after what it has seen and after the FENCEs before it whose scopes meet its own (spec/11
R306). -/
def State.fenceAcquire (s : State) (w : Who) (scope : Nat) : State :=
  if s.hist.isEmpty then s
  else
    let seen := s.hist.filter fun r => !r.bar && r.old.any fun c => s.sees s.sight (agentIsS s.agent) s.agent r c.1
    s.takeRels w s.agent [(scope, none)] (seen.flatMap (·.rels) ++ s.sight.read.flatMap (·.2) ++ s.fences.filter (·.by_ != 0))

/-- A release that the later writes of the moving stream carry: REL of the object at `key`, or FENCE, which takes its place in the
order of FENCEs (spec/04 R117; spec/11 R306). -/
def State.markRelease (s : State) (w : Who) (scope : Nat) (key : Option Nat) (cover : Cover) : State :=
  if s.hist.isEmpty then s
  else
    let s := if key.isNone then s.fenceAcquire w scope else s
    let rs := s.releases w s.agent s.sight.view cover
    let s := s.onSight s.cur.core s.cur.strm fun g => rs.foldl (fun g r => g.mark { key := key, rel := r }) g
    if key.isSome then s
    else { (s.deviceWide rs) with fences := rs ++ (s.deviceWide rs).fences.filter fun f => !(f.by_ == s.agent && f.scope == scope) }

/-- The destination bytes and tiles of transfers that `p` selects of channel `ch` come before (spec/05 R146, R147, R153, R154). -/
def State.takeCopies (s : State) (ch : Nat) (p : Nat → Bool) : State :=
  let c := s.cur.core
  let ids := (s.hist.filter fun r => 16384 ≤ r.by_ && agentCore r.by_ == some c && (r.by_ - 16384) % 8 == ch && p ((r.by_ - 16384) / 8 / 144)).map (·.id)
  let s := s.onCore c fun x => x.copiesKnown s.cur.strm ch p
  if ids.isEmpty then s
  else s.onSight c s.cur.strm fun g => { g with view := ids.foldl View.learn g.view }

end Sys2Proof.Machine
end

