-- ==== Sys2Proof/Machine/Ops.lean ====
section
/-! DEFINITION. The named operations every meaning is built from: what one position of a clause answers, recording it,
committing a clause (spec/03 R72 to R84), taking a trap (spec/08 R222 to R225) and returning from one (R228 to
R231). -/

namespace Sys2Proof.Machine

/-- What a position that completes adds to its clause: its latch, its pending effects, flags, a new seed and what
follows the commit. -/
structure Res where
  latch : Latch := .none
  effs : List Eff := []
  flags : Word := 0
  seed : Option Word := none
  post : Post := .none
  /-- The bytes of memory, by key, whose values the result rests on until the clause commits. -/
  rests : List Nat := []
  deriving DecidableEq, Repr, Inhabited

/-- The answer of one position: done, a trap, a wait at the position (spec/03 R445), or a wait that gives up the
clause until it can issue again, because of the memory at key `k` or of something else (`noKey`). -/
inductive Got where
  | done (r : Res)
  | trap (c : Cause)
  | stay
  | again (k : Nat)
  deriving DecidableEq, Repr, Inhabited

/-- The moving stream, its clause, and changes of them. -/
def State.st (s : State) : StreamSt := s.me.strm s.cur.strm
def State.cl (s : State) : Clause := s.st.clause
def State.onSt (s : State) (f : StreamSt → StreamSt) : State := s.onMe fun c => c.onStrm s.cur.strm f
/-- The moving core as its clause reads it: register files, RCAP and RMODE stand as at the clause's start (spec/03 R72). -/
def State.vw (s : State) : Core :=
  match s.cl.snap with
  | none => s.me
  | some x => { s.me with regs := x.regs, rcap := x.rcap }
def State.onCl (s : State) (f : Clause → Clause) : State := s.onSt fun t => { t with clause := f t.clause }

/-- The clause keeps the turn, or gives it up. -/
def State.keep (s : State) (b : Bool) : State := { s with moving := b }

/-! ### Tokens (spec/03 R78) -/

/-- Take the listed tokens: from count to held. -/
def Tokens.take (t : Tokens) (l : List Nat) : Tokens :=
  l.foldl (fun t f => 
    { t with count := vset t.count f (vget t.count f 0 - 1), held := vset t.held f (vget t.held f 0 + 1)
             took := vset t.took f (vget t.took f 0 + 1) }) t

/-- Return the listed tokens of a discarded clause. -/
def Tokens.untake (t : Tokens) (l : List Nat) : Tokens :=
  l.foldl (fun t f => 
    { t with count := vset t.count f (vget t.count f 0 + 1), held := vset t.held f (vget t.held f 0 - 1)
             took := vset t.took f (vget t.took f 0 - 1) }) t

/-- Drop the listed held tokens at a commit. -/
def Tokens.drop (t : Tokens) (l : List Nat) : Tokens :=
  l.foldl (fun t f => { t with held := vset t.held f (vget t.held f 0 - 1), sights := vset t.sights f ((vget t.sights f []).drop 1) }) t

/-- Give one token on each listed FIFO, with what came before it. -/
def Tokens.give (t : Tokens) (l : List Nat) (g : Sight) : Tokens :=
  l.foldl (fun t f => { t with count := vset t.count f (vget t.count f 0 + 1), sights := vset t.sights f (vget t.sights f [] ++ [g]) }) t

/-- What came before the tokens held on the listed FIFOs (spec/04 R108). -/
def Tokens.before (t : Tokens) (l : List Nat) : List Sight := l.eraseDups.flatMap fun f => (vget t.sights f []).take (vget t.held f 0)

/-- How often `x` stands in a list. -/
def occurs (x : Nat) (l : List Nat) : Nat := (l.filter (· == x)).length

/-- Whether every FIFO has room for the listed gives. -/
def Tokens.room (t : Tokens) (l : List Nat) : Bool :=
  l.all fun g => vget t.count g 0 + vget t.held g 0 + occurs g l ≤ 15

/-- Whether every FIFO holds the listed takes. -/
def Tokens.avail (t : Tokens) (l : List Nat) : Bool := l.all fun f => occurs f l ≤ vget t.count f 0

/-- The streams of a 4-bit mask. -/
def maskStrms (m : Nat) : List Strm := [Strm.s, .a, .v, .m].filter fun k => bit m k.idx

/-- The gives of a clause of stream `k`. -/
def givesOf (k : Strm) (slots : List Slot) : List Nat :=
  slots.flatMap fun p => match p.ins with
    | .tkgive f => (maskStrms f.s).map (fifo k)
    | _ => []

/-- The takes of a clause of stream `k`. -/
def takesOf (k : Strm) (slots : List Slot) : List Nat :=
  slots.flatMap fun p => match p.ins with
    | .tktake f => (maskStrms f.s).map fun j => fifo j k
    | _ => []

/-! ### Discarding and stopping (spec/03 R74, R75) -/

/-- Units after one that failed are fetched again. -/
def QReg.cut (q : QReg) : QReg := { q with units := q.units.takeWhile fun u => u.fault.isNone }

/-- Discard a stream's clause and its recorded progress; its tokens return, and units that failed are fetched again. -/
def Core.discard (c : Core) (k : Strm) : Core :=
  let t := c.strm k
  let c := { c with tok := c.tok.untake (t.clause.taken ++ t.held), regs := { c.regs with q := c.regs.q.map QReg.cut } }
  c.setStrm k { t with clause := {}, prog := {}, held := [], tokenStall := false, wake := 0 }

/-- Every position of a clause has executed: it waits for its commit. -/
def Clause.done (c : Clause) : Bool := c.live && !c.slots.isEmpty && c.slots.length ≤ c.pos

/-- Stop a stream at its restart point: progress of a resumable instruction that has not finished and its tokens stay, any
other clause is discarded. -/
def Core.stopStrm (c : Core) (k : Strm) : Core :=
  let t := c.strm k
  if t.prog.active && !t.clause.done then
    c.setStrm k { t with clause := {}, held := t.held ++ t.clause.taken, tokenStall := false, stopped := true }
  else (c.discard k).onStrm k fun t => { t with stopped := true }

/-! ### Uncorrectable sectors that are met (spec/15 R394) -/

/-- Count a saturating corrected-error counter (spec/15 R394). -/
def State.count (s : State) (off n : Nat) : State :=
  { s with dev := { s.dev with counters := Tab.set s.dev.counters off (min (Tab.get s.dev.counters off 0 + n) (2 ^ 32 - 1)) } }

/-- An access meets the uncorrectable sector at key `k`: a sector counts once on its pseudo-channel (spec/15 R394). -/
def State.meet (s : State) (k : Nat) : State :=
  let u := k / 32
  if isHbm k && s.ue.contains u && !s.dev.met.contains u then
    let s := s.count (0x3000 + 4 * bits k 22 14) 1
    { s with dev := { s.dev with met := u :: s.dev.met } }
  else s

/-- An access of context `asid` to `va` meets an uncorrectable sector. -/
def State.meetVa (s : State) (w : Who) (va : Nat) : State :=
  match s.xlate { w with super := true } va .read, s.xlate { w with super := true } va .write with
  | .ok l, _ => s.meet l.key
  | _, .ok l => s.meet l.key
  | _, _ => s

/-- A MEM_UE meets its sector: a range entry or a page entry at a physical address, or data (spec/10 R295). -/
def State.meetCause (s : State) (c : Nat) (e : Cause) : State :=
  if e.code != 13 then s
  else if e.i2 != 0 then s.meet (striped e.i1.toNat)
  else s.meetVa (s.who c) e.i0.toNat

/-! ### Traps (spec/08 R222 to R225) -/

/-- The TRAPSRC word (spec/08 R223). -/
def trapSrc (k : Strm) (async : Bool) (pos faulted : Nat) : Word :=
  word (k.idx + b2n async * 4 + pos % 4 * 2 ^ 8 + faulted % 16 * 2 ^ 12)

/-- Take a trap on core `c` (spec/08 R222). -/
def State.trapEnter (s : State) (c : Nat) (k : Strm) (cause : Cause) (async : Bool) (pos faulted : Nat) : State :=
  let x := ((((s.core c).stopStrm .s).stopStrm .a).stopStrm .v |>.stopStrm .m).meetSights s.nextWr
  let pcs := [x.offset .s, x.offset .a, x.offset .v, x.offset .m]
  let x := { x with trap := { x.trap with
    super := true, cause := word cause.code, src := trapSrc k async pos faulted
    pcs := Vector.ofFn fun i => word (pcs.getD i.val 0)
    info := #v[cause.i0, cause.i1, cause.i2, cause.i3]
    userLoops := x.ss.loops, userBuf := x.ss.buf, first := cause, erun := {}, faults := [] }
                    past := [], overlap := 0, tried := 0, later := 0, overlapping := false }
  let vec := s.ctxWord x.cont.asid 8
  let x := { x with ss := { x.ss with loops := [], buf := [], pc := word vec, stopped := false } }
  let s := (s.setCore c x).keep false
  if vec == 0 then s.endFailed c 1 cause.code cause.i0.toNat cause.i1.toNat else s

/-- A double fault on core `c` (spec/08 R225; spec/13 R367). -/
def State.doubleFault (s : State) (c second : Nat) : State :=
  let t := (s.core c).trap
  (s.endFailed c 5 second t.first.code (vget t.info 1 0).toNat).keep false

/-- End the run of ERET.run with a status; the stream stops again and its TRAPPC is unchanged (spec/08 R229). -/
def Core.erunEnd (c : Core) (status : Nat) : Core :=
  let e := c.trap.erun
  let c := c.onStrm e.strm fun t => { t with stopped := true, pc := e.savedPc }
  { c with trap := { c.trap with erun := { e with active := false, result := some (word status) } } }

/-- Take the faults of clauses at one boundary of core `c` (spec/03 R75): the first in the order S, A, V, M is reported, and
FAULTED names every stream. -/
def State.takeFaults (s : State) (c : Nat) : State :=
  let l := (s.core c).trap.faults
  match [Strm.s, .a, .v, .m].findSome? fun k => l.find? fun x => x.1 == k with
  | none => s
  | some x => s.trapEnter c x.1 x.2.2 false x.2.1 (l.foldl (fun m y => m ||| 2 ^ y.1.idx) 0)

/-- A fault of the moving stream's clause at position `pos` (spec/03 R74, R75; spec/08 R225, R229).  While clauses that
overlap it have yet to end, the trap waits for them. -/
def State.faultAt (s : State) (pos : Nat) (cause : Cause) : State :=
  let k := s.cur.strm
  let s := ((s.onMe fun c => c.discard k).keep false).meetCause s.cur.core cause
  if s.me.trap.super then
    if k == .s then s.doubleFault s.cur.core cause.code
    else s.onMe fun c => c.erunEnd (0x100 + cause.code + 2 ^ 16 * c.trap.erun.did)
  else if s.me.overlapping then
    let s := s.onMe fun c => { c.onStrm k fun t => { t with stopped := true } with
      trap := { c.trap with faults := c.trap.faults ++ [(k, pos, cause)] } }
    if s.me.overlap == 0 then s.takeFaults s.cur.core else s
  else s.trapEnter s.cur.core k cause false pos (2 ^ k.idx)

/-- A fault at the clause's present position. -/
def State.fault (s : State) (cause : Cause) : State := s.faultAt s.cl.pos cause

/-- The asynchronous cause of lowest code is taken (spec/08 R224), if one is pending on a core at user level where no synchronous one
waits.  Which stream
TRAPSRC then reports is not stated, and is free (notes/assumptions/2.md). -/
def State.takeAsync (s : State) (c : Nat) : State :=
  let x := s.core c
  if x.trap.super || !x.running || !x.trap.faults.isEmpty then s
  else match x.trap.pending with
    | [] => s
    | a :: r =>
      let lo := r.foldl (fun m y => if y.code < m.code then y else m) a
      let k := ([Strm.s, .a, .v, .m][Config.freeCycles s.free % 4]?).getD .s
      ({ s with free := s.free + 1 }.onCore c fun x => { x with trap := { x.trap with pending := x.trap.pending.erase lo } }).trapEnter c k lo true 0 0

/-- Make an asynchronous cause pending. -/
def Core.pend (c : Core) (cause : Cause) : Core := { c with trap := { c.trap with pending := c.trap.pending ++ [cause] } }

/-- Plain ERET after its commit (spec/08 R228, R233). -/
def State.eret (s : State) : State :=
  let c := s.cur.core
  let s := s.onCore c fun x =>
    let skip := wbit x.trap.wctl 9
    let x := { x with trap := { x.trap with super := false, oneshot := if skip then 15 else 0,
                                            wctl := x.trap.wctl &&& ~~~(0x200 : Word), erun := {} } }
    let back := fun (x : Core) (k : Strm) =>
      x.onStrm k fun t => { t with pc := x.cont.base + vget x.trap.pcs k.idx 0, stopped := false, clause := {} }
    let x := (back (back (back (back x .s) .a) .v) .m).meetSights s.nextWr
    { x with ss := { x.ss with loops := x.trap.userLoops, buf := x.trap.userBuf }, trap := { x.trap with userLoops := [], userBuf := [] } }
  (s.takeAsync c).keep false

/-- ERET.fail after its commit (spec/08 R230). -/
def State.eretFail (s : State) : State :=
  let t := s.me.trap
  (s.endFailed s.cur.core 1 t.cause.toNat (vget t.info 0 0).toNat (vget t.info 1 0).toNat).keep false

/-! ### Recording a position -/

/-- Add a position's result to the clause. -/
def Clause.record (c : Clause) (r : Res) : Clause :=
  { c with
    latches := c.latches ++ [r.latch]
    effs := c.effs ++ r.effs
    flags := c.flags ||| r.flags
    seed := if r.seed.isSome then r.seed else c.seed
    lens := c.lens ++ [r.effs.length]
    post := if r.post == .none then c.post else r.post
    pos := c.pos + 1, waiting := false }

/-- The clause executes again from its first position, with its tokens held: what its positions answered no longer stands.  A wait
that has ended is over. -/
def Clause.rewind (c : Clause) : Clause :=
  { c with pos := 0, latches := [], effs := [], lens := [], flags := 0, seed := none, post := .none, ue := none
           basis := [], table := none, waiting := true }

/-- The clause waits, and what it has executed stays. -/
def Clause.hold (c : Clause) : Clause := { c with waiting := true }

/-- The wait of the present position has ended (spec/03 R445). -/
def State.pass (s : State) : State :=
  s.onCl fun c => { c with passed := if bit c.passed c.pos then c.passed else c.passed + 2 ^ c.pos }

/-- Whether it has. -/
def State.passed (s : State) : Bool := bit s.cl.passed s.cl.pos

/-- The binding table as it stood when the moving clause issued (spec/04 R118). -/
def State.bindsAt (s : State) : Tab (BitVec 256) :=
  match s.cl.snap with
  | some x => x.binds
  | none => (s.ctx s.me.cont.asid).binds

/-! ### Memory writes at a commit -/

/-- Lines of a sector's read buffer take its own cores' stores (spec/10 R288). -/
def srbStore (srb : Tab (List Byte)) (sector : Nat) (cells : List Host.Cell) : Tab (List Byte) :=
  cells.foldl (fun t c =>
    let lk := lineKey c.1 sector
    if Tab.has t lk then Tab.set t lk ((Tab.get t lk []).set (c.1 % 256) c.2) else t) srb

/-- Drop the lines of a sector that `p` selects, by the key of their first byte. -/
def State.dropLines (s : State) (sector : Nat) (p : Nat → Bool) : State :=
  { s with srb := s.srb.filter fun x => !(x.1 % 16 == sector && p (x.1 / 16 * 256)) }

/-- Lines a sector's read buffer holds: 4 MiB of 256 bytes (spec/10 R288). -/
def srbLines : Nat := 16384

/-- Fill the line of key `key` in the moving core's sector.  A full buffer evicts a line first, which one being free. -/
def State.fillLine (s : State) (key : Nat) : State :=
  let x := sectorOf s.cur.core
  let held := (s.srb.filter fun l => l.1 % 16 == x).map fun l => l.1 / 16
  let out := held.getD (Config.freeCycles s.free % held.length) 0
  let s := if srbLines ≤ held.length then { s with srb := Tab.erase s.srb (out * 16 + x) } else s
  let s := s.shown x ((upTo 256).map (key / 256 * 256 + ·))
  { s with srb := Tab.set s.srb (lineKey key x) (Mem.bytes s.mem (key / 256 * 256) 256) }

/-- The issuing item of an asynchronous error. -/
def Core.issuer (c : Core) (va : Nat) : Add :=
  { asid := c.cont.asid, lrec := c.cont.lrec, node := c.cont.node, wid := c.cont.wid.toNat, va := va }

/-- The Vomel port that a store of the moving core to a peer goes on, if its bytes lie there and wait for the peer's answer
(spec/16 R425): in a clause that also releases, the answer has come when it commits, but that to the releasing store. -/
def State.farPort (s : State) (cells : List Host.Cell) (va : Nat) (how : How) : Option Nat :=
  match cells, s.xlate (s.who s.cur.core) va .write with
  | c :: _, .ok l =>
    if c.1 < 2 ^ 80 || how.scope.isSome || how.bar.isSome || (how.rel.isNone && s.cl.slots.any fun x => isRelease x.ins) then none
    else s.peerPort (l.link - 16) l.pa
  | _, _ => none

/-- The releases that a store of the moving stream carries (spec/04 R117; spec/11 R306). -/
def State.storeRels (s : State) (cells : List Host.Cell) (how : How) : List Rel :=
  (match how.rel with
    | some cover => s.releases (s.who s.cur.core) s.agent s.sight.view cover
    | none => []) ++ s.carries s.agent (cells.map (·.1))

/-- A store of the moving stream performed, with the releases it carries; lines of its sector take it. -/
def State.storeNow (s : State) (cells : List Host.Cell) (how : How) : State :=
  let x := sectorOf s.cur.core
  let bar := how.bar.map fun u => barFlips (ofBytes (Mem.bytes s.mem ((cells.map (·.1)).headD 0) 16)) u
  let s := (s.performRels s.agent how (s.storeRels cells how) bar false cells).shown x ((cells.map (·.1)).filter fun k => Tab.has s.srb (lineKey k x))
  { s with srb := srbStore s.srb x cells }

/-- A store of the moving core at its commit. -/
def State.storeCells (s : State) (cells : List Host.Cell) (va : Nat) (how : How) : State :=
  let cells := how.cells s.mem cells
  if s.badCells s.me.cont.asid cells then { s with ues := s.ues ++ [s.me.issuer va] }
  else match s.farPort cells va how with
    | some k => { s with dev := { s.dev with
        farWrites := s.dev.farWrites ++ [{ port := k, core := s.cur.core, cells := cells, who := s.me.issuer va, agent := s.agent
                                           how := how, rels := s.storeRels cells how }] } }
    | none => s.storeNow cells how

/-- The keys an effect writes in memory. -/
def Eff.keys : Eff → List Nat
  | .store cells _ _ => cells.map (·.1)
  | .addNow key ty _ _ => (upTo (if ty == 1 then 8 else 4)).map (key + ·)
  | _ => []

/-- Whether the node a core runs collects its adds until its flush point (spec/09 R272). -/
def State.detNode (s : State) (c : Cont) : Bool :=
  match s.graph c.asid c.lrec with
  | some g => nodeDet (g.node c.node)
  | none => false

/-- A near-memory add of the moving core, with what names it, `later` adds of its continuation coming between (spec/04 R113; spec/09
R271, R272). -/
def State.addOf (s : State) (later key ty v va : Nat) : Add :=
  let x := s.me.cont
  { key := key, ty := ty, value := v, asid := x.asid, lrec := x.lrec, node := x.node, source := s.cur.core,
    seqNo := (s.rec_ (recKey x.asid x.recIdx)).adds + later, va := va, order := s.ks.order, wid := x.wid.toNat, det := s.detNode x
    rels := s.sight.carried false ((upTo (if ty == 1 then 8 else 4)).map (key + ·)) }

/-- The moving core's continuation has issued one more. -/
def State.countAdd (s : State) : State :=
  let k := recKey s.me.cont.asid s.me.cont.recIdx
  if Tab.has s.ks.recs k then s.setRec k { s.rec_ k with adds := (s.rec_ k).adds + 1 } else s

/-- Send a near-memory add to its engine. -/
def State.sendAdd (s : State) (key ty v va : Nat) : State :=
  s.countAdd.onEngine (engineOf key) fun e => { e with inbound := e.inbound ++ [s.addOf 0 key ty v va] }

/-- A near-memory add that its engine performs at once (spec/04 R113), which is recorded (spec/14 R390): it reaches no read buffer. -/
def State.addHome (s : State) (key ty v va : Nat) : State :=
  let a := s.addOf 0 key ty v va
  let s := s.countAdd.recEvent (recAdd (engineOf key)) a.wid a.source a.seqNo
  let cells := addCells s.mem key ty v
  if s.badCells s.me.cont.asid cells || s.ueAt key cells.length then { s with ues := s.ues ++ [s.me.issuer va] }
  else s.performBy s.agent { grain := 0, chain := true } [] none true cells

/-- The near-memory adds that a list of effects performs at once, as the record names them (spec/14 R390). -/
def State.addEntries (s : State) (l : List Eff) : List (List Nat) :=
  let far := l.filterMap fun e => match e with
    | .nadd key ty v va => some (false, key, ty, v, va)
    | .addNow key ty v va => some (true, key, ty, v, va)
    | _ => none
  far.zipIdx.filterMap fun x => if x.1.1 then
    some ((s.addOf x.2 x.1.2.1 x.1.2.2.1 x.1.2.2.2.1 x.1.2.2.2.2).entry (engineOf x.1.2.1)) else none

/-- Whether some effects must wait: stores for a window of a bank group, adds and a fold report for the record (spec/14 R389 to
R391). -/
def State.effsOwned (s : State) (l : List Eff) : Bool :=
  (l.any fun e => match e with
    | .fold _ => s.foldWaits s.cur.core
    | e => e.keys.any s.owned) || !(s.addEntries l).isEmpty && !s.recNames (s.addEntries l)

/-! ### Binding table (spec/04 R118 to R121) -/

/-- Write a binding entry: the device's copy and the context block. -/
def State.setBind (s : State) (asid i : Nat) (e : BitVec 256) : State :=
  let c := s.ctx asid
  (s.setCtx asid { c with binds := Tab.set c.binds i e }).physWrite asid (c.base + 0x800 + 32 * i) (bytesOf 32 e.toNat)

/-! ### System registers (spec/08 R232; spec/01 R31 to R36) -/

/-- A write of PART that has passed its checks (spec/01 R34): units that change region read as zero. -/
def State.setPart (s : State) (v : Word) : State :=
  let c := s.cur.core
  let old := s.me.scrBytes
  let part := v &&& 0x7F7F7F
  let s := s.onCore c fun x => { x with part := part }
  let lo := min old s.me.scrBytes
  { s with
    mem := Mem.clear s.mem (scratchKey c lo) (scratchKey c (2 ^ 23))
    hist := (s.forget fun k => scratchKey c lo ≤ k && k < scratchKey c (2 ^ 23)).hist
    flaws := s.flaws.filter fun f => !(f.key.any fun k => scratchKey c lo ≤ k && k < scratchKey c (2 ^ 23)) }

/-- A system register write at commit; read-only registers ignore it. -/
def State.sysWrite (s : State) (n : Nat) (v : Word) : State :=
  let strmOf := fun (i : Nat) => match i with
    | 0 => Strm.s | 1 => .a | 2 => .v | _ => .m
  if n == 0 then s.setPart v
  else if n == 1 then s.onMe fun c => { c with rcap := max 1 (min v.toNat 8192) }
  else if n == 0x10 then s.onMe fun c => { c with trap := { c.trap with cause := v &&& 0xFF } }
  else if n == 0x11 then s.onMe fun c => { c with trap := { c.trap with src := v &&& 0xF307 } }
  else if 0x14 ≤ n && n ≤ 0x17 then s.onMe fun c =>
    let k := strmOf (n - 0x14)
    let c := if k == .s then c else c.discard k
    { c with trap := { c.trap with pcs := vset c.trap.pcs (n - 0x14) (v &&& 0xFFFFFFFC) } }
  else if 0x18 ≤ n && n ≤ 0x1B then s.onMe fun c => { c with trap := { c.trap with info := vset c.trap.info (n - 0x18) v } }
  else if 0x20 ≤ n && n ≤ 0x23 then s.onMe fun c => { c with trap := { c.trap with kscr := vset c.trap.kscr (n - 0x20) v } }
  else if n == 0x28 then s.onMe fun c => { c with trap := { c.trap with waddr := v &&& 0xFFFFFFFFFFFFFF } }
  else if n == 0x29 then s.onMe fun c =>
    let l := if 30 < field v 5 0 then 30 else field v 5 0
    { c with trap := { c.trap with wctl := (v &&& 0x380) ||| word l } }
  else if 0x30 ≤ n && n ≤ 0x33 then s.onMe fun c => c.onStrm (strmOf (n - 0x30)) fun t => { t with flags := v &&& 0x7F }
  else if 0x34 ≤ n && n ≤ 0x37 then s.onMe fun c => c.onStrm (strmOf (n - 0x34)) fun t => { t with ctl := v &&& 0xF }
  else if 0x38 ≤ n && n ≤ 0x3B then s.onMe fun c => c.onStrm (strmOf (n - 0x38)) fun t => { t with seed := v }
  else s

/-! ### Effects at commit -/

/-- A word with `width` bits from `lo` up replaced (spec/13 R339). -/
def patched (old lo width v : Nat) : Nat :=
  old / 2 ^ (lo + width) * 2 ^ (lo + width) + v % 2 ^ width * 2 ^ lo + old % 2 ^ lo

/-- Fence courses of a core (spec/07 R213, spec/15 R394). -/
def State.fenceCourses (s : State) (c mask : Nat) : State :=
  let fresh := (upTo 4).filter fun i => bit mask i && !bit (s.core c).mat.fenced i
  (s.onCore c fun x => { x with mat := { x.mat with fenced := x.mat.fenced ||| mask } }).count (0x2400 + 4 * c) fresh.length

/-! ### Copy channels -/

/-- CDONE past the identifiers that have completed (spec/05 R145): at most `fuel` of them. -/
def Channel.advance (h : Channel) : Nat → Channel
  | 0 => h
  | fuel + 1 =>
    if h.done.contains (h.cdone + 1) then
      Channel.advance { h with cdone := h.cdone + 1, done := h.done.filter (· != h.cdone + 1) } fuel
    else h

/-- The suspended transfer, at the head of the queue, and every later one are discarded (spec/05 R148); an earlier one goes
on. -/
def Channel.abort (h : Channel) : Channel :=
  match h.susp, h.queue with
  | none, _ => h
  | some _, [] => { h with susp := none }
  | some _, t :: r =>
    let ids := ((t :: r).map (·.ident)).filter (t.ident ≤ ·)
    Channel.advance { h with queue := r.filter (·.ident < t.ident), susp := none, done := h.done ++ ids } (h.done.length + ids.length)

/-- A write of an x, v or t register at the moving clause's commit (spec/01 R20). -/
def State.putReg (s : State) (e : Eff) : State := s.onMe fun c => c.putReg s.cur.strm s.free e

/-- One effect of a committing clause.  A unit of a stream register that a waiting clause has already read stays the one it read where
QBIND or QUNBIND commits meanwhile, and its pop counts on the binding of the commit (DESIGN CHOICE, notes/assumptions/72.md). -/
def State.apply (s : State) (e : Eff) : State :=
  match e with
  | .sreg n v => s.onMe fun c => c.setS n v
  | .areg n v => s.onMe fun c => c.setA n v
  | .xreg n v => s.putReg (.xreg n v)
  | .vreg n r => s.putReg (.vreg n r)
  | .mreg n r => s.onMe fun c => c.setM n r
  | .vfree n => s.putReg (.vreg n {})
  | .mfree n => s.onMe fun c => c.setM n {}
  | .dslot n img => s.onMe fun c => c.setD n (some img)
  | .qset n q => s.onMe fun c => c.setQ n { q with sight := s.handed s.cur.core s.cur.strm }
  | .qpop n => s.onMe fun c =>
    let q := c.qreg n
    c.setQ n { q with popped := q.popped + 1, units := q.units.drop 1 }
  | .tile n t => s.putReg (.tile n (overTile (s.vw.tile n) (s.me.tile n) t))
  | .acc n x => s.onMe fun c => c.setC n x
  | .swap => s.onMe fun c => { c with mat := { c.mat with active := c.mat.shadow, shadow := c.mat.active } }
  | .mlds tb tm => s.onMe fun c => { c with mat := { c.mat with pending := c.mat.pending ++ [(tb, tm)] } }
  | .nest n img => s.onMe fun c => { c with mat := { c.mat with nestShadow := vset c.mat.nestShadow n img } }
  | .nestGo => s.onMe fun c => { c with mat := { c.mat with nestActive := c.mat.nestShadow } }
  | .fold l => (s.onMe fun c => { c with mat := { c.mat with fold := Vector.ofFn fun i => l.getD i.val 0 } }).foldEvent
      s.cur.core (l.headD 0).toNat
  | .mmode v => s.onMe fun c => { c with mat := { c.mat with mode := v } }
  | .fence4 mask => s.fenceCourses s.cur.core mask
  | .store cells va how => s.storeCells cells va how
  | .mark scope key cover => s.markRelease (s.who s.cur.core) scope key cover
  | .fill key => if s.addsTouch (key / 256 * 256) 256 then s else s.fillLine key
  | .nadd key ty v va => s.sendAdd key ty v va
  | .addNow key ty v va => s.addHome key ty v va
  | .bind i en => s.setBind s.me.cont.asid i en
  | .sys n v => s.sysWrite n v
  | .npBegin => s.onMe fun c => { c with np := true, npCycles := 0, npPc := word (c.offset .s) }
  | .npEnd => s.onMe fun c => { c with np := false, npCycles := 0 }
  | .transfer ch t => s.onMe fun c =>
    let h := c.chan ch
    c.setChan ch { h with queue := h.queue ++ [{ t with chan := ch, sight := s.handed s.cur.core s.cur.strm }], next := h.next + 1 }
  | .stage stg rel => s.onMe fun c => { c with copy := { c.copy with stg := stg, released := c.copy.released ++ rel } }
  | .abort ch => s.onMe fun c => c.setChan ch (c.chan ch).abort
  | .edgePut port item =>
    let x := s.me.cont
    let s := s.deviceRelease s.cur.core s.sight.view
    match (s.graph x.asid x.lrec).bind fun g => g.edgeAt x.node port with
    | some i => s.putItem x.asid x.lrec i item.toNat
    | none => s
  | .patch l w lo width v =>
    let a := s.me.cont.asid
    let va := s.lrAddr a l + 8 * w
    match s.kRead a va 8 with
    | .error _ => s
    | .ok old => match s.kWrite a va (bytesOf 8 (patched old lo width v)) with
      | .error _ => s
      | .ok s' => s'
  | .arm l tier copy => (s.deviceRelease s.cur.core s.sight.view).arm s.me.cont.asid l tier copy false

/-- Whether an effect writes the storage afresh, so that an error in it is gone (spec/15 R392). -/
def Eff.renews : Eff → Store → Bool
  | .sreg n _, .s k => n == k
  | .areg n _, .a k => n == k
  | .xreg n _, .x k => n == k
  | .vreg n _, .run k _ => n == k
  | .mreg n _, .run k _ => 32 + n == k
  | .vfree n, .run k _ => n == k
  | .mfree n, .run k _ => 32 + n == k
  | .dslot n _, .d k => n == k
  | .qset n _, .q k => n == k
  | .tile n _, .tile k _ => n == k
  | .acc n _, .acc k _ => n == k
  | .fold _, .staging => true
  | _, _ => false

/-- The planes change places. -/
def Store.swapped : Store → Store
  | .plane k => .plane (1 - k)
  | other => other

/-- Errors in the storage of the moving core after effects have written some of it. -/
def State.mend (s : State) (l : List Eff) : State :=
  let c := s.cur.core
  { s with flaws := (s.flaws.filter fun f => f.core != c || !l.any (·.renews f.store)).map fun f =>
      if f.core == c && l.contains .swap then { f with store := f.store.swapped } else f }

/-- Frees of marked sources come before the writes of a clause (spec/06 R166). -/
def Eff.isFree : Eff → Bool
  | .vfree _ => true
  | .mfree _ => true
  | _ => false

/-- All effects of a clause, frees first. -/
def State.applyAll (s : State) (l : List Eff) : State :=
  (l.filter fun e => !e.isFree).foldl State.apply ((l.filter Eff.isFree).foldl State.apply s)

/-! ### Checks of the whole clause (spec/06 R157, R158; spec/01 R26, R34) -/

/-- The v or m register an effect writes: 0 to 31 v, 32 to 39 m. -/
def Eff.pooled : Eff → Option (Nat × Nat)
  | .vreg n r => some (n, r.n)
  | .mreg n r => some (32 + n, r.n)
  | _ => none

/-- The runs register `n` (0 to 31 v, 32 to 39 m) holds now. -/
def Core.runsOf (c : Core) (n : Nat) : Nat := if n < 32 then (c.vreg n).n else (c.mreg (n - 32)).n

/-- The effects of a clause position by position, `lens` counting those of each. -/
def effsByPos : List Nat → List Eff → List (List Eff)
  | [], _ => []
  | n :: r, l => l.take n :: effsByPos r (l.drop n)

/-- The positions of a clause with each dictionary pair as its two instructions (spec/03 R80). -/
def Core.flat (c : Core) (k : Strm) (l : List Slot) : List Slot :=
  l.flatMap fun x => match x.ins with
    | .dpair f => [f.i, f.j].filterMap fun n => match decode (.stream k) (Tab.get c.dict n 0) with
      | .ok i => some ⟨x.addr, i⟩
      | .error _ => none
    | _ => [x]

/-- The registers of the pool that a clause overwrites or frees. -/
def poolGone (l : List Slot) : List Nat :=
  (l.flatMap fun x => (insDests x.ins ++ insFrees x.ins).filterMap fun d => match d.1 with
    | .v => some d.2
    | .m => some (32 + d.2)
    | _ => none).eraseDups

/-- What the clauses of other streams count as taken of the pool: the need of one that has passed its check, and of those of
overlapping clauses that failed it. -/
def Core.otherNeed (c : Core) (k : Strm) : Nat :=
  ([Strm.s, .a, .v, .m].filter (· != k)).foldl (fun a j => a + (c.strm j).clause.need) 0 + c.tried

/-- The entries that each position executed so far needs, added up. -/
def Clause.needs (cl : Clause) : List Nat :=
  ((effsByPos cl.lens cl.effs).foldl (fun (st : Nat × List Nat) l =>
    let n := st.1 + (l.filterMap Eff.pooled).foldl (fun a w => a + w.2) 0
    (n, st.2 ++ [n])) (0, [])).2

/-- The RUN_POOL check of a clause of stream `k`: the first of its executed positions at which the cumulative need exceeds what
is available, with both. -/
def Core.poolFault (c : Core) (k : Strm) (cl : Clause) : Option (Nat × Nat × Nat) :=
  let gone := poolGone (c.flat k cl.slots)
  let avail := c.poolRuns - c.usedRuns - c.otherNeed k + (gone.map c.runsOf).foldl (· + ·) 0
  ((cl.needs.zipIdx).find? fun x => avail < x.1).map fun x => (x.2, x.1, avail)

/-- RUN_POOL, where the executed positions of the moving clause raise it. -/
def State.poolCause (s : State) : Option (Nat × Cause) :=
  (s.me.poolFault s.cur.strm s.cl).map fun x =>
    (x.1, { code := 6, i0 := word x.1, i1 := word x.2.1, i2 := word x.2.2, i3 := word s.me.poolRuns })

/-- The conditions of a PART write (spec/01 R34). -/
def Core.partOk (c : Core) (v : Word) : Bool :=
  let rf := field v 6 0
  let acc := field v 14 8
  rf + acc + field v 22 16 == 96 && 16 ≤ rf && acc ≤ 32 && c.usedRuns ≤ (rf - 16) * 8192 && c.usedAcc ≤ acc * 65536
    && !c.cont.ganged

/-- The bytes of accumulators once the effects of a list are applied. -/
def Core.accAfter (c : Core) (l : List Eff) : Nat :=
  (l.foldl (fun (c : Core) e => match e with
    | .acc n x => c.setC n x
    | _ => c) c).usedAcc

/-- Why position `i` cannot commit as the core stands now: PART no longer fits (spec/01 R34), or a shape does not (R26). -/
def Core.lateBad (c : Core) (cl : Clause) (i : Nat) : Option Cause :=
  let ls := effsByPos cl.lens cl.effs
  (ls.getD i []).findSome? fun e => match e with
    | .sys 0 v => if c.partOk v then none else some { code := 1, i0 := 1 }
    | .acc n x =>
      let before := c.accAfter (ls.take i).flatten
      if (c.acc n).rows * (c.acc n).cols < x.rows * x.cols && c.accBytes < max before (c.accAfter (ls.take (i + 1)).flatten)
      then some { code := 3, i0 := word i, i1 := 6 } else none
    | _ => none

/-- The lower position's of two faults (spec/03 R74). -/
def lowerFault (p q : Option (Nat × Cause)) : Option (Nat × Cause) :=
  match p, q with
  | some x, some y => if y.1 < x.1 then q else p
  | none, _ => q
  | _, none => p

/-- The fault of lowest position that the executed positions of the moving clause meet at its commit. -/
def State.lateFault (s : State) : Option (Nat × Cause) :=
  let cl := s.cl
  lowerFault s.poolCause ((upTo cl.lens.length).findSome? fun i => (s.me.lateBad cl i).map fun c => (i, c))

/-- Whether what the positions of the moving clause answered no longer stands: bytes or the binding table they rest on have changed
(spec/04 R110 to R113, R119), or what Keystone answered has (spec/08 R239 to R241). -/
def State.stale (s : State) : Bool :=
  let cl := s.cl
  let x := s.me.cont
  (cl.basis.any fun c => Mem.read s.mem c.1 != c.2)
    || (cl.table.any fun t => (s.ctx x.asid).binds != t)
    || cl.effs.any fun e => match e with
      | .edgePut port _ => match ((s.graph x.asid x.lrec).bind fun g => (g.edgeAt x.node port).bind fun i => g.edges[i]?) with
        | some d => edgeSlots d.entry < d.items.length + (cl.effs.filter fun o => match o with
          | .edgePut p _ => p == port
          | _ => false).length
        | none => false
      | .patch l _ _ _ _ => (s.lrec x.asid l).state != 0
      | .arm l tier _ => (s.lrec x.asid l).state != 0
          || 256 < (s.ks.pend.filter fun p => p.tier == tier).length + (cl.effs.filter fun o => match o with
            | .arm _ t _ => t == tier
            | _ => false).length
      | _ => false

/-! ### Commit -/

/-- Where control goes after a commit that takes no redirection (spec/03 R82): innermost loop first, of those that end here. -/
def loopBack (next : Word) : List LoopSt → Word × List LoopSt
  | [] => (next, [])
  | l :: r =>
    if l.stop == next then
      (if 1 < l.count then (l.start, { l with count := l.count - 1 } :: r) else loopBack next r)
    else ((loopBack next r).1, l :: (loopBack next r).2)

/-- A taken redirection ends the loops whose body does not hold its target, innermost first (spec/03 R83). -/
def leaveLoops (t : Word) : List LoopSt → List LoopSt
  | [] => []
  | l :: r => if l.start.toNat ≤ t.toNat && t.toNat < l.stop.toNat then l :: r else leaveLoops t r

/-- Program counter and loops of the moving stream after its clause commits.  At supervisor level no user loop counts,
loops back or ends (spec/08 R222).  A redirection taken in the clause that holds a body's last word goes to its target, and a
LOOP of count 0 there goes past the body it skips: neither counts nor loops back (DESIGN CHOICE, notes/assumptions/36.md; R82
and R83 do not say). -/
def StreamSt.control (t : StreamSt) (frozen : Bool) (post : Post) (next : Word) : StreamSt :=
  match post with
  | .goto target => { t with pc := target, loops := if frozen then t.loops else leaveLoops target t.loops }
  | .loop l => if l.count == 0 then { t with pc := l.stop } else { t with pc := l.start, loops := l :: t.loops }
  | _ =>
    if frozen then { t with pc := next }
    else { t with pc := (loopBack next t.loops).1, loops := (loopBack next t.loops).2 }

/-- The streams a suspension point stopped restart where they stood (spec/08 R236). -/
def Core.resume3 (c : Core) : Core :=
  ((c.onStrm .a fun t => { t with stopped := false }).onStrm .v fun t => { t with stopped := false }).onStrm .m
    fun t => { t with stopped := false }

/-- What follows the commit. -/
def State.after (s : State) (post : Post) (pos : Nat) : State :=
  let c := s.cur.core
  match post with
  | .syscall n => if s.me.trap.super then s.doubleFault c 23 else s.trapEnter c .s { code := 23, i0 := n } false pos 0
  | .eret => s.eret
  | .eretFail => s.eretFail
  | .suspend why a b => (s.suspend c why a.toNat b.toNat 0 0).keep false
  | .finish => (s.endDone c).keep false
  | .yielded => (s.suspend c 0 0 0 0 0).keep false
  | .putWait port item => (s.suspend c 2 0 0 port item.toNat).keep false
  | .armWait l copy => (s.suspend c 4 l copy 0 0).armWaiting.keep false
  | .noSuspend => ((upTo 8).foldl (fun s ch => s.takeCopies ch fun _ => true) s).onCore c fun x =>
      { x.resume3 with cont := { x.cont with atSusp := false } }
  | _ => s

/-- Count a committed clause of ERET.run (spec/08 R229). -/
def Core.erunStep (c : Core) : Core :=
  let e := c.trap.erun
  let c := { c with trap := { c.trap with erun := { e with did := e.did + 1 } } }
  if e.did + 1 == e.want then c.erunEnd 0 else c

/-- The position of a clause's TRAP word. -/
def trapPos (l : List Slot) : Nat :=
  (l.findIdx? fun x => match x.ins with
    | .trap _ => true
    | _ => false).getD 0

/-- Whether a clause holds ERET.run, after which the handler has no loop active (spec/08 R222, R228). -/
def runsEret (l : List Slot) : Bool := l.any fun x => match x.ins with
  | .eretRun _ => true
  | _ => false

/-- The core after the moving stream's clause has committed: tokens, control, FLAGS, RMODE.SEED (spec/03 R72, R78). -/
def Core.committed (c : Core) (k : Strm) (gives : List Nat) (g : Sight) : Core :=
  let t := c.strm k
  let cl := t.clause
  let c := c.stamp k gives
  let c := { c with tok := (c.tok.drop (cl.taken ++ t.held)).give gives g }
  let frozen := c.trap.super && k != .s
  let c := c.onStrm k fun t =>
    let t := if runsEret cl.slots then { t with loops := [], buf := [] } else t
    { t.control frozen cl.post cl.next with
      clause := {}, prog := {}, held := [], wake := 0, flags := t.flags ||| cl.flags, seed := cl.seed.getD t.seed }
  let c := [Strm.s, .a, .v, .m].foldl (fun c j => c.onStrm j fun t => { t with tokenStall := false }) c
  let c := { c with trap := { c.trap with oneshot := c.trap.oneshot &&& (15 - 2 ^ k.idx)
                                          erun := if k == .s then {} else c.trap.erun } }
  if frozen && c.trap.erun.active then c.erunStep else c

/-- Commit the moving stream's clause, or leave it waiting for room in a FIFO or for a home (spec/03 R72, R74, R75, R78, R82,
R83).  The need of a clause that waits counts against the run pool; one of overlapping clauses may have its check begin before the
others' and end after them (spec/06 R158). -/
def State.commit (s : State) : State :=
  let cl := s.cl
  let gives := givesOf s.cur.strm cl.slots
  match s.lateFault with
  | some (pos, c) =>
    let s := if c.code == 6 && s.me.overlapping then s.onMe fun x => { x with tried := x.tried + cl.needs.getLastD 0 } else s
    s.faultAt pos c
  | none =>
    let wait := (s.onCl fun c => { c.hold with need := cl.needs.getLastD 0 }).keep false
    let k := s.cur.strm.idx
    if s.me.overlapping && s.me.overlap != 0 && bit s.me.later k then
      wait.onMe fun c => { c with overlap := c.overlap + 2 ^ k, later := c.later - 2 ^ k }
    else if s.effsOwned cl.effs then (match (cl.effs.flatMap Eff.keys).find? s.owned with
      | some k => wait.want k true
      | none => wait)
    else if !s.me.tok.room gives then wait.onSt fun t => { t with tokenStall := true }
    else if s.stale then (s.onCl Clause.rewind).keep false
    else
      let s := (s.applyAll cl.effs).mend cl.effs
      let s := s.onMe fun c => c.committed s.cur.strm gives (s.handed s.cur.core s.cur.strm)
      (s.keep false).after cl.post (trapPos cl.slots)

/-- The effects of the positions below `p` that leave the core for memory. -/
def Clause.sent (c : Clause) (p : Nat) : List Eff :=
  ((effsByPos c.lens c.effs).take p).flatten.filter fun e => match e with
    | .store _ _ _ => true
    | .nadd _ _ _ _ => true
    | .addNow _ _ _ _ => true
    | _ => false

/-- The end of a clause whose every position has executed: its commit, unless an atomic has met an uncorrectable sector, where the
writes of lower positions stay performed and the clause faults (spec/04 R112).  A check that the commit makes leaves them in the
core. -/
def State.conclude (s : State) : State :=
  match s.cl.ue, s.lateFault with
  | none, _ => s.commit
  | some (p, c), none => (s.applyAll (s.cl.sent p)).faultAt p c
  | u, q => match lowerFault u q with
    | some x => s.faultAt x.1 x.2
    | none => s

/-- Finish a position: record it, and commit after the clause's last one (`e` is its E bit).  A fault that lower positions meet at
the commit outranks the position's own (spec/03 R74); so does MEM_UE of an atomic at a lower position, although R112 lets no atomic
leave the core before every position has passed its checks (DESIGN CHOICE, notes/assumptions/69.md). -/
def State.finish (s : State) (e : Bool) (g : Got) : State :=
  match g with
  | .trap c => match lowerFault s.cl.ue s.lateFault with
    | some p => s.faultAt p.1 p.2
    | none => s.fault c
  | .stay => (s.onCl Clause.hold).keep false
  | .again k => ((s.want k).onMe fun c => c.discard s.cur.strm).keep false
  | .done r =>
    let s := (s.restOn r.rests).onCl fun c => c.record r
    if e then s.conclude else s.keep true

/-! ### Resumable instructions (spec/03 R76) -/

/-- Progress of the moving stream, and its change at a step boundary. -/
def State.prog (s : State) : Progress := s.st.prog
def State.setProg (s : State) (p : Progress) : State := s.onSt fun t => { t with prog := p }

/-- Stop at a step boundary: the instruction goes on at the stream's next turn. -/
def State.boundary (s : State) (p : Progress) : State := ((s.setProg p).onCl fun c => { c with waiting := true }).keep false

end Sys2Proof.Machine
end

