-- ==== Sys2Proof/Machine/Operands.lean ====
section
/-! DEFINITION. Operand forms: sources and destinations of the S and A streams, memory accesses of R104 and R127 with
their checks, and the watch point (spec/03 R68 to R70; spec/04 R94, R104 to R107; spec/08 R233). -/

namespace Sys2Proof.Machine

/-- The result latch of a position as a word. -/
def State.latchWord (s : State) (k : Nat) : Word :=
  match s.cl.latches.getD k .none with
  | .word v => v
  | _ => 0

/-- A source of the S stream. -/
def State.srcS (s : State) : Src → Word
  | .reg n => s.vw.sreg n
  | .latch k => s.latchWord k
  | .queue _ => 0

/-- A source of the A stream. -/
def State.srcA (s : State) : Src → Word
  | .reg n => s.vw.areg n
  | .latch k => s.latchWord k
  | .queue _ => 0

/-- A source that names an exchange register. -/
def State.srcX (s : State) : Src → Word
  | .reg n => s.vw.xreg n
  | .latch k => s.latchWord k
  | .queue _ => 0

/-- A result in an s register: W = 1 leaves it in the latch only (spec/03 R69). -/
def toS (d : Nat) (w : Bool) (v : Word) : Res := { latch := .word v, effs := if w then [] else [.sreg d v] }

/-- A result in an a register. -/
def toA (d : Nat) (w : Bool) (v : Word) : Res := { latch := .word v, effs := if w then [] else [.areg d v] }

/-- A result in an exchange register. -/
def toX (d : Nat) (w : Bool) (v : Word) : Res := { latch := .word v, effs := if w then [] else [.xreg d v] }

/-- The three outcomes of a step over this state. -/
abbrev Out := Host.Outcome State Fault Refusal

/-- Layout RR in the S stream: d := op a b. -/
def State.rrS (s : State) (f : RR) (op : Word → Word → Word) : Out :=
  .next (s.finish f.e (.done (toS f.d f.w (op (s.srcS f.a) (s.srcS f.b)))))

/-- Layout RR with one source. -/
def State.r1S (s : State) (f : R1) (op : Word → Word) : Out :=
  .next (s.finish f.e (.done (toS f.d f.w (op (s.srcS f.a)))))

/-- Layout RI in the S stream. -/
def State.riS (s : State) (f : RI) (op : Word → Nat → Word) : Out :=
  .next (s.finish f.e (.done (toS f.d f.w (op (s.srcS f.a) f.i))))

/-- Layout RI of a shift in the S stream. -/
def State.shS (s : State) (f : RSh) (op : Word → Nat → Word) : Out :=
  .next (s.finish f.e (.done (toS f.d f.w (op (s.srcS f.a) f.n))))

/-- Layout RR in the A stream. -/
def State.rrA (s : State) (f : RR) (op : Word → Word → Word) : Out :=
  .next (s.finish f.e (.done (toA f.d f.w (op (s.srcA f.a) (s.srcA f.b)))))

/-- Layout RI in the A stream. -/
def State.riA (s : State) (f : RI) (op : Word → Nat → Word) : Out :=
  .next (s.finish f.e (.done (toA f.d f.w (op (s.srcA f.a) f.i))))

/-- Layout RI of a shift in the A stream. -/
def State.shA (s : State) (f : RSh) (op : Word → Nat → Word) : Out :=
  .next (s.finish f.e (.done (toA f.d f.w (op (s.srcA f.a) f.n))))

/-- A result or the cause that stops it, as the answer of a position. -/
def Got.ofExcept (r : Except Cause Res) : Got :=
  match r with
  | .ok x => .done x
  | .error c => .trap c

/-- The address the words of a clause count from: the position's own word, or the PAIR word that holds it. -/
def State.here (s : State) : Word := ((s.cl.slots[s.cl.pos]?).map (·.addr)).getD s.st.pc

/-! ### Watch point (spec/08 R233) -/

/-- Whether stream `k` is exempt from the watch in this clause. -/
def Core.watchOff (c : Core) (k : Strm) : Bool := bit c.trap.oneshot k.idx

/-- The first watched address that an access of `n` bytes at `va` reaches, with the kinds that are watched. -/
def Core.watchHit (c : Core) (k : Strm) (va n : Nat) (rd wr : Bool) : Option Cause :=
  let lo := c.trap.waddr.toNat / 2 ^ field c.trap.wctl 5 0 * 2 ^ field c.trap.wctl 5 0
  let hi := lo + 2 ^ field c.trap.wctl 5 0
  let r := rd && wbit c.trap.wctl 7
  let w := wr && wbit c.trap.wctl 8
  if (r || w) && !c.watchOff k && va < hi && lo < va + n then
    some { code := 27, i0 := word (max va lo), i1 := word (b2n r + 2 * b2n w) }
  else none

/-! ### Accesses of up to 8 aligned bytes (spec/04 R104) -/

/-- The access kinds that read, and that write. -/
def Kind.reads (k : Kind) : Bool := k == .read || k == .atomic
def Kind.writes (k : Kind) : Bool := k == .write || k == .atomic || k == .nadd

/-- Why an access does not go through: a cause, or memory at a key that cannot be reached yet. -/
inductive Deny where
  | cause (c : Cause)
  | busy (k : Nat)
  deriving DecidableEq, Repr, Inhabited

def Deny.got : Deny → Got
  | .cause c => .trap c
  | .busy k => .again k

/-- Whether an add to some of `n` bytes comes first: one of the moving core that has yet to reach its engine (spec/11
R304), or one that is queued (R313). -/
def State.addComing (s : State) (key n : Nat) : Bool :=
  s.addBefore key n || (isHbm key && (s.engine (engineOf key)).inbound.any fun a =>
    a.source == s.cur.core && !a.det && a.key < key + n && key < a.key + a.size)

/-- The moving stream as it translates. -/
def State.whoMe (s : State) : Who := { s.who s.cur.core with agent := s.agent }

/-- ALIGN, XLATE, PROT, MEM_UE and WATCH of an aligned access; `home` says that it bypasses the read buffer. -/
def State.access (s : State) (va : Word) (size : Nat) (k : Kind) (home : Bool) : Except Deny Loc :=
  let v := va.toNat
  if v % size != 0 then .error (.cause { code := 7, i0 := va })
  else match s.walkWaits s.me.cont.asid v, s.xlate s.whoMe v k with
    | some k, _ => .error (.busy k)
    | none, .error c => .error (.cause c)
    | none, .ok l =>
      let l := if home then { l with cache := false } else l
      let buf := s.buffered s.cur.core l
      if k.reads && !buf && s.readBad l size then .error (.cause (s.badCause l size v))
      else match s.me.watchHit s.cur.strm v size k.reads k.writes with
        | some c => .error (.cause c)
        | none => if !buf && k != .nadd && (s.owned l.key || s.addComing l.key size) then .error (.busy l.key) else .ok l

/-- The number that `n` bytes at a location hold, as a load of the moving core reads them. -/
def State.loadNum (s : State) (l : Loc) (n : Nat) : Nat :=
  if s.buffered s.cur.core l then ofBytes ((upTo n).map fun i => s.loadByte s.cur.core { l with key := l.key + i })
  else ofBytes (((s.lookAll l.agent ((upTo n).map (l.key + ·))).1).map (·.2))

/-- The moving stream after such a load: what it has read at the home (spec/04 R116; spec/11 R304). -/
def State.loaded (s : State) (l : Loc) (n : Nat) : State :=
  if s.buffered s.cur.core l then s else s.hasRead (s.lookAll l.agent ((upTo n).map (l.key + ·))).2 ((upTo n).map (l.key + ·))

/-- The number that `n` bytes hold at their home. -/
def State.homeNum (s : State) (key n : Nat) : Nat := ofBytes (Mem.bytes s.mem key n)

/-- Memory with the stores, and the adds performed at once, of a list of effects. -/
def Mem.after (m : Mem) (effs : List Eff) : Mem :=
  effs.foldl (fun m e => match e with
    | .store cells _ how => Mem.writeCells m (how.cells m cells)
    | .addNow key ty v _ => Mem.writeCells m (addCells m key ty v)
    | _ => m) m

/-- Memory as a later position of the clause that goes to its home finds it: with the stores of lower positions
(spec/04 R112). -/
def State.homeAfter (s : State) (key n : Nat) : Nat := ofBytes (Mem.bytes (Mem.after s.mem s.cl.effs) key n)

/-- Adds of lower positions are performed at their homes, in order, before an access of a higher position that must follow
them (spec/04 R112, R114, R117): outside deterministic mode their engine takes them at once. -/
def State.settleAdds (s : State) : State :=
  if s.detNode s.me.cont then s
  else s.onCl fun c => { c with effs := c.effs.map fun e => match e with
    | .nadd key ty v va => .addNow key ty v va
    | e => e }

/-- Whether a load may fill the line of key `k`: it is not held yet, its home is sound, and no add to it waits there (spec/10 R288;
spec/11 R313). -/
def State.fillable (s : State) (k : Nat) : Bool :=
  !Tab.has s.srb (lineKey k (sectorOf s.cur.core)) && !s.ueAt (k / 256 * 256) 256 && !s.addsTouch (k / 256 * 256) 256

/-- The line a buffered load fills, where its range is cached. -/
def State.fillOf (s : State) (l : Loc) : List Eff :=
  if l.cache && (l.target == 0 || l.target == 1) && s.fillable l.key then [.fill l.key] else []

/-! ### Ranges of bytes (spec/05 R127) -/

/-- How a range is reached: who translates, the access kind, whether the read buffer is bypassed, and whether the
watch point applies. -/
structure Mode where
  who : Who
  kind : Kind
  home : Bool
  watch : Bool
  deriving DecidableEq, Repr, Inhabited

/-- The checks of one byte of a range, in the order of spec/04 R104 and spec/08 R233. -/
def State.byteLoc (s : State) (m : Mode) (va : Nat) : Except Deny Loc :=
  match s.walkWaits m.who.asid va, s.xlate m.who va m.kind with
  | some k, _ => .error (.busy k)
  | none, .error c => .error (.cause c)
  | none, .ok l =>
    let l := if m.home then { l with cache := false } else l
    let buf := s.buffered s.cur.core l
    if m.kind.reads && !buf && s.readBad l 1 then .error (.cause (s.badCause l 1 va))
    else match if m.watch then s.me.watchHit s.cur.strm va 1 m.kind.reads m.kind.writes else none with
      | some c => .error (.cause c)
      | none => if !buf && (s.owned l.key || s.addComing l.key 1) then .error (.busy l.key) else .ok l

/-- Every byte of a range is translated and checked in address order: the locations, or the first failure. -/
def State.rangeLocs (s : State) (m : Mode) (va : Nat) : Nat → Except Deny (List Loc)
  | 0 => .ok []
  | n + 1 =>
    match s.byteLoc m va with
    | .error c => .error c
    | .ok l => match State.rangeLocs s m (va + 1) n with
      | .error c => .error c
      | .ok r => .ok (l :: r)

/-- A plain access of the moving stream: reads may come from the read buffer. -/
def State.mode (s : State) (k : Kind) (home : Bool) : Mode :=
  { who := s.whoMe, kind := k, home := home, watch := true }

/-- The bytes of checked locations as the moving core reads them. -/
def State.locBytes (s : State) (ls : List Loc) : List Byte := ls.map fun l => s.loadByte s.cur.core l

/-- The lines that buffered loads of these locations fill. -/
def State.fillsOf (s : State) (ls : List Loc) : List Eff :=
  let keys := (ls.filter fun l => l.cache && (l.target == 0 || l.target == 1)).foldl
    (fun (a : List Nat) l => if a.head? == some (l.key / 256) then a else (l.key / 256) :: a) []
  (keys.eraseDups.filter fun k => s.fillable (256 * k)).reverse.map fun k => .fill (256 * k)

/-- One byte at its home, as a later position of the clause finds it. -/
def State.byteAfter (s : State) (key : Nat) : Byte := BitVec.ofNat 8 (s.homeAfter key 1)

/-- Cells with their addresses as stores, one effect for the cells of each 32-byte sector that stand together (spec/12
R331). -/
def storesOf : List (Nat × Host.Cell) → List Eff
  | [] => []
  | (va, c) :: r =>
    match storesOf r with
    | .store (d :: ds) vb h :: es => if c.1 / 32 == d.1 / 32 then .store (c :: d :: ds) va :: es else .store [c] va :: .store (d :: ds) vb h :: es
    | es => .store [c] va :: es

end Sys2Proof.Machine
end

