-- ==== Sys2Proof/Machine/Desc.lean ====
section
/-! DEFINITION. Tensor descriptors (spec/05 R128 to R133; spec/10 R289, R290): fields, element addresses, checks, and
the accesses of single elements. -/

namespace Sys2Proof.Machine

/-! ### Fields of a descriptor image (spec/05 R128) -/

def dBase (n : Nat) : Nat := bits n 63 0
def dFmt (n : Nat) : Nat := bits n 68 64
def dRank (n : Nat) : Nat := bits n 71 69
def dLayout (n : Nat) : Nat := bits n 73 72
def dBH (n : Nat) : Nat := bits n 79 76
def dBW (n : Nat) : Nat := bits n 83 80
def dSize (n k : Nat) : Nat := bits n (96 + 24 * k + 23) (96 + 24 * k)
def dStride (n k : Nat) : Int := signed 40 (bits n (216 + 40 * k + 39) (216 + 40 * k))
def dFill (n : Nat) : Nat := bits n 447 416
def dBcast (n : Nat) : Bool := bit n 448
def dCrcchk (n : Nat) : Bool := bit n 449
def dNostore (n : Nat) : Bool := bit n 450
def dSidecar (n : Nat) : Nat := bits n 511 456

/-- The size of a dimension; at or above RANK it is 1 (spec/05 R133). -/
def dExtent (n k : Nat) : Nat := if k < dRank n then dSize n k else 1

/-- Bytes of one element, 1 for the 4-bit formats; and of `x` elements, packed. -/
def elemBytes (t : Nat) : Nat := if tagBits t == 4 then 1 else tagBits t / 8
def spanBytes (t x : Nat) : Nat := x * tagBits t / 8

/-- Product of the sizes. -/
def dCount (n : Nat) : Nat := (upTo 5).foldl (fun a k => a * dExtent n k) 1

/-! ### Element addresses (spec/05 R128; spec/10 R289, R290) -/

/-- Coordinates, innermost first. -/
abbrev Coord := List Int

/-- Every coordinate lies in the tensor (spec/05 R133). -/
def inRange (n : Nat) (c : Coord) : Bool := (upTo 5).all fun k => 0 ≤ c.getD k 0 && c.getD k 0 < (dExtent n k : Int)

/-- The byte address of an element of the tensor. -/
def elemAddr (n : Nat) (c : Coord) : Int :=
  let i0 := (c.getD 0 0).toNat
  let i1 := (c.getD 1 0).toNat
  let t := dFmt n
  let outer := (upTo 3).foldl (fun a k => a + c.getD (k + 2) 0 * dStride n (k + 2)) (dBase n : Int)
  if dLayout n == 1 then
    let w := 2 ^ dBW n
    let h := 2 ^ dBH n
    outer + (i1 / h : Nat) * dStride n 1
      + ((i0 / w * spanBytes t (h * w) + spanBytes t (i1 % h * w) + spanBytes t (i0 % w) : Nat) : Int)
  else if dLayout n == 2 then
    outer + i1 * dStride n 1 + ((spanBytes t i0 + 8 * (i1 % 32) : Nat) : Int) % dStride n 1
  else outer + i1 * dStride n 1 + (if tagBits t == 4 then ((i0 / 2 : Nat) : Int) else i0 * dStride n 0)

/-- The nibble of a 4-bit element (spec/02 R39). -/
def elemHigh (c : Coord) : Bool := (c.getD 0 0).toNat % 2 == 1

/-- The coordinates of element `j` in row-major order. -/
def coordOf (n j : Nat) : Coord :=
  let go := (upTo 5).foldl (fun (a : Nat × List Int) k => (a.1 / dExtent n k, a.2 ++ [((a.1 % dExtent n k : Nat) : Int)])) (j, [])
  go.2

/-! ### The checks of TDMAKE (spec/05 R130) -/

/-- Reason 2. -/
def descBad2 (n : Nat) : Bool :=
  let t := dFmt n
  let b := tagBits t
  bits n 455 451 != 0 || bits n 95 84 != 0 || bits n 75 74 != 0
    || dLayout n == 3 || dRank n == 0 || 5 < dRank n || !vTag t
    || 8 < dBH n || 8 < dBW n || 2 ^ b ≤ dFill n
    || (upTo 5).any (fun k => if k < dRank n then dSize n k == 0 else dSize n k != 0 || dStride n k != 0)
    || (upTo 3).any (fun k => 2097151 < dSize n (k + 2))
    || (b == 4 && dStride n 0 != 0)
    || (dLayout n != 0 && (dRank n < 2 || dStride n 0 != (if b == 4 then 0 else (elemBytes t : Int))))
    || (dLayout n == 1 && (dStride n 1 < ((ceilDiv (dSize n 0) (2 ^ dBW n) * spanBytes t (2 ^ dBH n * 2 ^ dBW n) : Nat) : Int)
          || (b == 4 && dBW n == 0)))
    || (dLayout n == 2 && (dStride n 1 ≤ 0 || dStride n 1 % 256 != 0 || dStride n 1 * 8 < ((dSize n 0 * b : Nat) : Int)))

/-- Reason 3. -/
def descBad3 (n : Nat) : Bool :=
  !dBcast n && (upTo (dRank n)).any fun k =>
    dStride n k == 0 && 1 < dSize n k && !(k == 0 && tagBits (dFmt n) == 4)

/-- The lowest and the highest byte of a tensor that passed reason 2. -/
def descSpan (n : Nat) : Int × Int :=
  let t := dFmt n
  let last := fun (k : Nat) => ((dSize n k : Nat) : Int) - 1
  let ext := fun (a : Int × Int) (v : Int) => (a.1 + min 0 v, a.2 + max 0 v)
  let outer := (upTo (dRank n)).foldl (fun a k => if k < 2 then a else ext a (last k * dStride n k)) ((dBase n : Int), (dBase n : Int))
  let lin := ext (if 1 < dRank n then ext outer (last 1 * dStride n 1) else outer)
    (if tagBits t == 4 then last 0 / 2 else last 0 * dStride n 0)
  let top := (elemBytes t : Int) - 1
  if dLayout n == 1 then
    (outer.1, outer.2 + (elemAddr n [last 0, last 1, 0, 0, 0] - dBase n) + top)
  else if dLayout n == 2 then
    let r := ((8 * ((dSize n 1 - 1) % 32) + spanBytes t (dSize n 0 - 1) : Nat) : Int)
    (outer.1, outer.2 + last 1 * dStride n 1 + (if r < dStride n 1 then r else dStride n 1 - elemBytes t) + top)
  else (lin.1, lin.2 + top)

/-- Reason 4. -/
def descBad4 (n : Nat) : Bool := (descSpan n).1 < 0 || 2 ^ 56 ≤ (descSpan n).2

/-- Whether both ends lie in one core window (spec/10 R286), or find one and the same range entry (R292).  A lookup that
cannot read its entry raises its own cause (spec/10 R295). -/
def State.spanOk (s : State) (asid lo hi : Nat) : Except Cause Bool :=
  if bits lo 55 48 == 255 then
    let sel := bits lo 47 40
    .ok (!((sel == 0 && bits lo 39 24 != 0) || (sel == 1 && (bits lo 39 34 != 0 || bits lo 31 24 != 0))
        || (sel == 2 && (bits lo 39 36 != 0 || bits lo 31 24 != 0)) || 2 < sel)
      && lo / 2 ^ 24 == hi / 2 ^ 24)
  else if bits hi 55 48 == 255 then .ok false
  else
    let find := fun (va : Nat) => (match s.range 0 asid va with
      | .ok x => .ok (some x.1)
      | .error c => if c.code == 8 && c.i2 == 2 then .ok none else .error c : Except Cause (Option Nat))
    match find lo with
    | .error c => .error c
    | .ok x => match find hi with
      | .error c => .error c
      | .ok y => .ok (x.isSome && x == y)

/-- The reason TDMAKE gives for refusing an image, if any (spec/05 R130, reasons 2 to 5), or what its range check meets. -/
def State.descReason (s : State) (asid n : Nat) : Except Cause (Option Nat) :=
  if descBad2 n then .ok (some 2)
  else if descBad3 n then .ok (some 3)
  else if descBad4 n then .ok (some 4)
  else match s.spanOk asid (descSpan n).1.toNat (descSpan n).2.toNat with
    | .error c => .error c
    | .ok b => .ok (if b then none else some 5)

/-- A DESC cause: image address or 0, and reason. -/
def cDesc (va reason : Nat) : Cause := { code := 10, i0 := word va, i1 := word reason }

/-- The image of a slot, or DESC reason 1. -/
def Core.slotImg (c : Core) (n : Nat) : Except Deny Nat :=
  match c.slot n with
  | some d => .ok d.toNat
  | none => .error (.cause (cDesc 0 1))

/-- Whether a descriptor is dense (spec/05 R144). -/
def dDense (n : Nat) : Bool :=
  let t := dFmt n
  let rowb := if tagBits t == 4 then ((dSize n 0 / 2 : Nat) : Int) else dStride n 0 * dSize n 0
  dLayout n == 0 && (if tagBits t == 4 then dStride n 0 == 0 && dSize n 0 % 2 == 0 else dStride n 0 == elemBytes t)
    && ((upTo (dRank n)).foldl (fun (a : Bool × Int) k =>
      if k == 0 then (true, rowb) else (a.1 && dStride n k == a.2, a.2 * dSize n k)) (true, rowb)).1

/-- Bytes of a dense tensor. -/
def dBytes (n : Nat) : Nat := spanBytes (dFmt n) (dCount n)

/-- Whether SIDECAR is present and aligned (spec/05 R130 reason 8). -/
def dSideOk (n : Nat) : Bool := dSidecar n != 0 && dSidecar n % 8 == 0

/-- The origin of TLD, TST, VLD and VST from the register pair at `k` (spec/05 R133). -/
def Core.origin (c : Core) (k : Nat) : Except Deny Coord :=
  let u := c.areg k
  let v := c.areg (k + 1)
  if wbit v 63 then .error (.cause (cDesc 0 2))
  else .ok [signed 32 (field u 31 0), signed 32 (field u 63 32), field v 20 0, field v 41 21, field v 62 42]

/-- A coordinate moved by steps in dimensions 0 and 1. -/
def Coord.shift (c : Coord) (d0 d1 : Nat) : Coord := (c.modify 0 (· + (d0 : Int))).modify 1 (· + (d1 : Int))

/-! ### Accesses of elements -/

/-- The code of element `c` of a descriptor in the bytes that hold it. -/
def elemCode (n : Nat) (c : Coord) (bs : List Byte) : Nat :=
  let x := ofBytes bs
  if tagBits (dFmt n) == 4 then (if elemHigh c then x / 16 else x % 16) else x

/-- An element read: its code and the locations it came from. -/
def State.readElem (s : State) (m : Mode) (n : Nat) (c : Coord) : Except Deny (Nat × List Loc) :=
  let t := dFmt n
  match s.rangeLocs m (elemAddr n c).toNat (elemBytes t) with
  | .error e => .error e
  | .ok ls => .ok (elemCode n c (s.locBytes ls), ls)

/-- Read listed coordinates in order; those outside the tensor take FILL and make no access. -/
def State.readElems (s : State) (m : Mode) (n : Nat) : List Coord → Except Deny (List Nat × List Loc)
  | [] => .ok ([], [])
  | c :: r =>
    match if inRange n c then s.readElem m n c else .ok (dFill n, []) with
    | .error e => .error e
    | .ok (x, ls) => match State.readElems s m n r with
      | .error e => .error e
      | .ok (xs, ms) => .ok (x :: xs, ls ++ ms)

/-- The cells of an element written over what its bytes hold, `done` being the cells written before it. -/
def State.elemCells (s : State) (done : List (Nat × Host.Cell)) (t code : Nat) (c : Coord) (va : Nat) (ls : List Loc) :
    List (Nat × Host.Cell) :=
  match tagBits t, ls with
  | 4, l :: _ =>
    let old := match done.find? fun x => x.2.1 == l.key with
      | some x => x.2.2
      | none => s.byteAfter l.key
    let b := if elemHigh c then old.toNat % 16 + 16 * (code % 16) else old.toNat / 16 * 16 + code % 16
    [(va, (l.key, BitVec.ofNat 8 b))]
  | _, ls => (upTo ls.length).zipWith (fun i (p : Loc × Byte) => (va + i, (p.1.key, p.2))) (ls.zip (bytesOf (elemBytes t) code))

/-- The bytes that an element of 4 bits is merged into (spec/11 R310). -/
def nibbleKeys (t : Nat) (keys : List Nat) : List Nat := if tagBits t == 4 then keys.eraseDups else []

/-- Check and write listed elements in order; those outside the tensor are dropped.  The result is the cells, newest
first. -/
def State.writeElems (s : State) (m : Mode) (n : Nat) (done : List (Nat × Host.Cell)) :
    List (Coord × Nat) → Except Deny (List (Nat × Host.Cell))
  | [] => .ok done
  | (c, x) :: r =>
    if inRange n c then
      let va := (elemAddr n c).toNat
      match s.rangeLocs m va (elemBytes (dFmt n)) with
      | .error e => .error e
      | .ok ls => State.writeElems s m n ((s.elemCells done (dFmt n) x c va ls).reverse ++ done) r
    else State.writeElems s m n done r

/-! ### Sidecars (spec/05 R149) -/

/-- The CRC blocks that hold the listed coordinates of a dense tensor, rising. -/
def crcBlocks (n : Nat) (cs : List Coord) : List Nat :=
  let bs := (cs.filter (inRange n)).map fun c => ((elemAddr n c).toNat - dBase n) / 4096
  sortNat (bs.foldl (fun (a : List Nat) b => if a.contains b then a else b :: a) [])

/-- Check block `j` of a dense tensor against its sidecar word: the CRC cause carries the block's address. -/
def State.crcCheck (s : State) (m : Mode) (n j : Nat) : Except Deny Unit :=
  let va := dBase n + 4096 * j
  match s.rangeLocs m va (min 4096 (dBytes n - 4096 * j)) with
  | .error e => .error e
  | .ok ls => match s.rangeLocs m (dSidecar n + 8 * j) 8 with
    | .error e => .error e
    | .ok ws =>
      if (crc64 (s.locBytes ls)).toNat == ofBytes (s.locBytes ws) then .ok ()
      else .error (.cause { code := 12, i0 := word va })

/-- Check every listed block. -/
def State.crcChecks (s : State) (m : Mode) (n : Nat) : List Nat → Except Deny Unit
  | [] => .ok ()
  | j :: r => match s.crcCheck m n j with
    | .error e => .error e
    | .ok _ => State.crcChecks s m n r

end Sys2Proof.Machine
end

