-- ==== Sys2Proof/Machine/Runs.lean ====
section
/-! DEFINITION. Runs and tiles: the run lists of v and m registers (spec/01 R24; spec/06 R156 to R167), and the places
of elements and scales in a tile unit (spec/01 R25; spec/07 R195). -/

namespace Sys2Proof.Machine

/-! ### Runs -/

/-- The runs of positions [lo, lo + n) of a run list. -/
def sliceRuns (lo n : Nat) : List Run → List Run
  | [] => []
  | r :: rs =>
    let skip := min lo r.cnt
    let take := min n (r.cnt - skip)
    let rest := sliceRuns (lo - skip) (n - take) rs
    if take == 0 then rest else { val := r.val, cnt := take } :: rest

/-- FORMAT with the clause position and a code (spec/07 R194; notes/assumptions/14.md). -/
def cFormat (pos code : Nat) : Cause := { code := 3, i0 := word pos, i1 := word code }

/-- VLEN with two lengths (spec/06 R161). -/
def cVlen (pos l1 l2 : Nat) : Cause := { code := 4, i0 := word pos, i1 := word l1, i2 := word l2 }

/-- RUN_CAP (spec/06 R157). -/
def cRunCap (pos n dest cap : Nat) : Cause := { code := 5, i0 := word pos, i1 := word n, i2 := word dest, i3 := word cap }

/-! ### Tiles (spec/01 R25; spec/07 R195) -/

/-- The byte of element (r, e) and of scale (r, k) in the unit. -/
def tElemOff (w : Word) (r e : Nat) : Nat := r * tRowb w + spanBytes (tFmt w) e
def tScaleOff (w : Word) (r k : Nat) : Nat := tRows w * tRowb w + r * tScales w + k

/-- Element (r, e) of a unit of shape `w`. -/
def tGet (w : Word) (m : Mem) (r e : Nat) : Nat :=
  let t := tFmt w
  let x := ofBytes (Mem.bytes m (tElemOff w r e) (elemBytes t))
  if tagBits t == 4 then x / 16 ^ (e % 2) % 16 else x

/-- Write element (r, e). -/
def tPut (w : Word) (m : Mem) (r e code : Nat) : Mem :=
  let t := tFmt w
  let o := tElemOff w r e
  if tagBits t == 4 then
    let old := (Mem.read m o).toNat
    Mem.write m o (BitVec.ofNat 8 (if e % 2 == 1 then old % 16 + 16 * (code % 16) else old / 16 * 16 + code % 16))
  else Mem.writeCells m (cellsAt o (bytesOf (elemBytes t) code))

/-- Scale (r, k), and writing it. -/
def tGetScale (w : Word) (m : Mem) (r k : Nat) : Nat := (Mem.read m (tScaleOff w r k)).toNat
def tPutScale (w : Word) (m : Mem) (r k code : Nat) : Mem := Mem.write m (tScaleOff w r k) (BitVec.ofNat 8 code)

/-- Row `r` of a tile as codes. -/
def tRow (w : Word) (m : Mem) (r : Nat) : List Nat := (upTo (tElems w)).map fun e => tGet w m r e

/-- Scales of row `r`. -/
def tScaleRow (w : Word) (m : Mem) (r : Nat) : List Nat := (upTo (tScales w)).map fun k => tGetScale w m r k

end Sys2Proof.Machine
end

