-- ==== Sys2Proof/Machine/Queues.lean ====
section
/-! DEFINITION. Stream registers (spec/05 R137 to R142): binding images, the walk and operator chain of a unit, encoded
data, and pops. -/

namespace Sys2Proof.Machine

/-! ### Fields of a binding image (spec/05 R137) -/

def bCount (b k : Nat) : Nat := bits b (128 + 64 * k + 23) (128 + 64 * k)
def bDim (b k : Nat) : Nat := bits b (128 + 64 * k + 26) (128 + 64 * k + 24)
def bStep (b k : Nat) : Int := signed 24 (bits b (128 + 64 * k + 55) (128 + 64 * k + 32))
def bProws (b : Nat) : Nat := bits b 392 384
def bPelems (b : Nat) : Nat := bits b 415 400
def bOutfmt (b : Nat) : Nat := bits b 484 480
def bCons (b : Nat) : Bool := bit b 488
def bXr (b : Nat) : Nat := bits b 492 489
def bScale (b : Nat) : Nat := bits b 511 496
def bOp (b k : Nat) : Nat := bits b (416 + 16 * k + 3) (416 + 16 * k)
def bParam (b k : Nat) : Nat := bits b (416 + 16 * k + 15) (416 + 16 * k + 4)

/-- Origin of a binding. -/
def bOrigin (b : Nat) : Coord :=
  [signed 32 (bits b 31 0), signed 32 (bits b 63 32), bits b 84 64, bits b 105 85, bits b 126 106]

/-- The steps of the chain: operation and parameter, up to the first OP 0. -/
def bChain (b : Nat) : List (Nat × Nat) := ((upTo 4).map fun k => (bOp b k, bParam b k)).takeWhile fun x => x.1 != 0

/-- Whether a chain is refused (spec/05 R139), for a descriptor image `d`; and the unit's format after it. -/
def chainCheck (d b : Nat) : List (Nat × Nat) → Nat → Nat → Bool × Nat
  | [], _, t => (false, t)
  | (op, pa) :: r, k, t =>
    let crc0 := k == 1 && bOp b 0 == 6
    let here := match op with
      | 1 => !(k == 0 || crc0) || pa != 0 || dLayout d != 0
      | 2 => !(k == 0 || crc0) || bits pa 3 0 == 0 || 8 < bits pa 3 0 || 15 < pa || t < 2 || 4 < t
      | 3 => 3 < pa || !vTag (bOutfmt b)
      | 4 => pa != 0 || isIntTag t
      | 5 => pa != 0 || 256 < bProws b || 256 < bPelems b
      | 6 => k != 0 || pa != 0 || !dDense d || !dSideOk d
      | _ => true
    let rest := chainCheck d b r (k + 1) (if op == 3 then bOutfmt b else t)
    (here || rest.1, rest.2)

/-- The format of the units of a binding (spec/05 R139). -/
def bFmt (d b : Nat) : Nat := (chainCheck d b (bChain b) 0 (dFmt d)).2

/-- Whether a binding image is malformed (spec/05 R137; DESC reason 9). -/
def bindingBad (d b : Nat) : Bool :=
  bits b 495 493 != 0 || bits b 487 485 != 0 || bits b 399 393 != 0 || bit b 127
    || (upTo 4).any (fun k => bCount b k == 0 || 4 < bDim b k || bits b (128 + 64 * k + 31) (128 + 64 * k + 27) != 0
        || bits b (128 + 64 * k + 63) (128 + 64 * k + 56) != 0)
    || bPelems b == 0 || bProws b == 0 || 256 < bProws b
    || (!bCons b && 65535 < bProws b * bPelems b)
    || (bCons b && 2048 < bPelems b * tagBits (bFmt d b))
    || (upTo 4).any (fun k => (bChain b).length ≤ k && bits b (416 + 16 * k + 15) (416 + 16 * k) != 0)
    || (chainCheck d b (bChain b) 0 (dFmt d)).1

/-- The decode step of a chain: none, DECRUN, or DECBIT with its width. -/
def bDecode (b : Nat) : Option (Option Nat) :=
  (bChain b).findSome? fun x => if x.1 == 1 then some none else if x.1 == 2 then some (some (bits x.2 3 0)) else none

/-- Whether the chain is exactly DECRUN, or CRCCHK and DECRUN (spec/06 R167). -/
def bRunsKept (b : Nat) : Bool :=
  match (bChain b).map (·.1) with
  | [1] => true
  | [6, 1] => true
  | _ => false

/-! ### Encoded data (spec/05 R140) -/

def cExpand (va reason : Nat) : Cause := { code := 11, i0 := word va, i1 := word reason }

/-- Elements in a run list. -/
def runsLen (l : List Run) : Nat := l.foldl (fun a r => a + r.cnt) 0

/-- The runs of a DECRUN payload, or why they break R140. -/
def decRuns (t dcount : Nat) (bs : List Byte) : Option (List Run) :=
  let ws := (chunks 8 bs.length bs).map ofBytes
  let rs := ws.map fun w => ({ val := w % 2 ^ 32 % 2 ^ tagBits t, cnt := bits w 47 32 } : Run)
  if bs.length % 8 != 0 || ws.any (fun w => bits w 47 32 == 0 || bits w 63 48 != 0) || runsLen rs != dcount then none else some rs

/-- The fields of a DECBIT payload as runs of one element. -/
def decBits (w dcount : Nat) (bs : List Byte) : Option (List Run) :=
  let n := ofBytes bs
  if bs.length != ceilDiv (dcount * w) 8 then none
  else some ((upTo dcount).map fun i => { val := n / 2 ^ (i * w) % 2 ^ w, cnt := 1 })

/-- Before the decoder takes the `n` bytes at `va`, CRCCHK verifies the 4 KiB blocks of the tensor that hold them (spec/05 R139,
R149); bytes past the tensor's N bytes lie in no block (DESIGN CHOICE, notes/assumptions/70.md). -/
def State.crcSpan (s : State) (m : Mode) (d b va n : Nat) : Except Deny Unit :=
  if bOp b 0 != 6 || n == 0 then .ok ()
  else
    let lo := (va - dBase d) / 4096
    s.crcChecks m d (((upTo ((va + n - 1 - dBase d) / 4096 + 1 - lo)).map (lo + ·)).filter fun j => 4096 * j < dBytes d)

/-- Decode blocks from `va` until `need` elements are there (spec/05 R140): at most `fuel` blocks.  Of several reasons that a header
gives, 1 comes first, then 3, then 2 (DESIGN CHOICE, notes/assumptions/69.md). -/
def State.decodeBlocks (s : State) (m : Mode) (d b : Nat) (kind : Option Nat) (need : Nat) :
    Nat → Nat → List Run → Except Deny (List Run)
  | 0, _, acc => .ok acc
  | fuel + 1, va, acc =>
    if need ≤ runsLen acc then .ok acc
    else match s.crcSpan m d b va 8, s.rangeLocs m va 8 with
      | .error e, _ => .error e
      | _, .error e => .error e
      | .ok _, .ok hl =>
        let h := ofBytes (s.locBytes hl)
        let dcount := bits h 23 0
        let elen := bits h 47 24
        if (bXr b + 1) * elen < ceilDiv (dcount * tagBits (dFmt d)) 8 then .error (.cause (cExpand va 1))
        else if 65536 < elen || dcount == 0 then .error (.cause (cExpand va 3))
        else if bits h 63 48 != 0 then .error (.cause (cExpand va 2))
        else match s.crcSpan m d b (va + 8) elen, s.rangeLocs m (va + 8) elen with
          | .error e, _ => .error e
          | _, .error e => .error e
          | .ok _, .ok pl =>
            let bs := s.locBytes pl
            match (match kind with
              | none => decRuns (dFmt d) dcount bs
              | some w => decBits w dcount bs) with
            | none => .error (.cause (cExpand va 2))
            | some rs => State.decodeBlocks s m d b kind need fuel (ceilDiv (va + 8 + elen) 8 * 8)
                (acc ++ rs)

/-! ### Units (spec/05 R138, R139) -/

/-- The coordinates of unit `u` in row-major order, and the rows' first coordinates. -/
def unitOrigin (b u : Nat) : Coord :=
  let c0 := bCount b 0
  let c1 := bCount b 1
  let c2 := bCount b 2
  let ns := [u % c0, u / c0 % c1, u / (c0 * c1) % c2, u / (c0 * c1 * c2)]
  (upTo 4).foldl (fun o k => o.modify (bDim b k) (· + (ns.getD k 0 : Int) * bStep b k)) (bOrigin b)

/-- The elements of a unit before its chain: codes, row validity, its decoded runs where there are any, and the blocks of plain data
that CRCCHK has yet to verify. -/
structure RawUnit where
  codes : List Nat
  valid : List Bool
  runs : List Run := []
  blocks : List Nat := []
  deriving DecidableEq, Repr, Inhabited

/-- A unit of plain data (spec/05 R138). -/
def State.plainUnit (s : State) (m : Mode) (d b u : Nat) : Except Deny RawUnit :=
  let o := unitOrigin b u
  let cs := (upTo (bProws b)).flatMap fun r => (upTo (bPelems b)).map fun e => o.shift e r
  match s.readElems m d cs with
  | .error e => .error e
  | .ok (xs, _) =>
    let valid := (upTo (bProws b)).map fun r => inRange d ((o.shift 0 r).set 0 0)
    .ok { codes := xs, valid := valid, blocks := crcBlocks d cs }

/-- A unit of a decoded sequence (spec/05 R138, R140). -/
def State.decodedUnit (s : State) (m : Mode) (d b u : Nat) (kind : Option Nat) : Except Deny RawUnit :=
  let z := bProws b * bPelems b
  let total := dCount d
  let lo := u * z
  let have_ := min z (total - lo)
  match s.decodeBlocks m d b kind (min total (lo + z)) (lo + z + 1) (dBase d) [] with
  | .error e => .error e
  | .ok r =>
    let part := sliceRuns lo have_ r
    let fill := if have_ < z then [({ val := dFill d, cnt := z - have_ } : Run)] else []
    .ok { codes := flatRuns (part ++ fill), runs := part ++ fill
          valid := (upTo (bProws b)).map fun i => lo + i * bPelems b < total }

/-- One chain step on a unit: codes, validity, rows, elements per row, tag and flags.  `ftz` is FTZ of the consuming
stream. -/
def chainStep (b : Nat) (ftz : Bool) (q : QUnit) (x : Nat × Nat) : QUnit :=
  match x.1 with
  | 3 =>
    let t := bOutfmt b
    let rs := q.codes.map fun c =>
      let v := tagVal q.tag c
      let r := roundTag t (fixedMode x.2) ftz v
      (r.1, r.2 ||| fIf v.isSig fINV)
    { q with codes := rs.map (·.1), flags := rs.foldl (fun a r => a ||| r.2) q.flags, tag := t }
  | 4 =>
    let k := fmtBF16.decode (bScale b)
    let rs := q.codes.map fun c =>
      let p := (tagVal q.tag c).mul k
      let r := roundTag q.tag .nearest ftz p.1
      (r.1, p.2 ||| r.2)
    { q with codes := rs.map (·.1), flags := rs.foldl (fun a r => a ||| r.2) q.flags }
  | 5 =>
    { q with
      codes := (upTo q.elems).flatMap fun e => (upTo q.rows).map fun r => q.codes.getD (r * q.elems + e) 0
      rows := q.elems, elems := q.rows, valid := (upTo q.elems).map fun _ => true }
  | _ => q

/-- A unit fetched and transformed, or what its pop will raise (spec/05 R138 to R141). -/
def State.fetchUnit (s : State) (w : Who) (q : QReg) (u : Nat) : Except Deny QUnit :=
  let d := q.desc.toNat
  let b := q.bind.toNat
  let m : Mode := { who := w, kind := .read, home := false, watch := false }
  let raw := match bDecode b with
    | none => s.plainUnit m d b u
    | some kind => s.decodedUnit m d b u kind
  match raw with
  | .error e => .error e
  | .ok r =>
    match if bOp b 0 == 6 then s.crcChecks m d r.blocks else .ok () with
    | .error e => .error e
    | .ok _ =>
      let q0 : QUnit := { rows := bProws b, elems := bPelems b, tag := dFmt d, codes := r.codes, valid := r.valid
                          runs := r.runs, asRuns := bRunsKept b }
      .ok ((bChain b).foldl (chainStep b (wbit ((s.core w.core).strm (if bCons b then .m else .v)).ctl 3)) q0)

/-! ### Pops (spec/05 R141; spec/06 R167) -/

def cStream (code : Nat) : Cause := { code := 20, i1 := word code }

/-- The next unit of stream register `n` for the moving stream, `ahead` pops of this clause before it; none while it is
not fetched. -/
def State.popUnit (s : State) (n ahead : Nat) : Except Cause (Option QUnit) :=
  let q := s.vw.qreg n
  if !q.bound then .error (cStream 0)
  else if bCons q.bind.toNat != (s.cur.strm == .m) then .error (cStream 1)
  else if ((upTo 4).foldl (fun a k => a * bCount q.bind.toNat k) 1) ≤ q.popped + ahead then .error (cStream 2)
  else match q.units[ahead]? with
    | none => .ok none
    | some u => match u.fault with
      | some c => .error c
      | none => .ok (some u)

/-- Pops of a stream register that lower positions of the clause make. -/
def State.poppedHere (s : State) (n : Nat) : Nat :=
  (s.cl.effs.filter fun e => match e with
    | .qpop k => k == n
    | _ => false).length

/-- A unit as a vector (spec/06 R167). -/
def QUnit.vec (u : QUnit) : VReg := if u.asRuns then { tag := u.tag, runs := u.runs } else VReg.ofCodes u.tag u.codes

end Sys2Proof.Machine
end

