-- ==== Sys2Proof/Machine/Copies.lean ====
section
/-! DEFINITION. Asynchronous copies and barrier objects (spec/05 R143 to R155): moving elements, sidecars and credits,
suspended channels and their retry, completion. -/

namespace Sys2Proof.Machine

/-! ### Writes of copies -/

/-- Lines of a core's sector that these cells touch leave its read buffer (spec/10 R288). -/
def State.dropTouched (s : State) (c : Nat) (cells : List Host.Cell) : State :=
  s.dropLines (sectorOf c) fun k => cells.any fun x => x.1 / 256 * 256 == k

/-- The Vomel port of a copy's write to a peer. -/
def State.copyPort (s : State) (c : Nat) (cells : List Host.Cell) (va : Nat) : Option Nat :=
  match cells, s.xlate { s.who c with super := true } va .write with
  | x :: _, .ok l => if x.1 < 2 ^ 80 then none else s.peerPort (l.link - 16) l.pa
  | _, _ => none

/-- Bytes written by transfer `t` of core `c`: on a Vomel port they wait for the peer's answer (spec/16 R425), a barrier's credit has
it at once. -/
def State.copyStore (s : State) (c : Nat) (t : Transfer) (how : How) (own : List Rel) (bar : Option (Nat × Bool))
    (cells : List Host.Cell) (va : Nat) : State :=
  let a := copyAgent c t.chan t.ident
  if s.badCells (s.core c).cont.asid cells then { s with ues := s.ues ++ [(s.core c).issuer va] }
  else match s.copyPort c cells va with
    | some k => { s with dev := { s.dev with farWrites := s.dev.farWrites ++ [{ port := k, core := c, cells := cells, who := (s.core c).issuer va
                                                                                agent := a, how := how, rels := s.carries a (cells.map (·.1)) }] } }
    | none => (s.performBy a how own bar false cells).dropTouched c cells

/-! ### The control word (spec/05 R143, R144) -/

def ctlScope (w : Word) : Nat := field w 3 0
def ctlBar (w : Word) : Bool := wbit w 4
def ctlAddr (w : Word) : Nat := field w 63 8 * 16

/-- Whether a control word is malformed (DESC reason 11). -/
def ctlBad (w : Word) : Bool :=
  10 < ctlScope w || field w 7 5 != 0 || (if ctlBar w then 2 ^ 56 ≤ ctlAddr w else field w 63 8 != 0)

/-! ### One transfer -/

/-- The accesses of a transfer (spec/05 R145; spec/10 R288, R293). -/
def State.copyMode (s : State) (n : Nat) (t : Transfer) (k : Kind) : Mode :=
  { who := { s.who n with super := t.sup, agent := copyAgent n t.chan t.ident }, kind := k, home := true, watch := false }

/-- Elements a transfer moves, and the bytes of the barrier credit (spec/05 R144). -/
def Transfer.count (t : Transfer) : Nat := dCount t.src.toNat
def Transfer.bytes (t : Transfer) : Nat :=
  let n := t.src.toNat
  if t.tile.isSome then packedBytes (dFmt n) t.count
  else if tagBits (dFmt n) == 4 then
    let d := t.dst.toNat
    ceilDiv (dExtent d 0) 2 * (dCount d / dExtent d 0)
  else t.count * elemBytes (dFmt n)

/-- The bytes of some locations as a transfer reads them: each sector is read in one piece (spec/11 R311). -/
def State.copyRead (s : State) (t : Transfer) (ls : List Loc) : List Byte :=
  ls.map fun l => match t.line with
    | some (u, bs) => if l.key / 32 == u then bs.getD (l.key % 32) 0 else s.loadByte s.cur.core l
    | none => s.loadByte s.cur.core l

/-- The transfer with the sector of a location read, unless it has it. -/
def State.copyLine (s : State) (t : Transfer) (ls : List Loc) : Transfer :=
  match ls with
  | [] => t
  | l :: _ =>
    if t.line.any fun x => x.1 == l.key / 32 then t
    else { t with line := some (l.key / 32, (upTo 32).map fun i => s.loadByte s.cur.core { l with key := l.key / 32 * 32 + i }) }

/-- One byte or nibble joins what a transfer has yet to write. -/
def outPut (l : List (Nat × Nat × Nat × Nat)) (k v mask va : Nat) : List (Nat × Nat × Nat × Nat) :=
  if l.any fun x => x.1 == k then
    l.map fun x => if x.1 == k then (k, (x.2.1 &&& (255 - mask)) ||| v, x.2.2.1 ||| mask, va) else x
  else l ++ [(k, v, mask, va)]

/-- Bytes of one sector that a transfer has yet to write are written, a nibble leaving the other as it is (spec/11 R310).  A sector
written whole becomes correct; part of an uncorrectable one is not written, and is reported (spec/12 R331). -/
def State.flushSector (s : State) (c : Nat) (t : Transfer) (l : List (Nat × Nat × Nat × Nat)) : State :=
  let cells := l.map fun x => (x.1, BitVec.ofNat 8 (((Mem.read s.mem x.1).toNat &&& (255 - x.2.2.1)) ||| x.2.1))
  let whole := (l.zip cells).filterMap fun x => if x.1.2.2.1 == 255 then some x.2 else none
  let part := l.any fun x => x.2.2.1 != 255 && s.ueAt x.1 1 && !covers whole (x.1 / 32 * 32) 32
  let va := ((l.map fun x => x.2.2.2).head?).getD 0
  if part then { s with ues := s.ues ++ [(s.core c).issuer va] } else s.copyStore c t {} [] none cells va

/-- What a transfer has yet to write is written, sector by sector. -/
def State.copyFlush (s : State) (c : Nat) (t : Transfer) : State × Transfer :=
  ((t.out.map fun x => x.1 / 32).eraseDups.foldl (fun s u => s.flushSector c t (t.out.filter fun x => x.1 / 32 == u)) s,
    { t with out := [] })

/-- The first byte that a transfer has yet to write and cannot reach now. -/
def State.outOwned (s : State) (t : Transfer) : Option Nat := (t.out.map (·.1)).find? s.owned

/-- Whether another transfer has written element `j` of tile `k` (spec/05 R146). -/
def Core.tileAlso (c : Core) (k j : Nat) (t : Transfer) : Bool :=
  c.copy.ch.toList.any fun h => h.queue.any fun o => o.tile == some k && (o.chan, o.ident) != (t.chan, t.ident) && j < o.prog

/-- A transfer writes element `j` of tile `k`: where another transfer has, either value stays. -/
def State.copyTile (s : State) (c : Nat) (t : Transfer) (k j v : Nat) : State :=
  s.onCore c fun x =>
    let w := (x.tile k).shape
    let y := x.copyPast k t.chan t.ident
    if Core.tileAlso x k j t && Config.late s.free j then y
    else y.setT k { x.tile k with data := tPut w (x.tile k).data (j / tElems w) (j % tElems w) v }

/-- Move element `j` of a transfer of core `c`. -/
def State.copyElem (s : State) (c : Nat) (t : Transfer) (j : Nat) : Except Deny (State × Transfer) :=
  let n := t.src.toNat
  let rd := s.copyMode c t .read
  let co := coordOf n j
  let verify := t.check && spanBytes (dFmt n) j % 4096 == 0 && (tagBits (dFmt n) != 4 || j % 2 == 0)
  match if verify then s.crcCheck rd n (spanBytes (dFmt n) j / 4096) else .ok () with
  | .error e => .error e
  | .ok _ => match s.rangeLocs rd (elemAddr n co).toNat (elemBytes (dFmt n)) with
    | .error e => .error e
    | .ok src =>
      let t := s.copyLine t src
      let v := elemCode n co (s.copyRead t src)
      match t.tile with
      | some k => .ok (s.copyTile c t k j v, t)
      | none =>
        let d := t.dst.toNat
        let cd := coordOf d j
        let va := (elemAddr d cd).toNat
        match s.rangeLocs (s.copyMode c t .write) va (elemBytes (dFmt d)) with
        | .error e => .error e
        | .ok [] => .ok (s, t)
        | .ok (l :: ls) =>
          let other := t.out.any fun x => x.1 / 32 != l.key / 32
          match if other then s.outOwned t else none with
          | some k => .error (.busy k)
          | none =>
            let st := if other then s.copyFlush c t else (s, t)
            let out := if tagBits (dFmt d) == 4 then
                outPut st.2.out l.key (if elemHigh cd then 16 * (v % 16) else v % 16) (if elemHigh cd then 240 else 15) va
              else ((l :: ls).zip (bytesOf (elemBytes (dFmt d)) v)).zipIdx.foldl (fun o p => outPut o p.1.1.key p.1.2.toNat 255 (va + p.2)) st.2.out
            .ok (st.1, { st.2 with out := out })

/-- Write the sidecar word of destination block `j` (spec/05 R149). -/
def State.copySide (s : State) (c : Nat) (t : Transfer) (j : Nat) : Except Deny State :=
  let d := t.dst.toNat
  let va := dBase d + 4096 * j
  match s.rangeLocs (s.copyMode c t .write) va (min 4096 (dBytes d - 4096 * j)) with
  | .error e => .error e
  | .ok ls => match s.rangeLocs (s.copyMode c t .write) (dSidecar d + 8 * j) 8 with
    | .error e => .error e
    | .ok ws =>
      let v := crc64 (ls.map fun l => Mem.read s.mem l.key)
      .ok (s.copyStore c t {} [] none (ws.zipWith (fun l b => (l.key, b)) (bytesOf 8 v.toNat)) (dSidecar d + 8 * j))

/-- The completion release of a transfer: what it has written, at SCOPE (spec/05 R145; spec/11 R307). -/
def State.copyRels (s : State) (c : Nat) (t : Transfer) : List Rel :=
  let a := copyAgent c t.chan t.ident
  match (s.hist.filter (·.by_ == a)).map (·.id) with
  | [] => []
  | ids => [{ by_ := a, scope := ctlScope t.ctl, view := ids.foldl View.learn {} }]

/-- Credit the barrier of a transfer (spec/05 R148, R153). -/
def State.copyCredit (s : State) (c : Nat) (t : Transfer) : Except Deny State :=
  let a := ctlAddr t.ctl
  if s.farBusy (copyAgent c t.chan t.ident) then .error (.busy noKey)
  else match s.rangeLocs (s.copyMode c t .atomic) a 16 with
  | .error (.cause e) => .error (.cause { e with i0 := word a })
  | .error (.busy k) => .error (.busy k)
  | .ok ls =>
    let o := ofBytes (ls.map fun l => Mem.read s.mem l.key)
    .ok (s.copyStore c t { grain := 0 } (s.copyRels c t) (some (barFlips o t.bytes))
      (ls.zipWith (fun l b => (l.key, b)) (bytesOf 16 (barCredit o t.bytes))) a)

/-- Sidecar words a transfer writes. -/
def Transfer.sides (t : Transfer) : Nat := if t.crc then ceilDiv (dBytes t.dst.toNat) 4096 else 0

/-- Steps of a transfer: its elements, then its sidecar words, then its credit. -/
def Transfer.steps (t : Transfer) : Nat := t.count + t.sides + b2n (ctlBar t.ctl)

/-- Whether a cause is the far side's: MEM_UE of an access that it or its link does not carry (spec/10 R298). -/
def State.farFault (s : State) (w : Who) (e : Cause) : Bool :=
  e.code == 13 && e.i2 == 0 && match s.xlate { w with super := true } e.i0.toNat .read with
    | .ok l => s.refuses l.asid l.key || (l.target == 2 && s.cutOff (l.link - 16) l.pa)
    | .error _ => false

/-- A step that is over: after the last element, what has yet to be written is. -/
def State.copyNext (s : State) (c : Nat) (t : Transfer) : Except Deny (State × Transfer) :=
  let u := { t with prog := t.prog + 1 }
  if u.prog != t.count then .ok (s, u)
  else match s.outOwned t with
    | some k => .error (.busy k)
    | none => .ok (s.copyFlush c u)

/-- One step of a transfer, with the transfer after it.  One that the far side does not carry is not performed, and is reported to
the context as a write is (spec/10 R298). -/
def State.copyStep (s : State) (c : Nat) (t : Transfer) : Except Deny (State × Transfer) :=
  match if t.prog < t.count then s.copyElem c t t.prog
    else (if t.prog < t.count + t.sides then s.copySide c t (t.prog - t.count) else s.copyCredit c t).map fun s => (s, t) with
  | .error (.cause e) =>
    if s.farFault (s.who c) e then { s with ues := s.ues ++ [(s.core c).issuer e.i0.toNat] }.copyNext c t
    else .error (.cause e)
  | .error d => .error d
  | .ok (s, t) => s.copyNext c t

/-! ### Channels -/

/-- Replace the transfer with its identifier in the queue. -/
def Channel.setTr (h : Channel) (t : Transfer) : Channel :=
  { h with queue := h.queue.map fun x => if x.ident == t.ident then t else x }

/-- A transfer has completed. -/
def Channel.complete (h : Channel) (ident : Nat) : Channel :=
  Channel.advance { h with queue := h.queue.filter (·.ident != ident), done := h.done ++ [ident] } (h.done.length + 1)

/-- Transfer `ident` waits: its channel is suspended, and it is the failing transfer or a later one (spec/05 R148). -/
def Channel.behind (h : Channel) (ident : Nat) : Bool :=
  h.susp.isSome && h.queue.head?.all fun t => decide (t.ident ≤ ident)

/-- A cause with the channel and the identifier of a copy (spec/05 R148); the detail of a translation fault stays (spec/10 R295). -/
def copyCause (c : Cause) (ch ident : Nat) : Cause :=
  let keep := c.code == 8 || c.code == 9
  { c with i1 := word (ch + ident * 2 ^ 16), i2 := if keep then c.i2 else 0, i3 := if keep then c.i3 else 0 }

/-- A transfer that has written all of its tile has renewed its storage. -/
def State.filledTile (s : State) (c : Nat) (t : Transfer) : State :=
  if t.prog < t.count then s
  else { s with flaws := s.flaws.filter fun f => f.core != c || (match f.store with
    | .tile u _ => t.tile != some u
    | _ => true) }

/-- What driving a transfer came to. -/
inductive Drive where
  | moved (s : State)
  | failed (s : State) (c : Cause)

/-- The first byte that some transfer of core `c` has yet to write and cannot reach now (spec/12 R319). -/
def State.copiesOwned (s : State) (c : Nat) : Option Nat :=
  ((s.core c).copy.ch.toList.flatMap (·.queue)).findSome? s.outOwned

/-- A transfer after a step: it completes after its last, once its writes to peers are acknowledged (spec/05 R145). -/
def State.copyEnd (s : State) (c ch : Nat) (t : Transfer) : State :=
  s.onCore c fun x => x.setChan ch
    (if t.steps ≤ t.prog && !s.farBusy (copyAgent c t.chan t.ident) then (x.chan ch).complete t.ident else (x.chan ch).setTr t)

/-- Drive transfer `ident` of a channel by up to `fuel` steps: it completes after its last one, stops while an engine
holds a row, and at a failure leaves the failing step undone, once what it has moved can be written. -/
def State.drive (s : State) (c ch ident : Nat) : Nat → Drive
  | 0 => .moved s
  | fuel + 1 =>
    let h := (s.core c).chan ch
    match h.queue.find? fun t => t.ident == ident with
    | none => .moved s
    | some t =>
      if t.steps ≤ t.prog then .moved (s.copyEnd c ch t)
      else match s.copyStep c t with
      | .error (.busy k) => .moved (s.want k)
      | .error (.cause e) => match s.copiesOwned c with
        | some k => .moved (s.want k)
        | none => .failed s (copyCause e ch ident)
      | .ok (s, t) =>
        State.drive ((s.filledTile c t).copyEnd c ch t) c ch ident fuel

/-- Every transfer of a core writes what it has moved (spec/05 R148; spec/13 R361). -/
def State.flushCopies (s : State) (c : Nat) : State :=
  (upTo 8).foldl (fun s ch =>
    ((s.core c).chan ch).queue.foldl (fun s t =>
      let q := s.copyFlush c t
      q.1.onCore c fun x => x.setChan ch ((x.chan ch).setTr q.2)) s) s

/-- Suspend a channel with the failing transfer at the head of its queue, and make the cause pending (spec/05 R148): the elements
before the failing one are written. -/
def State.suspendChan (s : State) (c ch ident : Nat) (e : Cause) : State :=
  (((s.flushCopies c).meetCause c { e with i2 := 0 })).onCore c fun x =>
    let h := x.chan ch
    let q := (h.queue.filter (·.ident == ident)) ++ h.queue.filter (·.ident != ident)
    (x.setChan ch { h with susp := some e, queue := q.map fun t => { t with line := none } }).pend e

/-- Retry the failing step of a suspended channel once (spec/05 R148): the state with the channel going on, the cause again, or the
memory that the retry waits for. -/
def State.retryChan (s : State) (c ch : Nat) : Except Deny State :=
  let h := (s.core c).chan ch
  match h.susp, h.queue with
  | some _, t :: _ =>
    match s.copyStep c t with
    | .error (.busy k) => .error (.busy k)
    | .error (.cause e) => .error (.cause (copyCause e ch t.ident))
    | .ok (s, t) =>
      .ok (((s.filledTile c t).copyEnd c ch t).onCore c fun x => x.setChan ch { x.chan ch with susp := none })
  | _, _ => .ok s

/-- Retry every listed channel that is suspended: the first that fails or waits, or the state and whether any was. -/
def State.retryChans (s : State) : List Nat → Except Deny (State × Bool)
  | [] => .ok (s, false)
  | ch :: r =>
    if (s.me.chan ch).susp.isNone then State.retryChans s r
    else match s.retryChan s.cur.core ch with
      | .error e => .error e
      | .ok s => match State.retryChans s r with
        | .error e => .error e
        | .ok (s, _) => .ok (s, true)

/-- An instruction that waits on channels (spec/05 R148): each suspended one is retried once; a failure is raised
precisely, and after a success the clause waits again, at this position where a latch names what it waits for (spec/03 R445). -/
def State.withChans (s : State) (e late : Bool) (chs : List Nat) (go : State → State) : State :=
  match s.retryChans chs with
  | .error (.cause c) => s.finish e (.trap c)
  | .error (.busy k) => (if late then s.want k else s).finish e (if late then .stay else .again k)
  | .ok (s, true) => s.finish e (if late then .stay else .again noKey)
  | .ok (s, false) => go s

/-- Channels whose queued transfers would credit the barrier at `a`. -/
def Core.creditors (c : Core) (a : Nat) : List Nat :=
  (upTo 8).filter fun ch => (c.chan ch).queue.any fun x => ctlBar x.ctl && ctlAddr x.ctl == a

/-! ### Issue of a copy (spec/05 R144) -/

/-- The checks of a copy between two images, or into tile `k`, in the order of R144. -/
def copyCheck (src : Nat) (dst : Nat ⊕ Tile) (ctl : Word) (crc check : Bool) : Option Cause :=
  let bad := fun (n : Nat) => some (cDesc 0 n)
  let mismatch := match dst with
    | .inl d => dFmt d != dFmt src || dCount d != dCount src
    | .inr t => tFmt t.shape != dFmt src || tRows t.shape * tElems t.shape != dCount src
  let closed := match dst with
    | .inl d => dBcast d || dNostore d
    | .inr _ => false
  let noSide := match dst with
    | .inl d => crc && !(dDense d && dSideOk d)
    | .inr _ => false
  if ctlBad ctl then bad 11
  else if mismatch then bad 6
  else if closed then bad 7
  else if noSide || (check && !(dDense src && dSideOk src)) then bad 8
  else none

/-- Transfers of a channel that the clause queues at its commit. -/
def State.queuedHere (s : State) (ch : Nat) (l : List Eff) : Nat :=
  ((s.cl.effs ++ l).filter fun e => match e with
    | .transfer k _ => k == ch
    | _ => false).length

end Sys2Proof.Machine
end

