-- ==== Sys2Proof/Machine/Flaws.lean ====
section
/-! DEFINITION. What an instruction reads of its core's storage, and REG_UE where an uncorrectable error lies in it (spec/08 R226;
spec/10 R285; spec/15 R392). -/

namespace Sys2Proof.Machine

/-- The m register of a mask, and old d where elements without the mask keep it (spec/06 R162). -/
def maskReads (m : Nat) : List (File × Nat) := if m == 0 then [] else [(.m, m)]
def oldReads (d m : Nat) (z : Bool) : List (File × Nat) := if m == 0 || z then [] else [(.v, d)]

/-- The two a registers of a tile's or vector's origin (spec/05 R133). -/
def originReads (k : Nat) : List (File × Nat) := [(.a, k), (.a, k + 1)]

/-- Registers that an instruction reads besides its sources: the old destination, a mask, and fields that name a register alone. -/
def moreReads : Instr → List (File × Nat)
  | .vadd f | .vsub f | .vmul f | .vdiv f | .vmin f | .vmax f | .vand f | .vor f | .vxor f | .vshl f | .vshr f =>
    maskReads f.m ++ oldReads f.d f.m f.z
  | .vfma f => (.v, f.d) :: maskReads f.m
  | .vcmp f => maskReads f.m ++ (if f.m == 0 || f.z then [] else [(.m, f.d)])
  | .vsel f => [(.m, f.m)]
  | .vmov f | .vneg f | .vabs f | .vsqrt f | .vexp2 f | .vlog2 f | .vrcp f | .vrsqrt f | .vtanh f | .vsigm f =>
    maskReads f.m ++ oldReads f.d f.m f.z
  | .vcvt f => maskReads f.m ++ oldReads f.d f.m f.z
  | .vrsum f | .vrmax f | .vrmin f => maskReads f.m
  | .vgather f => maskReads f.m ++ oldReads f.d f.m f.z
  | .vscatter f => (.v, f.d) :: maskReads f.m
  | .tdinfo f => [(.d, f.a)]
  | .tld f => (.d, f.a) :: originReads f.b
  | .tst f => (.d, f.a) :: (.t, f.d) :: originReads f.b
  | .vld f => (.d, f.a) :: originReads f.b
  | .vst f => (.d, f.a) :: (.v, f.d) :: originReads f.b
  | .qbind f => [(.d, f.a)]
  | .qpos f => [(.q, f.a)]
  | .tcopy f => [(.d, f.a), (.d, f.b), (.a, f.d)]
  | .tcopyTile f => [(.d, f.a), (.a, f.d)]
  | .mlds f => [(.t, f.a)]
  | .mldsSp f => [(.t, f.a), (.t, f.b)]
  | .mma f => [(.c, f.d)]
  | .mgo f => [(.c, f.d), (.x, f.b), (.x, f.b + 1)]
  | .maccCvt f | .maccRelu f => [(.c, f.a)]
  | .maccAdd f => [(.c, f.d), (.c, f.a)]
  | .maccScl f => [(.c, f.a)]
  | .maccLd f => [(.t, f.a)]
  | .susp _ | .suspBar _ | .yield _ | .eputW _ | .larmw _ => [(.x, 0), (.x, 1), (.x, 2)]
  | _ => []

/-- The registers an instruction of stream `k` reads, pops of stream registers among them. -/
def insReads (k : Strm) (i : Instr) : List (File × Nat) :=
  (insSrcs i).filterMap (fun x => match x.1 with
    | .reg n => some (fileIn k i x.2, n)
    | .queue n => some (.q, n)
    | .latch _ => none) ++ moreReads i

/-- Whether an instruction multiplies with the active plane. -/
def usesPlane : Instr → Bool
  | .mma _ => true
  | _ => false

/-- Whether an instruction of stream `k` reads the storage (spec/15 R392).  Scratch and the dictionary are met where they are read. -/
def Core.reads (c : Core) (k : Strm) (i : Instr) : Store → Bool
  | .s n => n != 0 && (insReads k i).contains (.s, n)
  | .a n => n != 0 && (insReads k i).contains (.a, n)
  | .x n => (insReads k i).contains (.x, n)
  | .d n => (insReads k i).contains (.d, n)
  | .q n => (insReads k i).contains (.q, n)
  | .run n _ => (insReads k i).contains (if n < 32 then (.v, n) else (.m, n - 32))
  | .acc n _ => (insReads k i).contains (.c, n)
  | .tile u o => (insReads k i).contains (.t, u) && o < tBytes (c.tile u).shape
  | .plane n => n == 0 && usesPlane i
  | .staging => k == .m && (c.strm k).prog.active
  | .dict _ | .scratch _ => false

/-- REG_UE of an instruction that the moving stream is about to run. -/
def State.flawIn (s : State) (i : Instr) : Option Cause :=
  s.regUe (s.flaws.filter fun f => f.core == s.cur.core && s.me.reads s.cur.strm i f.store)

/-- REG_UE of a dictionary pair (spec/03 R80). -/
def State.dictFlaw (s : State) (i j : Nat) : Option Cause :=
  s.regUe (s.flaws.filter fun f => f.core == s.cur.core && (f.store == .dict i || f.store == .dict j))

/-- REG_UE of a read of `n` bytes of the moving core's scratch from offset `o`. -/
def State.scratchFlaw (s : State) (o n : Nat) : Option Cause :=
  s.regUe (s.flaws.filter fun f => f.touches (scratchKey s.cur.core o) n)

/-- Every storage of core `c` is initialised. -/
def State.mendCore (s : State) (c : Nat) : State := { s with flaws := s.flaws.filter fun f => f.core != c }

/-- The errors in the storage of core `c`. -/
def State.flawsOf (s : State) (c : Nat) : List Store := (s.flaws.filter fun f => f.core == c).map (·.store)

end Sys2Proof.Machine
end

