-- ==== Sys2Proof/Machine/Fetch.lean ====
section
/-! DEFINITION. Who moves and what it runs: the turn, a stream's fetch, decode and clause checks, stalls before issue
and takes (spec/03 R67 to R84, R445), and an engine's next word (spec/09 R248, R249). -/

namespace Sys2Proof.Machine

/-- What a step has found to do: run an instruction, nothing, or stop. -/
inductive Ready where
  | run (i : Instr) (s : State)
  | idle (s : State)
  | stop (f : Fault)

/-! ### Fetch and decode -/

/-- Fetch one instruction word of the moving stream (spec/03 R74, R84): a loop body already in the loop buffer keeps
its words.  Of the old and the new word that R84 allows after software wrote the image, the word that memory holds now
(DESIGN CHOICE, notes/assumptions/66.md). -/
def State.fetchWord (s : State) (addr : Word) : Except Deny Nat :=
  let t := s.st
  if Tab.has t.buf addr.toNat then .ok (Tab.get t.buf addr.toNat 0)
  else match s.walkWaits s.me.cont.asid addr.toNat, s.xlate (s.who s.cur.core) addr.toNat .fetch with
    | some k, _ => .error (.busy k)
    | none, .error c => .error (.cause c)
    | none, .ok l =>
      if s.readBad l 4 then .error (.cause (s.badCause l 4 addr.toNat))
      else if s.owned l.key then .error (.busy l.key)
      else .ok (s.homeNum l.key 4)

/-- Whether an address lies in the body of an active loop of the moving stream. -/
def StreamSt.inLoop (t : StreamSt) (addr : Word) : Bool :=
  t.loops.any fun l => l.start.toNat ≤ addr.toNat && addr.toNat < l.stop.toNat

def cIllegal (code : Nat) : Cause := { code := 1, i0 := word code }

/-- The DICT cause of a PAIR word, from its two entries (spec/03 R81; spec/08 R226): codes 1, 2, 3 in turn, and before the
entries are decoded (DESIGN CHOICE, notes/assumptions/66.md). -/
def dictCause (i j w0 w1 : Nat) : Option Cause :=
  let c := fun (n : Nat) => some ({ code := 19, i0 := word n, i1 := word (i + j * 2 ^ 16) } : Cause)
  if w0 % 2 == 1 then c 1
  else if w0 / 2 ^ 26 == 0x3F || w1 / 2 ^ 26 == 0x3F then c 2
  else if w0 / 2 ^ 26 == 0x3D || w1 / 2 ^ 26 == 0x3D then c 3
  else none

/-- What is known of a clause while its words are decoded: the positions so far with their E bits. -/
structure Parsed where
  slots : List Slot := []
  /-- The positions with every PAIR word expanded. -/
  flat : List Slot := []
  words : List (Nat × Nat) := []
  next : Word := 0
  fault : Option (Nat × Cause) := none
  fetchFault : Bool := false
  /-- The memory that the next word waits for. -/
  wait : Option Nat := none
  deriving Repr, Inhabited

/-- Whether a source of position `p` names a latch it may not read (spec/03 R70). -/
def latchBad (k : Strm) (earlier : List Slot) (i : Instr) : Bool :=
  (insSrcs i).any fun x => match x.1 with
    | .latch n => (earlier[n]?.bind fun e => insResult e.ins) != some (fileIn k i x.2)
    | _ => false

/-- The clause rules that position `i` breaks given the earlier ones (spec/03 R70, R72, R73, R76). -/
def clauseBad (k : Strm) (earlier : List Slot) (i : Instr) : Bool :=
  latchBad k earlier i
    || (insDests i).any (fun d => earlier.any fun e => (insDests e.ins).contains d)
    || (redirects i && earlier.any fun e => redirects e.ins)
    || (!isTk i && earlier.any fun e => resumable e.ins)
    || (resumable i && earlier.any fun e => !isTk e.ins)

/-- Add one decoded instruction to a clause, or the fault it raises. -/
def Parsed.push (p : Parsed) (k : Strm) (addr : Word) (i : Instr) : Parsed :=
  if p.fault.isSome then p
  else if clauseBad k p.flat i then { p with fault := some (min p.flat.length 3, cIllegal 0) }
  else { p with flat := p.flat ++ [⟨addr, i⟩] }

/-- Decode the clause that starts at `addr`, word by word (spec/03 R71, R80, R81): at most `fuel` words. -/
def State.parse (s : State) (k : Strm) : Nat → Word → Parsed → Parsed
  | 0, _, p => { p with fault := some (3, cIllegal 0) }
  | fuel + 1, addr, p =>
    let pos := p.flat.length
    if 4 ≤ pos then { p with fault := some (3, cIllegal 0) }
    else match s.fetchWord addr with
    | .error (.cause c) => { p with fault := some (pos, c), fetchFault := true }
    | .error (.busy a) => { p with fault := some (pos, {}), wait := some a }
    | .ok w =>
      let p := { p with words := p.words ++ [(addr.toNat, w)], next := addr + 4 }
      match decode (.stream k) w with
      | .error _ => { p with fault := some (pos, cIllegal 0) }
      | .ok (.dpair f) =>
        let w0 := Tab.get s.me.dict f.i 0
        let w1 := Tab.get s.me.dict f.j 0
        match (match s.dictFlaw f.i f.j with
            | some c => some c
            | none => dictCause f.i f.j w0 w1) with
        | some c => { p with fault := some (pos, c) }
        | none => match decode (.stream k) w0 with
          | .error _ => { p with fault := some (pos, cIllegal 0) }
          | .ok i0 => match decode (.stream k) w1 with
            | .error _ => { p with fault := some (min (pos + 1) 3, cIllegal 0) }
            | .ok i1 =>
              let p := { (p.push k addr i0).push k addr i1 with slots := p.slots ++ [⟨addr, .dpair f⟩] }
              if p.fault.isSome then p
              else if 4 < p.flat.length then { p with fault := some (3, cIllegal 0) }
              else if w1 % 2 == 1 then p else State.parse s k fuel (addr + 4) p
      | .ok i =>
        let p := { p.push k addr i with slots := p.slots ++ [⟨addr, i⟩] }
        if p.fault.isSome then p else if w % 2 == 1 then p else State.parse s k fuel (addr + 4) p

/-- The LOOP check at decode (spec/03 R83): a body of an active loop ends inside the clause.  User loops are frozen at
supervisor level (spec/08 R222). -/
def State.loopCut (s : State) (p : Parsed) : Option (Nat × Cause) :=
  let t := s.st
  if s.me.trap.super && s.cur.strm != .s then none
  else (t.loops.find? fun l => t.pc.toNat < l.stop.toNat && l.stop.toNat < p.next.toNat).map fun l =>
    ((p.flat.findIdx? fun e => e.addr == l.stop - 4).getD 0, { code := 18, i0 := 3 })

/-! ### Stalls before issue -/

/-- Near-memory adds of the moving core that no engine has accepted yet, its writes that a peer has not acknowledged, and those of its
item that have failed: they are never performed (spec/04 R114, R117; spec/11 R315; spec/10 R298). -/
def State.addsFlying (s : State) : Bool :=
  let x := s.me.cont
  (s.engines.any fun e => e.2.inbound.any fun a => a.source == s.cur.core) || s.dev.farWrites.any (·.core == s.cur.core)
    || s.ues.any fun u => u.asid == x.asid && u.lrec == x.lrec && u.node == x.node && u.wid == x.wid.toNat

/-- A channel holds an uncompleted transfer. -/
def Channel.busy (h : Channel) : Bool := !h.queue.isEmpty

/-- A transfer into tile `t` has not completed (spec/05 R146). -/
def Core.tileBusy (c : Core) (t : Nat) : Bool := c.copy.ch.toList.any fun h => h.queue.any fun x => x.tile == some t

/-- A pending MLDS read reads tile `t` (spec/07 R199). -/
def Core.tilePending (c : Core) (t : Nat) : Bool := c.mat.pending.any fun p => p.1 == t || p.2 == some t

/-- Some channel is suspended (spec/05 R148). -/
def Core.anySusp (c : Core) : Bool := c.copy.ch.toList.any fun h => h.susp.isSome

/-- Units that a stream register delivers in all (spec/05 R138). -/
def QReg.total (q : QReg) : Nat := (upTo 4).foldl (fun a k => a * bits q.bind.toNat (128 + 64 * k + 23) (128 + 64 * k)) 1

/-- Pops of each stream register a clause names, and whether one is not fetched yet (spec/05 R141). -/
def Core.popsWait (c : Core) (k : Strm) (slots : List Slot) : Bool :=
  let qs := slots.flatMap fun p => (insSrcs p.ins).filterMap fun x => match x.1 with
    | .queue n => some n
    | _ => none
  qs.any fun n =>
    let q := c.qreg n
    let want := occurs n qs
    q.bound && (q.bind.getLsbD 488 == (k == .m)) && q.units.length < want && q.popped + q.units.length < q.total
      && !(q.units.any fun u => u.fault.isSome)

/-- The other members of a core's gang that have not ended and do not stand at a suspension point (spec/13 R353). -/
def State.gangBehind (s : State) : Bool :=
  let me := s.me.cont
  me.gang.any fun c =>
    let x := s.core c
    c != s.cur.core && x.running && x.cont.asid == me.asid && x.cont.lrec == me.lrec && x.cont.node == me.node && !x.cont.atSusp

/-- Whether a suspension point waits for copies, MLDS reads, progress and adds (spec/08 R236; spec/05 R154). -/
def State.suspWaits (s : State) : Bool :=
  let c := s.me
  (c.copy.ch.toList.any Channel.busy && !c.anySusp) || !c.mat.pending.isEmpty
    || c.ss.prog.active || c.sa.prog.active || c.sv.prog.active || c.sm.prog.active || s.addsFlying

/-- PHASE of the barrier object at `a`, where it can be read. -/
def State.phaseAt (s : State) (a : Word) : Except Deny Bool :=
  match s.access a 16 .read true with
  | .error d => .error d
  | .ok l => .ok (bit (s.homeNum l.key 8) 63)

/-- Whether a barrier at `a` would be credited by a transfer of a suspended channel (spec/05 R148). -/
def Core.creditsSusp (c : Core) (a : Word) : Bool :=
  c.copy.ch.toList.any fun h => h.susp.isSome && h.queue.any fun x => wbit x.ctl 4 && field x.ctl 63 8 * 16 == a.toNat

/-- Whether a source is a latch. -/
def Src.isLatch : Src → Bool
  | .latch _ => true
  | _ => false

/-- Where the word of the moving core's WFE at position `p` is watched. -/
def State.watchKey (s : State) (p : Nat) : Nat := 4 * s.cur.core + p

/-- Whether the wait of WFE at position `p` goes on for address `a` and value `b` (spec/08 R235). -/
def State.wfeWaits (s : State) (p : Nat) (a b : Word) : Bool :=
  if a.toNat % 8 != 0 || (bit s.st.wake p && !Tab.has s.watch (s.watchKey p)) then false
  else match s.xlate (s.who s.cur.core) a.toNat .read with
    | .error _ => false
    | .ok l => !s.readBad l 8 && s.homeNum l.key 8 == b.toNat

/-- A WFE at `a` begins to stall: its word is watched from now on. -/
def State.watchWord (s : State) (p : Nat) (a : Word) : State :=
  if bit s.st.wake p then s
  else match s.xlate (s.who s.cur.core) a.toNat .read with
    | .error _ => s
    | .ok l => { s.onSt fun t => { t with wake := t.wake + 2 ^ p } with watch := Tab.set s.watch (s.watchKey p) l.key }

/-- The wait of WFE at position `p` has ended. -/
def State.wfeOver (s : State) (p : Nat) : State :=
  { s.onSt fun t => { t with wake := if bit t.wake p then t.wake else t.wake + 2 ^ p } with watch := Tab.erase s.watch (s.watchKey p) }

/-- The words that the WFEs of a clause watch. -/
def State.watchWords (s : State) (slots : List Slot) : State :=
  slots.zipIdx.foldl (fun s x => match x.1.ins with
    | .wfe f => if Src.isLatch f.a || Src.isLatch f.b || !s.wfeWaits x.2 (s.srcS f.a) (s.srcS f.b) then s else s.watchWord x.2 (s.srcS f.a)
    | _ => s) s

/-- Whether BARWAIT's wait goes on. -/
def State.barWaits (s : State) (a b : Word) : Bool :=
  if s.me.creditsSusp a then false
  else match s.phaseAt a with
    | .error _ => false
    | .ok p => p == wbit b 0

/-- Whether CWAIT's wait goes on (spec/05 R147). -/
def Channel.waits (h : Channel) (a : Word) : Bool := h.susp.isNone && a.toNat < h.next && h.cdone < a.toNat

/-- Whether an instruction at position `p` keeps its clause from issuing now. -/
def State.stalls (s : State) (p : Nat) (i : Instr) : Bool :=
  let c := s.me
  match i with
  | .cwait f => !Src.isLatch f.a && (c.chan f.h).waits (s.srcA f.a)
  | .barwait f => !Src.isLatch f.a && !Src.isLatch f.b && s.barWaits (s.srcA f.a) (s.srcA f.b)
  | .wfe f => !Src.isLatch f.a && !Src.isLatch f.b && s.wfeWaits p (s.srcS f.a) (s.srcS f.b)
  | .tcopy f => 16 ≤ (c.chan f.h).queue.length && (c.chan f.h).susp.isNone
  | .tcopyTile f => 16 ≤ (c.chan f.h).queue.length && (c.chan f.h).susp.isNone
  | .tld f => c.tileBusy f.d
  | .mshape f => c.tileBusy f.d || c.tilePending f.d
  | .mzeroT f => c.tileBusy f.d || c.tilePending f.d
  | .maccCvt f | .maccRelu f => c.tileBusy f.d || c.tilePending f.d
  | .mlds _ | .mldsSp _ | .mswap _ | .mwait _ => !c.mat.pending.isEmpty
  | .fence _ | .strel _ | .rel _ | .eput _ | .larm _ | .bararrive _ => s.addsFlying
  | .suspEnd _ => s.suspWaits
  | i => isSusp i && (s.suspWaits || s.gangBehind)

/-- The suspension points at which a gang member waits for the others (spec/13 R353). -/
def gangPoint : Instr → Bool
  | .suspEnd _ => false
  | i => isSusp i

/-! ### Issue -/

/-- Raise a fault found before the clause issued. -/
def State.early (s : State) (p : Nat × Cause) (viaFetch illegal : Bool) : Ready :=
  let s := s.onSt fun t => { t with clause := { live := true, start := t.pc, pos := p.1, bad := some p } }
  if viaFetch then .run .instructionFetchFault s
  else if illegal then .run .unassignedStreamWord s
  else .idle (s.fault p.2)

/-- Stop the A, V and M streams for a suspension point (spec/08 R236). -/
def Core.stop3 (c : Core) : Core := ((c.stopStrm .a).stopStrm .v).stopStrm .m

/-- Run the present position, unless it reads an uncorrectable word of the core's storage: REG_UE is precise (spec/08 R226). -/
def State.runSlot (s : State) (x : Slot) : Ready :=
  match s.flawIn x.ins with
  | some c => .idle (s.finish false (.trap c))
  | none => .run x.ins s

/-- Issue the moving stream's next clause, or leave it stalled.  ILLEGAL and DICT come before LOOP code 3 where several hold
(DESIGN CHOICE, notes/assumptions/66.md). -/
def State.issue (s : State) : Ready :=
  let k := s.cur.strm
  let t := s.st
  let c := s.me
  let e := c.trap.erun
  let underRun := c.trap.super && k != .s
  if underRun && (!e.active || e.strm != k) then .idle s
  else if underRun && e.base.toNat + 1024 ≤ t.pc.toNat then .idle (s.onMe fun c => c.erunEnd 2)
  else
    let p := s.parse k 4 t.pc {}
    if underRun && p.flat.any (fun x => isTk x.ins || isLoop x.ins) && !p.fetchFault && p.wait.isNone then .idle (s.onMe fun c => c.erunEnd 2)
    else match p.fault, p.wait with
    | _, some a => .idle (s.want a)
    | some f, none => s.early f p.fetchFault (f.2.code == 1)
    | none, none => match s.loopCut p with
      | some f => s.early f false false
      | none =>
        let susp := p.flat.findIdx? fun x => isSusp x.ins
        let bad := if c.np || c.trap.super then 4
          else if [c.ss, c.sa, c.sv, c.sm].any (fun x => !x.loops.isEmpty) then 8 else 0
        match susp, bad != 0 with
        | some n, true => .idle ((s.onCl fun c => { c with pos := n, live := true }).fault (cIllegal bad))
        | _, _ =>
          let takes := if t.prog.active then [] else takesOf k p.flat
          if !c.tok.avail takes || c.popsWait k p.flat then .idle (s.onSt fun t => { t with tokenStall := true })
          else if p.flat.zipIdx.any fun x => s.stalls x.2 x.1.ins then
            .idle ((s.watchWords p.flat).onMe fun c =>
              let c := if p.flat.any fun x => gangPoint x.ins then { c with cont := { c.cont with atSusp := true } } else c
              c.onStrm k fun t => { t with tokenStall := false })
          else
            let s := s.onMe fun c =>
              let c := if susp.isSome then c.stop3 else c
              let c := { c with tok := c.tok.take takes }
              let g := c.tok.before (t.held ++ takes)
              c.onStrm k fun t =>
                { t with
                  tokenStall := false, wake := 0, sight := g.foldl Sight.join t.sight
                  buf := if t.loops.isEmpty then [] else
                    p.words.foldl (fun b w => if t.inLoop (word w.1) then Tab.set b w.1 w.2 else b) t.buf
                  clause := { live := true, start := t.pc, next := p.next, slots := p.slots, taken := takes,
                              snap := some (c.snapFor k s.free (s.ctx c.cont.asid).binds) } }
            match p.slots with
            | [] => .idle s
            | x :: _ => s.runSlot x

/-- The moving stream goes on with its clause, or issues the next.  A checkpoint stops it at a boundary (spec/15 R406). -/
def State.streamTurn (s : State) : Ready :=
  let c := s.me
  let cl := s.cl
  if !c.running || c.inReset then .idle (s.keep false)
  else if !c.trap.faults.isEmpty && c.overlap == 0 && !cl.live then .idle ((s.takeFaults s.cur.core).keep false)
  else if s.st.stopped then .idle (s.keep false)
  else if !c.trap.super && c.trap.faults.isEmpty && !c.trap.pending.isEmpty && (!cl.live || cl.waiting) then .run .trapEntry s
  else if s.dev.ckStop && !c.trap.super && !c.np && (!cl.live || cl.waiting) then .idle (s.keep false)
  else if cl.live then
    match cl.slots[cl.pos]? with
    | some x => s.runSlot x
    | none => .idle s.commit
  else s.issue

/-! ### Engines -/

/-- An engine before its next issue: what its window left is restored, and on a stack whose base die is at 80 degrees or above a cycle
more passes (spec/17 R441). -/
def State.readyEngine (s : State) (n : Nat) : State :=
  let e := s.engine n
  let s := s.onEngine n Engine.resume
  if bit s.dev.dieSlow (n / 256) && !e.stalled then s.onEngine n fun e => { e with now := e.now + 1 } else s

/-- The moving engine decodes its next word (spec/09 R248, R249), or stops with its node or on a failed semaphore add (R275,
R283); a checkpoint holds it at a row boundary (spec/15 R406), and an open window goes on first (spec/12 R323). -/
def State.engineTurn (s : State) : Ready :=
  let e := s.engine s.cur.eng
  let stopped := match s.graph e.asid e.lrec with
    | some g => (g.nst e.node).stopped
    | none => false
  if !e.running || ((s.dev.ckStatus == 1 || s.dev.ckStatus == 2) && !s.dev.ckLater && (e.atBound || e.stalled)) then .idle s
  else if stopped || e.semBad.isSome then .run .engineStop { s with inp := { eng := s.cur.eng } }
  else if e.win.any fun x => !x.stopped then .run .arbitrationWindow { s with inp := { eng := s.cur.eng } }
  else
    let s := s.readyEngine s.cur.eng
    if (s.engine s.cur.eng).overdue (s.engine s.cur.eng).now then .run .rowIntervalExpiry { s with inp := { eng := s.cur.eng } }
    else match decode .engine (Tab.get e.store e.mpc 0) with
      | .ok i => .run i s
      | .error _ => .run .unassignedEngineWord s

/-! ### Turns -/

/-- The events that wait while a checkpoint streams (spec/15 R406, R408, R409): everything that moves a stopped core, an
engine or Keystone. -/
def waitsForStream : Instr → Bool
  | .streamFetch | .transferComplete | .copyFault | .mldsReadDone | .waitsReread | .engineInstanceStart | .arbitrationWindow
  | .nearMemoryAddAccept | .detFlush | .admission | .instanceCreate | .semaphoreMonitorRead | .dispatchRound | .preEmption
  | .trapEntry | .refreshDeadline | .rowIntervalExpiry | .rdLanding => true
  | _ => false

/-- The rows of the opcode table that have no encoding and come from outside a stream or an engine. -/
def isEvent : Instr → Bool
  | .wfeTimeout | .streamFetch | .transferComplete | .copyFault | .mldsReadDone | .courseSelfTest | .token | .nprOverrun
  | .handlerLimitExpiry | .trapEntry | .srbEviction | .rdLanding | .engineInstanceStart | .engineStop | .refreshDeadline
  | .rowIntervalExpiry | .mainDieRequest | .arbitrationWindow | .nearMemoryAddAccept | .detFlush | .pseudoChannelRetire
  | .migrationRowCopy | .pseudoChannelLoss | .rasPolicyTrigger | .keystoneStorageUe | .admission | .instanceCreate
  | .semaphoreMonitorRead | .dispatchRound | .preEmption | .asyncMemUe | .coreReset | .coreWatchdogExpiry
  | .evacuationTimeout | .coreResetDone | .checkpointSave | .checkpointRestore | .checkpointResume | .checkpointFenceTimeout
  | .checkpointStreamDone | .checkpointPortLost | .qnotifyWrite | .queueEnable | .queueDisable | .scannerStep | .nop | .arm
  | .signal | .wait | .waitPoll | .inval | .invalComplete | .ctx | .ctxStopComplete | .recPkt | .recordStallTimeout
  | .update | .updateStandbyReady | .updateStandbyBootTimeout | .updateQuiesceTimeout | .updateFlip | .xiostWatchdogFailover
  | .own | .hostLinkDown | .hostLinkUp | .pcieLaneRetrain | .portFundamentalReset | .flrVf | .flrPf | .flrTimeout
  | .atsInvalidation | .hostBar2Read | .hostBar2Write | .registerWrite | .rascntClear | .asidfnWrite | .vselfWrite
  | .vomelFlitReceive | .vomelLaneRetrain | .vomelPortDown | .peerInboundAccess | .ethTailNotify | .ethWorkRequestComplete
  | .ethQpError | .ethIncomingWrite | .ethIncomingRead | .ethIncomingSend | .getVersion | .getCapabilities
  | .negotiateAlgorithms | .getDigests | .getCertificate | .getMeasurements | .powerUp | .powerUpPhaseTimeout
  | .sensorSample | .powerThrottle | .thermalShutdown | .suppliesRemoved | .recordRewriteDone | .vomelPortUp
  | .pcieConfigurationRequest | .pcieFlitReceive | .ethCongestionNotification | .ethRetransmissionTimeout
  | .updateSignatureVerified | .checkpointRestoreDone | .recordTailAdvance | .waitsReread => true
  | _ => false

/-- The next turn: listed, or free (notes/assumptions/1.md). -/
def State.takeTurn (s : State) : Turn × State :=
  match s.turns with
  | t :: r => (t, { s with turns := r })
  | [] => (Config.freeTurn s.free, s)

/-- The counter of the free values moves on with every step, so that each step draws its own. -/
def State.tickFree (s : State) : State := { s with free := s.free + 1 }

/-- The moving stream's turn begins: it is one of overlapping clauses, or they are over. -/
def State.enterOverlap (s : State) : State :=
  let k := s.cur.strm
  if s.me.overlap == 0 && !s.me.overlapping then s
  else s.onMe fun c =>
    if bit c.overlap k.idx then { c with overlap := c.overlap - 2 ^ k.idx, overlapping := true }
    else { c with overlapping := false, tried := if c.overlap == 0 then 0 else c.tried }

/-- Who makes the accesses of an event: the fetch, the copy or the engine it drives, or a party outside. -/
def eventAsker (i : Instr) (x : Input) : Asker :=
  match i with
  | .streamFetch => .fetch x.core x.ident
  | .transferComplete | .copyFault => .copy x.core x.chan
  | .waitsReread => .engine x.eng
  | _ => .outside x.port

/-- The turn of the last mover is over: unless an access of it waits, it has made those that it had places for. -/
def State.settle (s : State) : State :=
  if s.cur.wants || !(s.engines.any fun e => (e.2.reqs ++ e.2.port).any fun r => r.asker == some s.cur.asker) then s
  else s.leaveAll s.cur.asker

/-- What the next step runs. -/
def State.prepare (s : State) : Ready :=
  let s := s.tickFree
  if s.moving && s.dev.supply && !s.dev.halted then (s.keep false).streamTurn
  else
    let (t, s) := s.settle.takeTurn
    let live := s.dev.supply && !s.dev.halted
    match t with
    | .event i x =>
      if i == .powerUp || i == .suppliesRemoved then .run i { s with inp := x }
      else if !s.dev.supply then .stop .noSupply
      else if s.dev.halted then .stop .clocksStopped
      else if s.dev.ckStatus == 2 && waitsForStream i then .idle s
      else if isEvent i then .run i { s with inp := x, cur := { s.cur with core := x.core, eng := x.eng, asker := eventAsker i x, wants := false } } else .idle s
    | .cache a va => .idle (if live then s.cacheXlate a va else s)
    | .overlap c m => .idle (s.onCore c fun x => { x with overlap := m % 16, tried := 0, later := m / 16 % 16, overlapping := false })
    | .stream c k => if live then ({ s with cur := { s.cur with core := c, strm := k, asker := .stream c k, wants := false } }.enterOverlap).streamTurn
      else if s.dev.supply then .stop .clocksStopped else .stop .noSupply
    | .engine n => if live then { s with cur := { s.cur with eng := n, asker := .engine n, wants := false } }.engineTurn
      else if s.dev.supply then .stop .clocksStopped else .stop .noSupply

end Sys2Proof.Machine
end

