-- ==== Sys2Proof/Machine/Scalar.lean ====
section
/-! DEFINITION. The S stream's integer, bit-field, immediate, branch, jump and exchange instructions (spec/04 R94 to
R103). -/

namespace Sys2Proof.Machine

/-! ### Shared operations -/

/-- 1 or 0. -/
def ofBool (b : Bool) : Word := if b then 1 else 0

/-- Signed order of two words. -/
def sltW (a b : Word) : Bool := a.slt b

/-- The signed smaller and larger of two words. -/
def minW (a b : Word) : Word := if b.slt a then b else a
def maxW (a b : Word) : Word := if a.slt b then b else a

/-- Shift amount b[5:0]. -/
def amount (b : Word) : Nat := b.toNat % 64

/-- Count of zero bits above the highest one bit. -/
def clz64 (a : Word) : Nat := if a == 0 then 64 else 63 - Nat.log2 a.toNat

/-- Count of zero bits below the lowest one bit, among the lowest `fuel` bits. -/
def ctzFrom (a : Nat) : Nat → Nat
  | 0 => 0
  | n + 1 => if a % 2 == 1 then 0 else 1 + ctzFrom (a / 2) n

/-- A field's offset and clipped width from the register b names (spec/04 R100). -/
def bfOff (b : Word) : Nat := b.toNat % 64
def bfWidth (b : Word) : Nat := min (bits b.toNat 14 8) (64 - bfOff b)

/-- The field of `a`. -/
def bfGet (a b : Word) : Nat := a.toNat / 2 ^ bfOff b % 2 ^ bfWidth b

/-- `d` with the field replaced by the low bits of `a`. -/
def bfPut (d a b : Word) : Word :=
  let m := (2 ^ bfWidth b - 1) * 2 ^ bfOff b
  (d &&& ~~~word m) ||| (word (a.toNat % 2 ^ bfWidth b * 2 ^ bfOff b))

/-- Old d as an instruction that also reads it: zero when W = 1 (spec/04 R100, R110). -/
def State.oldS (s : State) (d : Nat) (w : Bool) : Word := if w then 0 else s.vw.sreg d

/-- A branch of the S stream (spec/04 R101): the target counts from the word's own address. -/
def State.branchS (s : State) (f : TS) (cond : Word → Word → Bool) : Out :=
  let post := if cond (s.srcS f.a) (s.srcS f.c) then Post.goto (s.here + (sext 13 f.i <<< 2)) else .none
  .next (s.finish f.e (.done { post := post }))

/-- The link: the word after the clause (spec/04 R102). -/
def State.link (s : State) : Word := s.cl.next

/-! ### Major 0x01 (spec/04 R96, R97) -/

/-- ADD (spec/04 R96). -/
def execAdd (f : RR) (s : State) : Out := s.rrS f fun a b => a + b

/-- SUB (spec/04 R96). -/
def execSub (f : RR) (s : State) : Out := s.rrS f fun a b => a - b

/-- MUL (spec/04 R96). -/
def execMul (f : RR) (s : State) : Out := s.rrS f fun a b => a * b

/-- MULH (spec/04 R96). -/
def execMulh (f : RR) (s : State) : Out := s.rrS f fun a b => BitVec.ofInt 64 (a.toInt * b.toInt / 2 ^ 64)

/-- AND (spec/04 R96). -/
def execAnd (f : RR) (s : State) : Out := s.rrS f fun a b => a &&& b

/-- OR (spec/04 R96). -/
def execOr (f : RR) (s : State) : Out := s.rrS f fun a b => a ||| b

/-- XOR (spec/04 R96). -/
def execXor (f : RR) (s : State) : Out := s.rrS f fun a b => a ^^^ b

/-- ANDN (spec/04 R96). -/
def execAndn (f : RR) (s : State) : Out := s.rrS f fun a b => a &&& ~~~b

/-- SHL (spec/04 R96). -/
def execShl (f : RR) (s : State) : Out := s.rrS f fun a b => a <<< amount b

/-- SHR (spec/04 R96). -/
def execShr (f : RR) (s : State) : Out := s.rrS f fun a b => a >>> amount b

/-- SHRA (spec/04 R96). -/
def execShra (f : RR) (s : State) : Out := s.rrS f fun a b => a.sshiftRight (amount b)

/-- ROT (spec/04 R96). -/
def execRot (f : RR) (s : State) : Out := s.rrS f fun a b => a.rotateRight (amount b)

/-- MIN (spec/04 R96). -/
def execMin (f : RR) (s : State) : Out := s.rrS f fun a b => minW a b

/-- MAX (spec/04 R96). -/
def execMax (f : RR) (s : State) : Out := s.rrS f fun a b => maxW a b

/-- SETEQ (spec/04 R96). -/
def execSeteq (f : RR) (s : State) : Out := s.rrS f fun a b => ofBool (a == b)

/-- SETLT (spec/04 R96). -/
def execSetlt (f : RR) (s : State) : Out := s.rrS f fun a b => ofBool (a.slt b)

/-- SETLTU (spec/04 R96). -/
def execSetltu (f : RR) (s : State) : Out := s.rrS f fun a b => ofBool (a.ult b)

/-- DIV (spec/04 R97): DIVZERO for b = 0. -/
def execDiv (f : RR) (s : State) : Out :=
  let b := s.srcS f.b
  .next (s.finish f.e (if b == 0 then .trap { code := 21 } else .done (toS f.d f.w ((s.srcS f.a).sdiv b))))

/-- REM (spec/04 R97): DIVZERO for b = 0. -/
def execRem (f : RR) (s : State) : Out :=
  let b := s.srcS f.b
  .next (s.finish f.e (if b == 0 then .trap { code := 21 } else .done (toS f.d f.w ((s.srcS f.a).srem b))))

/-- POPC (spec/04 R96). -/
def execPopc (f : R1) (s : State) : Out := s.r1S f fun a => word (popCount 64 a.toNat)

/-- CLZ (spec/04 R96). -/
def execClz (f : R1) (s : State) : Out := s.r1S f fun a => word (clz64 a)

/-- CTZ (spec/04 R96). -/
def execCtz (f : R1) (s : State) : Out := s.r1S f fun a => word (ctzFrom a.toNat 64)

/-- BREV (spec/04 R96). -/
def execBrev (f : R1) (s : State) : Out := s.r1S f fun a => a.reverse

/-! ### Bit fields and funnel shifts (spec/04 R100) -/

/-- BEXT (spec/04 R100). -/
def execBext (f : RR) (s : State) : Out := s.rrS f fun a b => if bfWidth b == 0 then 0 else BitVec.ofInt 64 (signed (bfWidth b) (bfGet a b))

/-- BEXTU (spec/04 R100). -/
def execBextu (f : RR) (s : State) : Out := s.rrS f fun a b => word (bfGet a b)

/-- BINS (spec/04 R100). -/
def execBins (f : RR) (s : State) : Out := s.rrS f fun a b => bfPut (s.oldS f.d f.w) a b

/-- FSHL (spec/04 R100). -/
def execFshl (f : RR) (s : State) : Out := s.rrS f fun a b => word (((s.oldS f.d f.w).toNat * 2 ^ 64 + a.toNat) * 2 ^ amount b / 2 ^ 64)

/-- FSHR (spec/04 R100). -/
def execFshr (f : RR) (s : State) : Out := s.rrS f fun a b => word ((a.toNat * 2 ^ 64 + (s.oldS f.d f.w).toNat) / 2 ^ amount b)

/-! ### Immediate forms (spec/04 R94, R98, R99) -/

/-- ADDI (spec/04 R98). -/
def execAddi (f : RI) (s : State) : Out := s.riS f fun a i => a + sext 13 i

/-- ANDI (spec/04 R98). -/
def execAndi (f : RI) (s : State) : Out := s.riS f fun a i => a &&& word i

/-- ORI (spec/04 R98). -/
def execOri (f : RI) (s : State) : Out := s.riS f fun a i => a ||| word i

/-- XORI (spec/04 R98). -/
def execXori (f : RI) (s : State) : Out := s.riS f fun a i => a ^^^ word i

/-- MINI (spec/04 R98). -/
def execMini (f : RI) (s : State) : Out := s.riS f fun a i => minW a (sext 13 i)

/-- MAXI (spec/04 R98). -/
def execMaxi (f : RI) (s : State) : Out := s.riS f fun a i => maxW a (sext 13 i)

/-- SETEQI (spec/04 R98). -/
def execSeteqi (f : RI) (s : State) : Out := s.riS f fun a i => ofBool (a == sext 13 i)

/-- SETLTI (spec/04 R98). -/
def execSetlti (f : RI) (s : State) : Out := s.riS f fun a i => ofBool (a.slt (sext 13 i))

/-- SETLTUI (spec/04 R98). -/
def execSetltui (f : RI) (s : State) : Out := s.riS f fun a i => ofBool (a.ult (sext 13 i))

/-- SHLI (spec/04 R98). -/
def execShli (f : RSh) (s : State) : Out := s.shS f fun a n => a <<< n

/-- SHRI (spec/04 R98). -/
def execShri (f : RSh) (s : State) : Out := s.shS f fun a n => a >>> n

/-- SHRAI (spec/04 R98). -/
def execShrai (f : RSh) (s : State) : Out := s.shS f fun a n => a.sshiftRight n

/-- ROTI (spec/04 R98). -/
def execRoti (f : RSh) (s : State) : Out := s.shS f fun a n => a.rotateRight n

/-- MOVHI (spec/04 R99). -/
def execMovhi (f : LI) (s : State) : Out := .next (s.finish f.e (.done (toS f.d f.w (sext 19 f.i <<< 13))))

/-! ### Branches and jumps (spec/04 R101, R102) -/

/-- BEQ (spec/04 R101). -/
def execBeq (f : TS) (s : State) : Out := s.branchS f fun a c => a == c

/-- BNE (spec/04 R101). -/
def execBne (f : TS) (s : State) : Out := s.branchS f fun a c => a != c

/-- BLT (spec/04 R101). -/
def execBlt (f : TS) (s : State) : Out := s.branchS f fun a c => a.slt c

/-- BGE (spec/04 R101). -/
def execBge (f : TS) (s : State) : Out := s.branchS f fun a c => !a.slt c

/-- BLTU (spec/04 R101). -/
def execBltu (f : TS) (s : State) : Out := s.branchS f fun a c => a.ult c

/-- BGEU (spec/04 R101). -/
def execBgeu (f : TS) (s : State) : Out := s.branchS f fun a c => !a.ult c

/-- JMP (spec/04 R102). -/
def execJmp (f : Imm) (s : State) : Out :=
  .next (s.finish f.e (.done { post := .goto (s.here + (sext 19 f.i <<< 2)) }))

/-- JAL (spec/04 R102). -/
def execJal (f : LI) (s : State) : Out :=
  .next (s.finish f.e (.done { toS f.d f.w s.link with post := .goto (s.here + (sext 19 f.i <<< 2)) }))

/-- JR (spec/04 R102): a misaligned target raises ALIGN, one beyond 56 bits XLATE, ALIGN first where both hold (DESIGN CHOICE,
notes/assumptions/53.md). -/
def execJr (f : RI) (s : State) : Out :=
  let t := s.srcS f.a + (sext 13 f.i <<< 2)
  .next (s.finish f.e (
    if t.toNat % 4 != 0 then .trap { code := 7, i0 := t }
    else if 2 ^ 56 ≤ t.toNat then .trap (xlateFault t.toNat 1 0)
    else .done { toS f.d f.w s.link with post := .goto t }))

/-! ### Exchange registers (spec/04 R103) -/

/-- XMOV d, x (spec/04 R103). -/
def execXmovXToS (f : R1) (s : State) : Out := .next (s.finish f.e (.done (toS f.d f.w (s.srcX f.a))))

/-- XMOV x, a (spec/04 R103). -/
def execXmovSToX (f : R1) (s : State) : Out := .next (s.finish f.e (.done (toX f.d f.w (s.srcS f.a))))

end Sys2Proof.Machine
end

