-- ==== Sys2Proof/Machine/Access.lean ====
section
/-! DEFINITION. The A stream: address arithmetic, descriptors, tile and vector loads and stores, stream registers, copies,
barrier objects and the CRC (spec/05 R122 to R155). -/

namespace Sys2Proof.Machine

/-! ### Address arithmetic (spec/05 R122 to R126) -/

/-- AADD (spec/05 R123). -/
def execAadd (f : RR) (s : State) : Out := s.rrA f fun a b => a + b

/-- ASUB (spec/05 R123). -/
def execAsub (f : RR) (s : State) : Out := s.rrA f fun a b => a - b

/-- AMUL (spec/05 R123). -/
def execAmul (f : RR) (s : State) : Out := s.rrA f fun a b => a * b

/-- ASHL (spec/05 R123). -/
def execAshl (f : RR) (s : State) : Out := s.rrA f fun a b => a <<< amount b

/-- ASHR (spec/05 R123). -/
def execAshr (f : RR) (s : State) : Out := s.rrA f fun a b => a >>> amount b

/-- AAND (spec/05 R123). -/
def execAand (f : RR) (s : State) : Out := s.rrA f fun a b => a &&& b

/-- AOR (spec/05 R123). -/
def execAor (f : RR) (s : State) : Out := s.rrA f fun a b => a ||| b

/-- AMIN (spec/05 R123). -/
def execAmin (f : RR) (s : State) : Out := s.rrA f fun a b => minW a b

/-- AMAX (spec/05 R123). -/
def execAmax (f : RR) (s : State) : Out := s.rrA f fun a b => maxW a b

/-- AADDI (spec/05 R124). -/
def execAaddi (f : RI) (s : State) : Out := s.riA f fun a i => a + sext 13 i

/-- AMULI (spec/05 R124). -/
def execAmuli (f : RI) (s : State) : Out := s.riA f fun a i => a * sext 13 i

/-- AANDI (spec/05 R124). -/
def execAandi (f : RI) (s : State) : Out := s.riA f fun a i => a &&& word i

/-- AORI (spec/05 R124). -/
def execAori (f : RI) (s : State) : Out := s.riA f fun a i => a ||| word i

/-- AMINI (spec/05 R124). -/
def execAmini (f : RI) (s : State) : Out := s.riA f fun a i => minW a (sext 13 i)

/-- AMAXI (spec/05 R124). -/
def execAmaxi (f : RI) (s : State) : Out := s.riA f fun a i => maxW a (sext 13 i)

/-- ASHLI (spec/05 R124). -/
def execAshli (f : RSh) (s : State) : Out := s.shA f fun a n => a <<< n

/-- ASHRI (spec/05 R124). -/
def execAshri (f : RSh) (s : State) : Out := s.shA f fun a n => a >>> n

/-- ABR (spec/05 R125): both fields 0 mean always. -/
def execAbr (f : TS) (s : State) : Out :=
  let always := f.a == .reg 0 && f.c == .reg 0
  let post := if always || s.srcA f.a != s.srcA f.c then Post.goto (s.here + (sext 13 f.i <<< 2)) else .none
  .next (s.finish f.e (.done { post := post }))

/-- XMOV d, x in the A stream (spec/05 R126). -/
def execXmovXToA (f : R1) (s : State) : Out := .next (s.finish f.e (.done (toA f.d f.w (s.srcX f.a))))

/-- XMOV x, a in the A stream (spec/05 R126). -/
def execXmovAToX (f : R1) (s : State) : Out := .next (s.finish f.e (.done (toX f.d f.w (s.srcA f.a))))

/-! ### Descriptors (spec/05 R129 to R132) -/

/-- The answer of a position that a check may deny. -/
def gotOf (r : Except Deny Res) : Got :=
  match r with
  | .ok x => .done x
  | .error d => d.got

/-- Read a 64-byte image at its home: ALIGN unless 64-byte aligned (spec/05 R129, R137). -/
def State.readImage (s : State) (va : Nat) : Except Deny (BitVec 512) :=
  if va % 64 != 0 then .error (.cause { code := 7, i0 := word va })
  else match s.rangeLocs (s.mode .read true) va 64 with
    | .error e => .error e
    | .ok ls => .ok (BitVec.ofNat 512 (ofBytes (s.locBytes ls)))

/-- A descriptor image at an address, read and checked (spec/05 R129, R130). -/
def State.readDesc (s : State) (va : Nat) : Except Deny (BitVec 512) :=
  match s.readImage va with
  | .error e => .error e
  | .ok img => match s.descReason s.me.cont.asid img.toNat with
    | .error c => .error (.cause c)
    | .ok (some r) => .error (.cause (cDesc va r))
    | .ok none => .ok img

/-- TDMAKE (spec/05 R129, R130).  Its address is exact (R127): one below 0 or from 2^56 up has no translation. -/
def execTdmake (f : TdmakeF) (s : State) : Out :=
  let va : Int := (s.srcA f.a).toNat + signed 13 f.i * 64
  let low := BitVec.ofInt 64 va
  .next (s.finish f.e (gotOf (
    if va < 0 then .error (.cause (if va % 64 == 0 then { xlateFault 0 1 0 with i0 := low } else { code := 7, i0 := low }))
    else match s.readDesc va.toNat with
    | .error e => .error e
    | .ok img => .ok { effs := [.dslot f.d img] })))

/-- What TDINFO writes for a selector (spec/05 R132); of a product of sizes that does not fit in d, the low 64 bits (DESIGN CHOICE,
notes/assumptions/70.md). -/
def tdinfo (n sel : Nat) : Word :=
  if sel == 0 then word (dBase n)
  else if sel == 1 then word (bits n 95 64)
  else if sel ≤ 6 then word (dSize n (sel - 2))
  else if sel ≤ 11 then BitVec.ofInt 64 (dStride n (sel - 7))
  else if sel == 12 then word (dFill n)
  else if sel == 13 then word (bits n 455 448)
  else if sel == 14 then word (dSidecar n)
  else if sel == 15 then word (dCount n)
  else 0

/-- TDINFO (spec/05 R132). -/
def execTdinfo (f : TdinfoF) (s : State) : Out :=
  .next (s.finish f.e (gotOf (match s.vw.slotImg f.a with
    | .error e => .error e
    | .ok n => .ok (toA f.d f.w (tdinfo n (s.srcA f.b).toNat)))))

/-! ### Tiles (spec/05 R133 to R135) -/

/-- What TLD and TST share: the image, the origin, and the tile's shape, checked in the order of R134. -/
def State.tilePrep (s : State) (t slot pair : Nat) (scales : Bool) : Except Deny (Nat × Coord × Word) :=
  match s.vw.slotImg slot with
  | .error e => .error e
  | .ok n => match s.vw.origin pair with
    | .error e => .error e
    | .ok o =>
      let w := (s.vw.tile t).shape
      let ok := if scales then (dFmt n == 12 || dFmt n == 13) && tSfmt w == dFmt n && tBlk w != 0 else tFmt w == dFmt n
      if tFmt w == 0 || !ok then .error (.cause (cFormat s.cl.pos 0)) else .ok (n, o, w)

/-- The coordinates of element or scale (r, e). -/
def tileCoord (o : Coord) (tr : Bool) (r e : Nat) : Coord := if tr then o.shift r e else o.shift e r

/-- Every (r, e) of the data or the scales of a tile shape, in row-major order. -/
def tilePlaces (w : Word) (scales : Bool) : List (Nat × Nat) :=
  (upTo (tRows w)).flatMap fun r => (upTo (if scales then tScales w else tElems w)).map fun e => (r, e)

/-- Whether the row of a tile lies in the tensor (spec/05 R134). -/
def rowIn (n : Nat) (o : Coord) (tr : Bool) (r : Nat) : Bool :=
  if tr then inRange n ((o.shift r 0).set 1 0) else inRange n ((o.shift 0 r).set 0 0)

/-- The blocks a load checks against its sidecar: DESC reason 8 for a descriptor that is not dense (spec/05 R134). -/
def State.loadCrc (s : State) (m : Mode) (n : Nat) (cs : List Coord) : Except Deny Unit :=
  if !dCrcchk n then .ok ()
  else if !(dDense n && dSideOk n) then .error (.cause (cDesc 0 8))
  else s.crcChecks m n (crcBlocks n cs)

/-- TLD (spec/05 R134).  Every element is read before CRCCHK's blocks are verified, so that an element's access fault comes before a CRC
mismatch, and the blocks are verified in rising order (DESIGN CHOICE, notes/assumptions/69.md). -/
def execTld (f : TldF) (s : State) : Out :=
  let m := s.mode .read false
  .next (s.finish f.e (gotOf (match s.tilePrep f.d f.a f.b f.s with
    | .error e => .error e
    | .ok (n, o, w) =>
      let ps := tilePlaces w f.s
      let cs := ps.map fun p => tileCoord o f.t p.1 p.2
      if dCrcchk n && !(dDense n && dSideOk n) then .error (.cause (cDesc 0 8))
      else match s.readElems m n cs with
      | .error e => .error e
      | .ok (xs, ls) => match s.loadCrc m n cs with
        | .error e => .error e
        | .ok _ =>
          let old := s.vw.tile f.d
          let data := (ps.zip xs).foldl (fun m p =>
            if f.s then tPutScale w m p.1.1 p.1.2 p.2 else tPut w m p.1.1 p.1.2 p.2) old.data
          let mask := (upTo (tRows w)).foldl (fun a r => if rowIn n o f.t r then a + 2 ^ r else a) 0
          let valid := if f.s then old.valid &&& BitVec.ofNat 256 (2 ^ tRows w - 1) else BitVec.ofNat 256 mask
          .ok { effs := .tile f.d { old with data := data, valid := valid } :: s.fillsOf ls })))

/-- A store into a tensor of the listed elements (spec/05 R135, R136). -/
def State.storeElems (s : State) (n : Nat) (l : List (Coord × Nat)) : Except Deny Res :=
  if dBcast n || dNostore n then .error (.cause (cDesc 0 7))
  else match s.writeElems (s.mode .write true) n [] l with
    | .error e => .error e
    | .ok cells => .ok { effs := storesOf cells.reverse, rests := nibbleKeys (dFmt n) (cells.map (·.2.1)) }

/-- TST (spec/05 R135). -/
def execTst (f : TstF) (s : State) : Out :=
  .next (s.finish f.e (gotOf (match s.tilePrep f.d f.a f.b f.s with
    | .error e => .error e
    | .ok (n, o, w) =>
      let t := s.vw.tile f.d
      let ps := (tilePlaces w f.s).filter fun p => !f.v || t.valid.getLsbD p.1
      s.storeElems n (ps.map fun p =>
        (tileCoord o f.t p.1 p.2, if f.s then tGetScale w t.data p.1 p.2 else tGet w t.data p.1 p.2)))))

/-! ### Vectors (spec/05 R136) -/

/-- VLD (spec/05 R136): FORMAT before VLEN where both hold, and both after the origin's checks (DESIGN CHOICE,
notes/assumptions/66.md). -/
def execVld (f : VldF) (s : State) : Out :=
  let m := s.mode .read false
  let pos := s.cl.pos
  .next (s.finish f.e (gotOf (match s.vw.slotImg f.a with
    | .error e => .error e
    | .ok n => match s.vw.origin f.b with
      | .error e => .error e
      | .ok o =>
        if !vTag (dFmt n) then .error (.cause (cFormat pos 0))
        else if 65535 < dSize n 0 then .error (.cause (cVlen pos (dSize n 0) 0))
        else
          let cs := (upTo (dSize n 0)).map fun j => o.shift j 0
          match s.readElems m n cs with
          | .error e => .error e
          | .ok (xs, ls) =>
            let r := VReg.ofCodes (dFmt n) xs
            if s.vw.rcap < r.n then .error (.cause (cRunCap pos r.n f.d s.vw.rcap))
            else .ok { effs := .vreg f.d r :: s.fillsOf ls })))

/-- VST (spec/05 R136). -/
def execVst (f : VldF) (s : State) : Out :=
  .next (s.finish f.e (gotOf (match s.vw.slotImg f.a with
    | .error e => .error e
    | .ok n => match s.vw.origin f.b with
      | .error e => .error e
      | .ok o =>
        let v := s.vw.vreg f.d
        if v.tag != dFmt n then .error (.cause (cFormat s.cl.pos 0))
        else s.storeElems n ((upTo v.len).zipWith (fun j x => (o.shift j 0, x)) v.codes))))

/-! ### Stream registers (spec/05 R137 to R142) -/

/-- QBIND (spec/05 R137). -/
def execQbind (f : SlotSrc) (s : State) : Out :=
  .next (s.finish f.e (gotOf (match s.vw.slotImg f.a with
    | .error e => .error e
    | .ok d =>
      let va := (s.srcA f.b).toNat
      match s.readImage va with
      | .error e => .error e
      | .ok b =>
        if bindingBad d b.toNat then .error (.cause (cDesc va 9))
        else .ok { effs := [.qset f.d { bound := true, desc := BitVec.ofNat 512 d, bind := b, sup := s.me.trap.super }] })))

/-- QUNBIND (spec/05 R142). -/
def execQunbind (f : Dst) (s : State) : Out := .next (s.finish f.e (.done { effs := [.qset f.d {}] }))

/-- QPOS (spec/05 R142). -/
def execQpos (f : QposF) (s : State) : Out :=
  let q := s.vw.qreg f.a
  .next (s.finish f.e (.done (toA f.d f.w (if q.bound then word q.popped else BitVec.allOnes 64))))

/-! ### Copies (spec/05 R143 to R148, R155) -/

/-- Queue a copy on channel `ch`, writing its identifier to `d` (spec/05 R144). -/
def State.issueCopy (s : State) (e : Bool) (d ch slot : Nat) (dst : Except Deny (Nat ⊕ (Nat × Tile))) (crc check : Bool) : State :=
  s.withChans e false [ch] fun s =>
    let h := s.me.chan ch
    let ctl := s.vw.areg d
    if 16 ≤ h.queue.length then s.finish e (.again noKey)
    else s.finish e (gotOf (match s.vw.slotImg slot with
      | .error c => .error c
      | .ok src => match dst with
        | .error c => .error c
        | .ok tgt =>
          let kind := match tgt with
            | .inl n => Sum.inl n
            | .inr t => .inr t.2
          match copyCheck src kind ctl crc check with
          | some c => .error (.cause c)
          | none =>
            if 2 ^ 48 ≤ h.next then .error (.cause (cIllegal 3))
            else
              let t : Transfer := { ident := h.next, src := BitVec.ofNat 512 src, ctl := ctl, crc := crc, check := check
                                    sup := s.me.trap.super
                                    dst := match tgt with
                                      | .inl n => BitVec.ofNat 512 n
                                      | .inr _ => 0
                                    tile := match tgt with
                                      | .inl _ => none
                                      | .inr t => some t.1 }
              .ok { toA d false (word h.next) with effs := [.transfer ch t, .areg d (word h.next)] }))

/-- TCOPY between descriptors (spec/05 R143, R144). -/
def execTcopy (f : TcopyF) (s : State) : Out :=
  .next (s.issueCopy f.e f.d f.h f.a (match s.vw.slotImg f.b with
    | .error e => .error e
    | .ok n => .ok (.inl n)) f.c f.k)

/-- TCOPY into a tile (spec/05 R143, R144, R146). -/
def execTcopyTile (f : TcopyTileF) (s : State) : Out :=
  .next (s.issueCopy f.e f.d f.h f.a (.ok (.inr (f.b, s.vw.tile f.b))) false f.k)

/-- CWAIT (spec/05 R147, R148); a wait that has ended is over, should the clause execute again (spec/03 R445). -/
def execCwait (f : CwaitF) (s : State) : Out :=
  let a := (s.srcA f.a).toNat
  let late := Src.isLatch f.a
  .next (if s.passed then s.finish f.e (.done {})
    else s.withChans f.e late [f.h] fun s =>
      let h := s.me.chan f.h
      if h.next ≤ a then s.finish f.e (.trap (cIllegal 2))
      else if h.cdone < a then s.finish f.e (if late then .stay else .again noKey)
      else (s.takeCopies f.h (decide <| · ≤ a)).pass.finish f.e (.done {}))

/-- CRESUME (spec/05 R148): the retry is made when its position executes (notes/assumptions/15.md). -/
def execCresume (f : ChanF) (s : State) : Out :=
  .next (match s.retryChan s.cur.core f.h with
    | .error d => s.finish f.e d.got
    | .ok s => s.finish f.e (.done {}))

/-- CRESUME.abort (spec/05 R148). -/
def execCresumeAbort (f : ChanF) (s : State) : Out :=
  .next (s.finish f.e (.done { effs := [.abort f.h] }))

/-- One released entry of the copy schedule as a transfer (spec/05 R155; spec/11 R300), after its two descriptors have been
read: `pend` transfers of its channel come before it in the clause. -/
def State.schedTransfer (s : State) (en : Nat) (src dst : BitVec 512) (pend : Nat) : Except Deny Transfer :=
  let ctl := word (bits en 191 128)
  let h := s.me.chan (bits en 202 200)
  match copyCheck src.toNat (.inl dst.toNat) ctl (bit en 203) (bit en 204) with
  | some c => .error (.cause c)
  | none =>
    if 2 ^ 48 ≤ h.next + pend then .error (.cause (cIllegal 3))
    else .ok { ident := h.next + pend, src := src, dst := dst, ctl := ctl, crc := bit en 203, check := bit en 204
               sup := s.me.trap.super }

/-- What releasing entries came to: the indices and transfers, a suspended channel to be retried first, or a failure. -/
inductive Sched where
  | ok (ids : List Nat) (effs : List Eff)
  | retry (ch : Nat)
  | bad (d : Deny)

/-- Release the listed entries in order (spec/05 R155), each as TDMAKE of both images and then TCOPY, which retries a suspended
channel first (R148) and stalls on a full one. -/
def State.schedRelease (s : State) (stg : Nat) (done : List Nat) (ids : List Nat) (effs : List Eff) : List Nat → Sched
  | [] => .ok ids effs
  | i :: r =>
    if done.contains i then State.schedRelease s stg done ids effs r
    else match s.rangeLocs (s.mode .read true) (s.me.copy.schedAddr + 32 * i) 32 with
    | .error e => .bad e
    | .ok ls =>
      let en := ofBytes (s.locBytes ls)
      let ch := bits en 202 200
      let pend := s.queuedHere ch effs
      if stg ≤ bits en 199 192 then State.schedRelease s stg done ids effs r
      else if bits en 255 205 != 0 || 10 < ctlScope (word (bits en 191 128)) then .bad (.cause (cDesc 0 10))
      else match s.readDesc (bits en 63 0) with
      | .error e => .bad e
      | .ok src => match s.readDesc (bits en 127 64) with
        | .error e => .bad e
        | .ok dst =>
          if (s.me.chan ch).susp.isSome then .retry ch
          else if 16 ≤ (s.me.chan ch).queue.length + pend then .bad (.busy noKey)
          else match s.schedTransfer en src dst pend with
            | .error e => .bad e
            | .ok t => State.schedRelease s stg done (ids ++ [i]) (effs ++ [.transfer ch t]) r

/-- CSTAGE (spec/05 R155): a stage of a lower position of the clause counts. -/
def execCstage (f : DstNum) (s : State) : Out :=
  let now := s.cl.effs.foldl (fun (a : Nat × List Nat) e => match e with
    | .stage n rel => (n, a.2 ++ rel)
    | _ => a) (s.me.copy.stg, s.me.copy.released)
  let stg := min (now.1 + f.n) 256
  .next (match s.schedRelease stg now.2 [] [] (upTo s.me.copy.schedCount) with
    | .bad d => s.finish f.e d.got
    | .retry ch => s.withChans f.e false [ch] fun s => s.finish f.e (.again noKey)
    | .ok ids ts =>
      let r := toA f.d f.w (word stg)
      s.finish f.e (.done { r with effs := r.effs ++ ts ++ [.stage stg ids] }))

/-! ### Barrier objects (spec/05 R151 to R153) -/

/-- The barrier's word as a position of the clause finds it, once the access checks pass. -/
def State.barAccess (s : State) (a : Word) : Except Deny Loc := s.access a 16 .atomic true

/-- BARINIT (spec/05 R152). -/
def execBarinit (f : SrcPair) (s : State) : Out :=
  let a := s.srcA f.a
  let b := (s.srcA f.b).toNat
  .next (s.finish f.e (gotOf (match s.barAccess a with
    | .error e => .error e
    | .ok l =>
      if b == 0 || 2 ^ 48 ≤ b then .error (.cause (cDesc 0 2))
      else .ok { effs := [.store (cellsAt l.key (bytesOf 16 (barInit (s.homeAfter l.key 16) b))) a.toNat { grain := 0 }] })))

/-- BARARRIVE (spec/05 R152): the checks of the access before DESC reason 2 (DESIGN CHOICE, notes/assumptions/66.md).  d is PHASE as
the position finds it, and the credit is added to the object as it stands at the commit (DESIGN CHOICE, notes/assumptions/71.md). -/
def execBararrive (f : ArriveF) (s : State) : Out :=
  let a := s.srcA f.a
  let b := (s.srcA f.b).toNat
  .next (s.finish f.e (gotOf (match s.barAccess a with
    | .error e => .error e
    | .ok l =>
      if 2 ^ 48 ≤ b then .error (.cause (cDesc 0 2))
      else
        let o := s.homeAfter l.key 16
        let r := toA f.d f.w (ofBool (bit o 63))
        .ok { r with effs := r.effs ++ [.store (cellsAt l.key (bytesOf 16 (barCredit o b))) a.toNat
          { grain := 0, rel := some [(f.s, none)], bar := some b }] })))

/-- The moving stream acquires what the credits of the phase that has flipped released (spec/05 R153). -/
def State.barAcquire (s : State) (scope : Nat) (a : Word) : State :=
  if s.hist.isEmpty then s
  else match s.xlate s.whoMe a.toNat .read with
    | .error _ => s
    | .ok l => match s.hist.find? fun r => r.flip && r.old.any fun c => c.1 == l.key with
      | none => s
      | some r => s.takeRels (s.who s.cur.core) s.agent [(scope, none)] r.rels

/-- BARWAIT (spec/05 R148, R152, R153): its acquire empties the sector's read buffer (notes/assumptions/13.md). -/
def execBarwait (f : BarwaitF) (s : State) : Out :=
  let a := s.srcA f.a
  let b := s.srcA f.b
  let late := Src.isLatch f.a || Src.isLatch f.b
  .next (if s.passed then s.finish f.e (.done {})
    else s.withChans f.e late (s.me.creditors a.toNat) fun s =>
      match s.phaseAt a with
      | .error d => s.finish f.e d.got
      | .ok p =>
        if p == wbit b 0 then s.finish f.e (if late then .stay else .again noKey)
        else ((s.barAcquire f.s a).dropLines (sectorOf s.cur.core) fun _ => true).pass.finish f.e (.done {}))

/-! ### CRC (spec/05 R149, R150) -/

/-- CRCGET (spec/05 R150). -/
def execCrcget (f : RR) (s : State) : Out :=
  let b := (s.srcA f.b).toNat
  .next (s.finish f.e (gotOf (
    if 4096 < b then .error (.cause (cDesc 0 2))
    else match s.rangeLocs (s.mode .read true) (s.srcA f.a).toNat b with
      | .error e => .error e
      | .ok ls => .ok (toA f.d f.w (crc64 (s.locBytes ls))))))

end Sys2Proof.Machine
end

