-- ==== Sys2Proof/Machine/Engine.lean ====
section
/-! DEFINITION. The Idmas engine's machinery: rows and windows, issue times and landings, row boundaries, near-memory adds,
the end of an instance, and control (spec/09 R244 to R255, R271 to R283; spec/12 R319 to R327). -/

namespace Sys2Proof.Machine

/-- The engine that moves, and its change. -/
def State.eng (s : State) : Engine := s.engine s.cur.eng
def State.onEng (s : State) (f : Engine → Engine) : State := s.onEngine s.cur.eng f

/-! ### Rows, columns and elements (spec/09 R244, R246) -/

/-- Column `i` of a row register. -/
def col (l : List Nat) (i : Nat) : Nat := l.getD i 0

/-- The 256 columns of W, ba0 to ba3 and VV. -/
def Engine.src (e : Engine) (k : Nat) : List Nat :=
  if k == 0 then (upTo 256).map (col e.w) else (upTo 256).map (col (Tab.get e.ba (k - 1) []))

def Engine.setSrc (e : Engine) (k : Nat) (l : List Nat) : Engine :=
  if k == 0 then { e with w := l } else { e with ba := Tab.set e.ba (k - 1) l }

/-- An e register. -/
def Engine.ereg (e : Engine) (n : Nat) : Word := vget e.e n 0
def Engine.setE (e : Engine) (n : Nat) (v : Word) : Engine := { e with e := vset e.e n v }

/-- Whether a window in force covers row `r` of bank `b` with WRITE and VG as asked. -/
def Engine.window (e : Engine) (b r : Nat) (write vg : Bool) : Bool :=
  e.rwin.toList.any fun w => wbit w 38 && bit (field w 35 32) b && field w 15 0 ≤ r && r ≤ field w 31 16
    && (!write || wbit w 36) && (!vg || wbit w 37)

/-- Columns of 1 KiB of memory, and bytes of columns. -/
def colsOf (bs : List Byte) : List Nat := (chunks 4 bs.length bs).map ofBytes
def rowCells (loc : Nat) (l : List Nat) : List Host.Cell := cellsAt loc (l.flatMap (bytesOf 4))

/-- `k` sectors from key `loc` up as engine `n` finds them at its banks: of writes that nothing makes come before, older bytes (spec/11
R309 to R311). -/
def State.bankBytes (s : State) (n loc k : Nat) : List Byte :=
  if s.hist.isEmpty then s.mem.bytes loc (32 * k)
  else (upTo k).flatMap fun i =>
    (s.lookAs (some (s.engine n).sight) true (engineAgent n) ((upTo 32).map (loc + 32 * i + ·))).1.map (·.2)

/-- What an engine reads at its banks: the row under what it has written since its last boundary (spec/09 R253; spec/12 R327). -/
def State.engBytes (s : State) (n loc : Nat) : List Byte :=
  let wb := (s.engine n).wbuf
  let row := s.bankBytes n loc 32
  if wb.isEmpty then row else Mem.bytes (Mem.writeCells (Mem.writeCells [] (cellsAt loc row)) wb) loc 1024

/-- Engine `n` acquires releases at a scope (spec/09 R276; spec/12 R328). -/
def State.engAcquire (s : State) (n scope : Nat) (rels : List Rel) : State :=
  let vs := (rels.filter fun r => scopesMeet r.scope r.by_ scope (engineAgent n)).map (·.view)
  if vs.isEmpty then s
  else s.onEngine n fun e => { e with sight := { e.sight with view := vs.foldl View.join e.sight.view, since := s.nextWr } }

/-- The first column of an uncorrectable sector of a row, as engine `n` finds it (spec/09 R280). -/
def State.rowUe (s : State) (n loc : Nat) : Option Nat :=
  (upTo 32).findSome? fun i =>
    if s.ue.contains (loc / 32 + i) && !covers (s.engine n).wbuf (32 * (loc / 32 + i)) 32 then some (8 * i) else none

/-- The engine writes a row (spec/09 R251): for others it takes effect with the next boundary (spec/12 R327). -/
def State.engWrite (s : State) (n : Nat) (cells : List Host.Cell) : State := s.onEngine n fun e => { e with wbuf := e.wbuf ++ cells }

/-- What engine `n` has written is performed (spec/09 R255, R275). -/
def State.flushWr (s : State) (n : Nat) : State :=
  let wb := (s.engine n).wbuf
  if wb.isEmpty then s else (s.onEngine n fun e => { e with wbuf := [] }).performBy (engineAgent n) { grain := 32 } [] none false wb

/-- The tag of an engine's format code (spec/09 R248), and element `j` of a row. -/
def engFmt (f : Nat) : Nat :=
  match f with
  | 0 => 5 | 1 => 6 | 2 => 7 | 3 => 8 | 4 => 9 | _ => 10
def rowElem (l : List Nat) (t j : Nat) : Nat :=
  let b := tagBits t
  col l (j / (32 / b)) / 2 ^ (b * (j % (32 / b))) % 2 ^ b

/-! ### Near-memory adds (spec/09 R271, R272) -/

/-- One add applied at its home; one that meets an uncorrectable sector is reported to its context (spec/04 R113), and one
without a deterministic mode is recorded (spec/14 R390).  One to a location that is lost is dropped (spec/12 R334;
notes/assumptions/17.md). -/
def State.applyAdd (s : State) (a : Add) : State :=
  let s := if a.det then s else s.recEvent (recAdd (engineOf a.key)) a.wid a.source a.seqNo
  if s.unbacked a.key then s
  else if s.ueAt a.key a.size then { s with ues := s.ues ++ [a] }
  else s.performBy 0 { grain := 0, chain := true } a.rels none true (addCells s.mem a.key a.ty a.value)

/-- Order of the deterministic keys: work identifier, source, sequence. -/
def Add.before (a b : Add) : Bool :=
  a.wid < b.wid || (a.wid == b.wid && (a.source < b.source || (a.source == b.source && a.seqNo ≤ b.seqNo)))

/-- Insert in key order, and sort. -/
def insertAdd (a : Add) : List Add → List Add
  | [] => [a]
  | b :: r => if a.before b then a :: b :: r else b :: insertAdd a r
def sortAdds (l : List Add) : List Add := l.foldr insertAdd []

/-- Whether every instance of an add's node has ended and every add they issued has been accepted (spec/09 R272).  The node of an
add from another package ends there, and that it has is announced. -/
def State.flushReached (s : State) (a : Add) : Bool :=
  if 256 ≤ a.source then
    s.dev.farEnds.contains (a.asid, a.lrec, a.node)
      && !(s.engines.any fun e => e.2.inbound.any fun x => 256 ≤ x.source && x.asid == a.asid && x.lrec == a.lrec && x.node == a.node)
  else (!(s.engines.any fun e => e.2.inbound.any fun x => x.source < 256 && x.asid == a.asid && x.lrec == a.lrec && x.node == a.node)
    && match s.graph a.asid a.lrec with
      | none => true
      | some g =>
        let n := g.nst a.node
        g.noMore g.ends a.node && n.done + n.failed == n.created)

/-- Of the nodes of other packages that have ended, those whose adds wait still. -/
def State.forgetEnds (s : State) : State :=
  { s with dev := { s.dev with farEnds := s.dev.farEnds.filter fun x => s.engines.any fun e =>
      (e.2.held ++ e.2.inbound).any fun a => decide (256 ≤ a.source) && (a.asid, a.lrec, a.node) == x } }

/-- Apply the held adds of engine `n` whose flush point has been reached, in key order; the count with the state. -/
def State.flushHeld (s : State) (n : Nat) : Nat × State :=
  let l := sortAdds ((s.engine n).held.filter s.flushReached)
  let s' := s.onEngine n fun e => { e with held := e.held.filter fun a => !s.flushReached a }
  (l.length, (l.foldl State.applyAdd s').forgetEnds)

/-- Apply up to `m` adds of the queue of engine `n` that `p` selects, oldest first; a recording that is enforced chooses
instead (spec/14 R391). -/
def State.takeAdds (s : State) (n : Nat) (p : Add → Bool) : Nat → State
  | 0 => s
  | m + 1 =>
    match (s.engine n).adds.find? fun a => p a && s.addAllowed n a with
    | none => s
    | some a =>
      State.takeAdds ((s.onEngine n fun e => ({ e with adds := e.adds.erase a }.winTouch a.key false).winTouch a.key true).applyAdd a) n p m

/-- Apply the oldest `m` adds of the queue of engine `n`. -/
def State.drainAdds (s : State) (n m : Nat) : State := s.takeAdds n (fun _ => true) m

/-- The bytes of a request: where they start and how many they are; of an access that its agent makes, the one it waits at. -/
def Req.span (r : Req) : Nat × Nat := if r.isAdd then (r.key, 8) else if r.asker.isSome then (r.key, 1) else ((r.cells.map (·.1)).headD 0, r.cells.length)

/-- Apply, in queue order, the adds of engine `n` to some bytes of a request that were accepted before it arrived (spec/12 R323). -/
def State.touchAdds (s : State) (n : Nat) (r : Req) : State :=
  s.takeAdds n (fun a => a.arrived < r.arrived && a.key < r.span.1 + r.span.2 && r.span.1 < a.key + a.size) 256

/-! ### Migration (spec/12 R333) -/

/-- The interleave generation after a retirement or a loss (spec/12 R335). -/
def nextIgen (g : Nat) : Nat := if g == 65535 then 1 else g + 1

/-- Pseudo-channel `i` = stack × 64 + channel × 2 + pc leaves service. -/
def State.clearLive (s : State) (i : Nat) : State :=
  { s with live := vset s.live (i / 64) (vget s.live (i / 64) 0 &&& ~~~word (2 ^ (i % 64))) }

/-- Rows of a pseudo-channel: 16 banks of 65,536. -/
def pcRows : Nat := 2 ^ 20

/-- The rows being copied have moved; after the last one IGEN changes.  A location keeps its contents and its key wherever its row
lies. -/
def State.rowsMoved (s : State) : State :=
  let s' := { s with dev := { s.dev with copying := none } }
  match s.dev.copying, s.dev.retiring with
  | some (i, _, n), (j, k) :: r =>
    if i != j then s'
    else if pcRows ≤ k + n then
      { s'.clearLive i with igen := nextIgen s.igen, migrating := !r.isEmpty, dev := { s'.dev with retiring := r } }
    else { s' with dev := { s'.dev with retiring := (i, k + n) :: r } }
  | _, _ => s'

/-! ### Main-die requests (spec/09 R269, R275; spec/12 R320, R323) -/

/-- Perform one request: bytes, a semaphore add, or the copy of rows; an access is its agent's to make.  An add at an uncorrectable
sector stops the instance that posted it (spec/09 R275); what would reach a lost location is dropped (spec/12 R334;
notes/assumptions/17.md). -/
def State.doReq (s : State) (r : Req) : State :=
  if r.asker.isSome then s
  else if r.moves then s.rowsMoved
  else if r.isAdd then
    let bad := s.ueAt r.key 8 || s.refuses (s.engine r.owner).asid r.key
    let s := s.onEngine r.owner fun e =>
      if e.running && e.inst == r.inst then { e with posted := e.posted - 1, semBad := if bad then some r.slot else e.semBad } else e
    if bad || (isHbm r.key && s.unbacked r.key) then s
    else s.performBy (engineAgent r.owner) { grain := 0, scope := some ((r.rels.map (·.scope)).headD 7), chain := true } r.rels none false
      (cellsAt r.key (bytesOf 8 ((ofBytes (s.mem.bytes r.key 8) + r.value) % 2 ^ 64)))
  else
    let cells := r.cells.filter fun c => !s.unbacked c.1
    if r.sys then (if s.badCells r.who.asid cells then { s with ues := s.ues ++ [r.who] } else s.performFor r.rels cells)
    else s.performBy (engineAgent r.owner) { grain := 32 } [] none false cells

/-- A request at bank group `k` is performed, after the adds to its bytes that were accepted before it arrived. -/
def State.serveOne (s : State) (k : Nat) (r : Req) : State :=
  ((((s.touchAdds k r).onEngine k fun e => if r.isAdd then (e.winTouch r.key false).winTouch r.key true else e.winTouch r.span.1 true).leave k r).doReq r)

/-- Serve the requests that wait at a bank group where no instance runs, oldest first; at most `n` of them.  One to a row that is being
copied waits (spec/12 R333). -/
def State.serve (s : State) (k : Nat) : Nat → State
  | 0 => s
  | n + 1 =>
    match (s.engine k).reqs with
    | [] => s
    | r :: _ => if s.rowMoves r.span.1 && !r.moves then s else State.serve (s.serveOne k r) k n

/-- Every request of the bank groups of a channel where no instance runs. -/
def State.serveIdle (s : State) (c : Nat) : State :=
  (upTo 8).foldl (fun s i => if (s.engine (c + i)).running then s else s.serve (c + i) ((s.engine (c + i)).reqs.length + (s.engine c).port.length)) s

/-- Every request of a bank group where no instance runs, and what then leaves the stack port. -/
def State.serveAll (s : State) (k : Nat) : State :=
  (s.serve k ((s.engine k).reqs.length + (s.engine (k / 8 * 8)).port.length)).serveIdle (k / 8 * 8)

/-- Send a request to the bank group of engine `k`: performed at once if no instance runs there. -/
def State.post (s : State) (k : Nat) (r : Req) : State :=
  let s := s.arrive k r
  if (s.engine k).running then s else s.serveAll k

/-- Requests served in the open window of bank group `k`, oldest first, within its limits, up to an access that has its place; at most
`n` of them. -/
def State.winReqs (s : State) (k : Nat) : Nat → State
  | 0 => s
  | n + 1 =>
    match (s.engine k).reqs.find? fun r => !s.yields k r with
    | none => s
    | some r =>
      if r.asker.isSome || !(s.engine k).win.any Win.mayServe then s
      else State.winReqs (((s.serveOne k r).onEngine k Engine.winServed).serveIdle (k / 8 * 8)) k n

/-- Adds applied in the open window, oldest first, within its limits; at most `n` of them. -/
def State.winAdds (s : State) (k : Nat) : Nat → State
  | 0 => s
  | n + 1 =>
    let e := s.engine k
    if !(e.adds.any fun a => s.addAllowed k a) || !e.win.any Win.mayApply then s
    else State.winAdds ((s.drainAdds k 1).onEngine k Engine.winApplied) k n

/-- What an arbitration window does (spec/12 R323): requests, then adds, then the forced refreshes.  It goes on for the accesses that
have a place in it, once the adds to their bytes have been applied. -/
def State.window (s : State) (k : Nat) : State :=
  let s := (s.dropGone k).winReqs k 16
  if s.winHeld k then ((s.engine k).reqs.filter (·.asker.isSome)).foldl (fun s r => s.touchAdds k r) s
  else (s.winAdds k 16).onEngine k fun e => e.refreshLate.stopWin

/-! ### Time (spec/09 R249 to R255) -/

/-- Landings up to cycle `t` replace W in their order; the next issue is after `t` (spec/09 R252). -/
def Engine.landTo (e : Engine) (t : Nat) : Engine :=
  let now := e.lands.filter fun l => l.at_ ≤ t
  { e with lands := e.lands.filter fun l => t < l.at_, w := now.foldl (fun _ l => l.data) e.w, now := t + 1 }

/-- The cycle from which an instruction that uses the marked registers may issue. -/
def Engine.free (e : Engine) (uses : Nat) : Nat := if e.dpDest &&& uses != 0 then e.dpFree else 0

/-! ### The end of an instance (spec/09 R279 to R283) -/

/-- Precharge every open bank from cycle `t` (spec/09 R253). -/
def Engine.closeAll (e : Engine) (t : Nat) : Engine :=
  { e with banks := e.banks.map fun b => match b.row with
      | none => b
      | some _ => b.pre (max t b.nextPre) }

/-- A node stops after an engine stop: its other engines stop at their next boundary, its queued instances are reported
STOPPED (spec/09 R283). -/
def State.stopNode (s : State) (asid lrec node : Nat) : State :=
  (s.onGraph asid lrec fun g => g.setNst node { g.nst node with stopped := true }).dropEngQ
    fun x => x.asid == asid && x.lrec == lrec && x.node == node

/-- MEM_UE of an engine meets a sector: of a row, or of the word of a semaphore slot; its own storage is neither (spec/15 R392). -/
def State.meetRow (s : State) (n row column bank : Nat) : State :=
  if column < 256 then s.meet (rowLoc n bank row + 4 * column)
  else if column == 0xFE then s.meet ((vget (s.engine n).sems bank none).getD (2 ^ 40))
  else s

/-- The end of an instance releases its writes at the node's declared scope (spec/09 R279; spec/13 R356). -/
def State.engRelease (s : State) (n : Nat) : State :=
  let e := s.engine n
  let r : Rel := { by_ := engineAgent n, scope := e.scope, view := e.view }
  if s.hist.isEmpty then s
  else if r.deviceWide then (s.deviceWide [r]).pruneWrites
  else s.onGraph e.asid e.lrec fun g => g.setNst e.node { g.nst e.node with rels := r :: (g.nst e.node).rels }

/-- End the instance of engine `n` with a status and its row, column and bank (spec/09 R280, R281). -/
def State.engEnd (s : State) (n status row column bank : Nat) : State :=
  let e := s.engine n
  let w := reportWord status n e.mpc bank column row e.eflags e.refMiss e.rowOvr
  let t := max (max e.now e.quiet) ((e.win.map (·.cursor)).getD 0)
  let s := if status == 6 then s.meetRow n row column bank else s
  let s := (s.flushWr n).engRelease n
  let s := s.onEngine n fun e => { (e.closeAll t) with
    running := false, lands := [], now := t + 1, atBound := false, stalled := false, semBad := none, win := none }
  let s := s.serveAll n
  let s := s.drainAdds n e.adds.length
  let s := if status == 0 then s else s.errRecord e.asid 2 status e.lrec e.node e.wid w 0
  let s := if 2 ≤ status then s.stopNode e.asid e.lrec e.node else s
  s.countEnd e.asid e.lrec e.node (status == 0) w

/-- Stop the moving engine. -/
def State.engStop (s : State) (status row column bank : Nat) : Out := .next (s.engEnd s.cur.eng status row column bank)

/-! ### Boundaries (spec/09 R254, R255; spec/12 R322 to R324) -/

/-- A row boundary of engine `n` issued at cycle `i` takes effect at cycle `t`: what waits for the group is served in a window. -/
def State.engBoundary (s : State) (n i t : Nat) : State :=
  let s := (s.flushWr n).onEngine n fun e =>
    { (e.landTo t) with atBound := true, lastBound := i, boundAt := t, now := max (i + 1) t }
  if (s.engine n).waits t then (s.onEngine n fun e => e.openWin t).window n else s

/-! ### Issue -/

/-- Whether a landing up to cycle `t` brings an uncorrectable row (spec/09 R282). -/
def Engine.badLanding (e : Engine) (t : Nat) : Option (Nat × Nat × Nat) :=
  (e.lands.find? fun l => l.ue.isSome && l.at_ ≤ t).map fun l => (l.row, l.ue.getD 0, l.bank)

/-- The controller takes a boundary before the next issue, the row interval having passed (spec/09 R255). -/
def State.engForce (s : State) : Out :=
  let e := s.eng
  let i := max e.now (e.lastBound + e.interval)
  let t := max i e.quiet
  match e.badLanding t with
  | some (r, c, b) => s.engStop 6 r c b
  | none => .next ((s.onEng fun e => { e with rowOvr := true }).engBoundary s.cur.eng (i - 1) t)

/-- Issue at cycle `t` or later: landings first, then `go` with the cycle.  An overdue boundary comes before. -/
def State.engIssue (s : State) (ready : Nat) (go : State → Nat → Out) : Out :=
  let e := s.eng
  let t := max e.now ready
  if e.overdue t then s.engForce
  else match e.badLanding t with
  | some (r, c, b) => s.engStop 6 r c b
  | none => go (s.onEng fun e => { (e.landTo t) with atBound := false, stalled := false }) t

/-- The next word, through the loops whose body ends here (spec/09 R249, R278). -/
def State.engNext (s : State) : Out :=
  let e := s.eng
  let (pc, ls) := loopBack (word (e.mpc + 1)) e.loops
  if 4095 < pc.toNat then (s.onEng fun e => { e with mpc := 4095 }).engStop 2 0 0 0
  else .next (s.onEng fun e => { e with mpc := pc.toNat, loops := ls })

/-- A row boundary: it takes effect once every RD has landed and every WR is written; `go` gets the cycle of its issue.  A row
that fails when it lands after that issue stops the engine at the next word, where the instruction only passes (`past`). -/
def State.engAtBound (s : State) (ready : Nat) (past : Bool) (go : State → Nat → Out) : Out :=
  let e := s.eng
  let i := max e.now ready
  let t := max i e.quiet
  if e.overdue i then s.engForce
  else match e.badLanding i with
  | some (r, c, b) => s.engStop 6 r c b
  | none => match e.badLanding t with
    | none => go (s.engBoundary s.cur.eng i t) i
    | some (r, c, b) =>
      if past then (match s.engNext with
        | .next s' => if s'.eng.running then s'.engStop 6 r c b else .next s'
        | o => o)
      else s.engStop 6 r c b

/-- A taken redirection. -/
def State.engJump (s : State) (t : Nat) : Out :=
  .next (s.onEng fun e => { e with mpc := t, loops := leaveLoops (word t) e.loops })

/-- A one-cycle instruction over the marked registers. -/
def State.engOne (s : State) (uses : Nat) (f : Engine → Engine) : Out :=
  s.engIssue (s.eng.free uses) fun s _ => (s.onEng f).engNext

/-- A datapath instruction that occupies `occ` cycles and writes the marked registers; its flags join EFLAGS but DZ
(spec/09 R249, R263). -/
def State.engData (s : State) (occ dest : Nat) (f : Engine → Engine × Word) : Out :=
  s.engIssue s.eng.dpFree fun s t =>
    (s.onEng fun e =>
      let q := f e
      { q.1 with eflags := q.1.eflags ||| (q.2 &&& 29), dpFree := t + occ, dpDest := dest }).engNext

/-- Marks of the registers. -/
def useW : Nat := 1
def useSrc (k : Nat) : Nat := if k == 0 then 1 else 2 ^ k
def useBa (k : Nat) : Nat := 2 ^ (k + 1)
def useT : Nat := 32
def useVV : Nat := 64
def useE (k : Nat) : Nat := 2 ^ (8 + k)

end Sys2Proof.Machine
end

