-- ==== Sys2Proof/Machine/Vector.lean ====
section
/-! DEFINITION. The V stream's shared operations: operands and pops, segments, the length rule, masks, rounding and draws,
results and their checks (spec/06 R156 to R169). -/

namespace Sys2Proof.Machine

/-! ### Operands -/

/-- A vector latch of the clause, and a mask latch. -/
def State.latchVec (s : State) (k : Nat) : VReg :=
  match s.cl.latches.getD k .none with
  | .vec r => r
  | _ => {}

def State.latchMask (s : State) (k : Nat) : VReg :=
  match s.cl.latches.getD k .none with
  | .mask r => r
  | _ => {}

/-- A source that names an m register or a latch that holds an m result (spec/06 R169, R189). -/
def State.srcM (s : State) : Src → VReg
  | .reg n => s.vw.mreg n
  | .latch k => s.latchMask k
  | .queue _ => {}

/-- The vector sources in field order; a stream register pops a unit, `done` being the pops of earlier fields, whose chain
flags come with it (spec/05 R139, R141; spec/06 R167). -/
def State.vOps (s : State) (done : List Nat) (acc : List VReg × Res) : List Src → Except Got (List VReg × Res)
  | [] => .ok acc
  | .reg n :: r => State.vOps s done (acc.1 ++ [s.vw.vreg n], acc.2) r
  | .latch k :: r => State.vOps s done (acc.1 ++ [s.latchVec k], acc.2) r
  | .queue n :: r =>
    match s.popUnit n (s.poppedHere n + occurs n done) with
    | .error c => .error (.trap c)
    | .ok none => .error (.again noKey)
    | .ok (some u) => State.vOps s (n :: done)
        (acc.1 ++ [u.vec], { acc.2 with effs := acc.2.effs ++ [.qpop n], flags := acc.2.flags ||| u.flags }) r

/-- One vector source. -/
def State.vOp1 (s : State) (x : Src) (k : VReg → Res → Got) : Got :=
  match s.vOps [] ([], {}) [x] with
  | .error g => g
  | .ok (vs, b) => k (vs.getD 0 {}) b

/-- Two vector sources. -/
def State.vOp2 (s : State) (x y : Src) (k : VReg → VReg → Res → Got) : Got :=
  match s.vOps [] ([], {}) [x, y] with
  | .error g => g
  | .ok (vs, b) => k (vs.getD 0 {}) (vs.getD 1 {}) b

/-- A marked v source is freed at the commit (spec/06 R166). -/
def markV (on : Bool) (x : Src) : List Eff :=
  match on, x with
  | true, .reg n => [.vfree n]
  | _, _ => []

/-- A marked m source. -/
def markM (on : Bool) (x : Src) : List Eff :=
  match on, x with
  | true, .reg n => [.mfree n]
  | _, _ => []

/-- Effects after what a result already holds. -/
def Res.also (r : Res) (l : List Eff) : Res := { r with effs := r.effs ++ l }

/-! ### Segments (spec/06 R160, R161) -/

/-- The length of the result, or VLEN (spec/06 R161): operands in the order a, b, old d, mask. -/
def lenRule (pos : Nat) (ops : List VReg) : Except Cause Nat :=
  let ls := ops.map VReg.len
  match ls.find? fun l => l != 1 with
  | none => .ok 1
  | some l1 => match ls.find? fun l => l != 1 && l != l1 with
    | none => .ok l1
    | some l2 => .error (cVlen pos l1 l2)

/-- The runs of an operand over `len` elements: one of length 1 is broadcast. -/
def VReg.over (len : Nat) (r : VReg) : List Run :=
  if r.len == 1 && len != 1 then (if len == 0 then [] else r.runs.map fun x => { x with cnt := len }) else r.runs

/-- Drop the first `n` elements, which lie in the first run. -/
def dropRun (n : Nat) : List Run → List Run
  | [] => []
  | r :: rs => if r.cnt ≤ n then rs else { r with cnt := r.cnt - n } :: rs

/-- The segments of aligned run lists: the value of each operand, and the length. -/
def segments (ops : List (List Run)) : Nat → List (List Nat × Nat)
  | 0 => []
  | fuel + 1 =>
    if ops.isEmpty || ops.any List.isEmpty then []
    else
      let heads := ops.map fun l => l.headD { val := 0, cnt := 0 }
      let n := heads.foldl (fun a r => min a r.cnt) 65536
      (heads.map (·.val), n) :: segments (ops.map (dropRun n)) fuel

/-- The segments of operands over their common length. -/
def segsOf (len : Nat) (ops : List VReg) : List (List Nat × Nat) :=
  segments (ops.map (VReg.over len)) (ops.foldl (fun a r => a + r.n) 1)

/-! ### Rounding context (spec/01 R32; spec/02 R49 to R51) -/

/-- RMODE.CTL's mode and FTZ with the seed as the clause has left it. -/
structure Rnd where
  mode : Nat
  ftz : Bool
  seed : Word
  deriving DecidableEq, Repr, Inhabited

/-- The moving stream's rounding context. -/
def State.rnd (s : State) : Rnd :=
  let ctl := ((s.cl.snap).map (·.ctl)).getD s.st.ctl
  { mode := field ctl 2 0, ftz := wbit ctl 3, seed := s.cl.seed.getD (((s.cl.snap).map (·.seed)).getD s.st.seed) }

/-- The mode of one rounding, drawing in mode 4. -/
def Rnd.next (r : Rnd) : RMode × Rnd :=
  if r.mode == 4 then (.stoch (draw r.seed).2, { r with seed := (draw r.seed).1 }) else (fixedMode r.mode, r)

/-- The seed a result records. -/
def Rnd.out (r : Rnd) : Option Word := if r.mode == 4 then some r.seed else none

/-! ### Results (spec/06 R157, R163, R164) -/

/-- A v result that passes RUN_CAP, with EMPTY and its frees. -/
def State.vResult (s : State) (d : Nat) (w c : Bool) (tag : Nat) (raw : List Run) (b : Res) : Got :=
  let r : VReg := { tag := tag, runs := if c then mergeRuns raw else raw }
  if s.vw.rcap < r.n then .trap (cRunCap s.cl.pos r.n (if w then 255 else d) s.vw.rcap)
  else .done { b with latch := .vec r, effs := b.effs ++ (if w then [] else [.vreg d r]), flags := b.flags ||| fIf r.runs.isEmpty fEMPTY }

/-- An m result, whose runs are maximal. -/
def State.mResult (s : State) (d : Nat) (w : Bool) (raw : List Run) (b : Res) : Got :=
  let r : VReg := { tag := 11, runs := mergeRuns raw }
  if s.vw.rcap < r.n then .trap (cRunCap s.cl.pos r.n (if w then 255 else 32 + d) s.vw.rcap)
  else .done { b with latch := .mask r, effs := b.effs ++ (if w then [] else [.mreg d r]), flags := b.flags ||| fIf r.runs.isEmpty fEMPTY }

/-- What a computation over segments has built: runs newest first, flags, rounding context. -/
structure Built where
  runs : List Run := []
  flags : Word := 0
  rnd : Rnd
  deriving DecidableEq, Repr, Inhabited

/-- Add a segment's element. -/
def Built.push (b : Built) (code n : Nat) (fl : Word) : Built :=
  { b with runs := { val := code, cnt := n } :: b.runs, flags := b.flags ||| fl }

/-- Compute segment by segment (spec/06 R162, R165): `live` says which segments are computed, `other` gives the element of
the rest, and `fn` the element and flags under a rounding mode and FTZ. -/
def Built.map (b : Built) (draws : Bool) (live : List Nat → Bool) (other : List Nat → Nat)
    (fn : RMode → Bool → List Nat → Nat × Word) (segs : List (List Nat × Nat)) : Built :=
  segs.foldl (fun b x =>
    if live x.1 then
      let (m, r) := if draws then b.rnd.next else (fixedMode b.rnd.mode, b.rnd)
      let q := fn m b.rnd.ftz x.1
      ({ b with rnd := r }).push q.1 x.2 q.2
    else b.push (other x.1) x.2 0) b

/-- How an element-wise instruction is shaped: its sources, the old destination, whether the old destination is an operand
besides the mask's use of it, and the mask with its suffix. -/
structure Elt where
  vs : List VReg
  old : VReg := {}
  reads : Bool := false
  mask : Nat := 0
  z : Bool := false
  base : Res := {}
  deriving DecidableEq, Repr, Inhabited

/-- Whether the old destination is an operand. -/
def Elt.useOld (x : Elt) : Bool := x.reads || (x.mask != 0 && !x.z)

/-- The operands in the order of the length rule (spec/06 R161). -/
def Elt.ops (x : Elt) (c : Core) : List VReg :=
  x.vs ++ (if x.useOld then [x.old] else []) ++ (if x.mask != 0 then [c.mreg x.mask] else [])

/-- FORMAT for result tag `t` (spec/06 R162): the mask carries BIT, and the old destination under .m the result's tag. -/
def Elt.tagOk (x : Elt) (c : Core) (t : Nat) : Bool :=
  (x.mask == 0 || (c.mreg x.mask).tag == 11) && (!x.useOld || x.old.tag == t)

/-- An element-wise instruction up to its raw result (spec/06 R159 to R165): `tag` is the result's, none for sources it does
not accept; `chk` is a further check of every computed segment. -/
def State.eltwise (s : State) (x : Elt) (tag : Option Nat) (draws : Bool) (chk : List Nat → Option Cause)
    (fn : RMode → Bool → List Nat → Nat × Word) (k : Nat → List Run → Res → Got) : Got :=
  let pos := s.cl.pos
  match tag with
  | none => .trap (cFormat pos 0)
  | some t =>
    if !x.tagOk s.vw t then .trap (cFormat pos 0)
    else
      let ops := x.ops s.vw
      match lenRule pos ops with
      | .error c => .trap c
      | .ok len =>
        let segs := segsOf len ops
        let live := fun (vals : List Nat) => x.mask == 0 || vals.getLastD 0 == 1
        match (segs.filter fun g => live g.1).findSome? fun g => chk g.1 with
        | some c => .trap c
        | none =>
          let b := ({ rnd := s.rnd } : Built).map draws live (fun vals => if x.z then 0 else vals.getD x.vs.length 0) fn segs
          k t b.runs.reverse { x.base with flags := x.base.flags ||| b.flags, seed := if draws then b.rnd.out else x.base.seed }

/-- No further check. -/
def noChk : List Nat → Option Cause := fun _ => none

/-! ### Shapes of the element-wise instructions -/

/-- A shared tag that a row accepts. -/
def sameTag (ok : Nat → Bool) (a b : VReg) : Option Nat := if a.tag == b.tag && ok a.tag then some a.tag else none

/-- A tag that a row accepts. -/
def oneTag (ok : Nat → Bool) (a : VReg) : Option Nat := if ok a.tag then some a.tag else none

/-- INT4 to INT32, BF16, FP16 or FP32. -/
def numTag (t : Nat) : Bool := isIntTag t || isWideTag t

/-- Two sources and a v result (spec/06 R170): `rd` says that old d is the third operand, `rounds` that floating results
are rounded by the mode. -/
def State.vBin (s : State) (f : VF) (ok : Nat → Bool) (rd rounds : Bool) (fn : Nat → RMode → Bool → List Nat → Nat × Word) : Out :=
  .next (s.finish f.e (s.vOp2 f.a f.b fun a b base =>
    let x : Elt := { vs := [a, b], old := s.vw.vreg f.d, reads := rd, mask := f.m, z := f.z, base := base }
    let t := sameTag ok a b
    s.eltwise x t (rounds && isWideTag a.tag) noChk (fn a.tag) fun t raw r =>
      s.vResult f.d f.w f.c t raw (r.also (markV f.l f.a ++ markV f.k f.b))))

/-- One source and a v result of the same tag (spec/06 R174). -/
def State.vUn (s : State) (f : VUn) (ok : Nat → Bool) (draws : Bool) (fn : Nat → RMode → Bool → Nat → Nat × Word) : Out :=
  .next (s.finish f.e (s.vOp1 f.a fun a base =>
    let x : Elt := { vs := [a], old := s.vw.vreg f.d, mask := f.m, z := f.z, base := base }
    s.eltwise x (oneTag ok a) draws noChk (fun m ftz v => fn a.tag m ftz (v.getD 0 0)) fun t raw r =>
      s.vResult f.d f.w f.c t raw (r.also (markV f.l f.a))))

end Sys2Proof.Machine
end

