-- ==== Sys2Proof/Machine/VecArith.lean ====
section
/-! DEFINITION. The V stream's arithmetic: element-wise, compare and select, unary and special functions, conversion,
quantisation and reductions (spec/06 R170 to R177; spec/02 R65). -/

namespace Sys2Proof.Machine

/-! ### Element functions (spec/06 R170, R171) -/

/-- An exact value rounded into floating-point tag `t`, with the flags of forming it. -/
def roundTo (t : Nat) (m : RMode) (ftz : Bool) (v : Val × Word) : Nat × Word :=
  let q := (tagFmt t).round m ftz v.1
  (q.1, q.2 ||| v.2)

/-- The exact integers of two codes of an integer tag. -/
def intOf (t x : Nat) : Int := signed (tagBits t) x

def elAdd (t : Nat) (m : RMode) (ftz : Bool) (v : List Nat) : Nat × Word :=
  let x := v.getD 0 0
  let y := v.getD 1 0
  if isIntTag t then satInt (tagBits t) (intOf t x + intOf t y)
  else roundTo t m ftz ((tagVal t x).add (m == .down) (tagVal t y))

def elSub (t : Nat) (m : RMode) (ftz : Bool) (v : List Nat) : Nat × Word :=
  let x := v.getD 0 0
  let y := v.getD 1 0
  if isIntTag t then satInt (tagBits t) (intOf t x - intOf t y)
  else roundTo t m ftz ((tagVal t x).add (m == .down) (tagVal t y).negate)

def elMul (t : Nat) (m : RMode) (ftz : Bool) (v : List Nat) : Nat × Word :=
  let x := v.getD 0 0
  let y := v.getD 1 0
  if isIntTag t then satInt (tagBits t) (intOf t x * intOf t y)
  else roundTo t m ftz ((tagVal t x).mul (tagVal t y))

def elFma (t : Nat) (m : RMode) (ftz : Bool) (v : List Nat) : Nat × Word :=
  roundTo t m ftz ((tagVal t (v.getD 0 0)).fma (m == .down) (tagVal t (v.getD 1 0)) (tagVal t (v.getD 2 0)))

def elDiv (t : Nat) (m : RMode) (ftz : Bool) (v : List Nat) : Nat × Word :=
  roundTo t m ftz ((tagVal t (v.getD 0 0)).div (tagVal t (v.getD 1 0)))

/-- The smaller or the larger of two codes (spec/06 R171). -/
def pick (larger : Bool) (t x y : Nat) : Nat × Word :=
  let a := tagVal t x
  let b := tagVal t y
  if a.isNan || b.isNan then ((tagFmt t).nanCode, fIf (a.isSig || b.isSig) fINV)
  else
    let less := if a.lt b then true else if b.lt a then false else a.neg
    (if less != larger then x else y, 0)

def elBits (op : Nat → Nat → Nat) (v : List Nat) : Nat × Word := (op (v.getD 0 0) (v.getD 1 0), 0)

def elShl (t : Nat) (v : List Nat) : Nat × Word :=
  let w := tagBits t
  let k := v.getD 1 0 % 2 ^ w
  (if w ≤ k then 0 else v.getD 0 0 * 2 ^ k % 2 ^ w, 0)

def elShr (t : Nat) (v : List Nat) : Nat × Word :=
  let w := tagBits t
  let k := v.getD 1 0 % 2 ^ w
  let a := intOf t (v.getD 0 0)
  (toCode w (if w ≤ k then (if a < 0 then -1 else 0) else a / ((2 ^ k : Nat) : Int)), 0)

/-! ### Majors 0x01 to 0x0C (spec/06 R170) -/

/-- VADD. -/
def execVadd (f : VF) (s : State) : Out := s.vBin f numTag false true elAdd

/-- VSUB. -/
def execVsub (f : VF) (s : State) : Out := s.vBin f numTag false true elSub

/-- VMUL. -/
def execVmul (f : VF) (s : State) : Out := s.vBin f numTag false true elMul

/-- VFMA: old d is the third operand. -/
def execVfma (f : VF) (s : State) : Out := s.vBin f isWideTag true true elFma

/-- VDIV. -/
def execVdiv (f : VF) (s : State) : Out := s.vBin f isWideTag false true elDiv

/-- VMIN (spec/06 R171). -/
def execVmin (f : VF) (s : State) : Out := s.vBin f numTag false false fun t _ _ v => pick false t (v.getD 0 0) (v.getD 1 0)

/-- VMAX (spec/06 R171). -/
def execVmax (f : VF) (s : State) : Out := s.vBin f numTag false false fun t _ _ v => pick true t (v.getD 0 0) (v.getD 1 0)

/-- VAND. -/
def execVand (f : VF) (s : State) : Out := s.vBin f isIntTag false false fun _ _ _ v => elBits (· &&& ·) v

/-- VOR. -/
def execVor (f : VF) (s : State) : Out := s.vBin f isIntTag false false fun _ _ _ v => elBits (· ||| ·) v

/-- VXOR. -/
def execVxor (f : VF) (s : State) : Out := s.vBin f isIntTag false false fun _ _ _ v => elBits (· ^^^ ·) v

/-- VSHL. -/
def execVshl (f : VF) (s : State) : Out := s.vBin f isIntTag false false fun t _ _ v => elShl t v

/-- VSHR. -/
def execVshr (f : VF) (s : State) : Out := s.vBin f isIntTag false false fun t _ _ v => elShr t v

/-! ### Compare and select (spec/06 R172, R173) -/

/-- A condition of VCMP on two codes. -/
def elCmp (t cond : Nat) (v : List Nat) : Nat × Word :=
  let a := tagVal t (v.getD 0 0)
  let b := tagVal t (v.getD 1 0)
  let r := match cond with
    | 0 => a.eqv b
    | 1 => a.lt b
    | 2 => a.lt b || a.eqv b
    | _ => !a.eqv b
  (b2n r, fIf (a.isSig || b.isSig) fINV)

/-- VCMP (spec/06 R172). -/
def execVcmp (f : VcmpF) (s : State) : Out :=
  .next (s.finish f.e (s.vOp2 f.a f.b fun a b base =>
    let x : Elt := { vs := [a, b], old := s.vw.mreg f.d, mask := f.m, z := f.z, base := base }
    s.eltwise x ((sameTag vTag a b).map fun _ => 11) false noChk (fun _ _ v => elCmp a.tag f.p v) fun _ raw r =>
      s.mResult f.d f.w raw (r.also (markV f.l f.a ++ markV f.k f.b))))

/-- VSEL (spec/06 R173): b stands where the old destination would. -/
def execVsel (f : VselF) (s : State) : Out :=
  .next (s.finish f.e (s.vOp2 f.a f.b fun a b base =>
    let x : Elt := { vs := [a], old := b, mask := f.m, base := base }
    s.eltwise x (sameTag vTag a b) false noChk (fun _ _ v => (v.getD 0 0, 0)) fun t raw r =>
      s.vResult f.d f.w f.c t raw (r.also (markV f.l f.a ++ markV f.k f.b))))

/-! ### Unary group (spec/06 R174) -/

/-- A floating-point code with its sign changed: a NaN is canonical. -/
def elSign (t : Nat) (op : Val → Val) (x : Nat) : Nat × Word :=
  let a := tagVal t x
  if a.isNan then ((tagFmt t).nanCode, fIf a.isSig fINV)
  else (((tagFmt t).round .nearest false (op a)).1, 0)

/-- VMOV. -/
def execVmov (f : VUn) (s : State) : Out := s.vUn f vTag false fun _ _ _ x => (x, 0)

/-- VNEG. -/
def execVneg (f : VUn) (s : State) : Out :=
  s.vUn f numTag false fun t _ _ x => if isIntTag t then satInt (tagBits t) (-intOf t x) else elSign t Val.negate x

/-- VABS. -/
def execVabs (f : VUn) (s : State) : Out :=
  s.vUn f numTag false fun t _ _ x => if isIntTag t then satInt (tagBits t) ((intOf t x).natAbs : Int) else elSign t Val.abs x

/-- VSQRT. -/
def execVsqrt (f : VUn) (s : State) : Out := s.vUn f isWideTag true fun t m ftz x => roundTo t m ftz (tagVal t x).sqrt

/-! ### Special functions (spec/02 R65) -/

/-- An exact result of a special function: no INX but from a flush. -/
def exact32 (ftz : Bool) (v : Val) : Nat × Word := fmtFP32.round .nearest ftz v

/-- Whether two non-negative magnitudes lie at most `u` apart. -/
def Mag.within (a b u : Mag) : Bool :=
  match addFin false false a true b with
  | .fin _ d => !u.lt d
  | _ => false

/-- The unit in the last place of the FP32 number of magnitude code `r`. -/
def ulp32 (r : Nat) : Mag := ⟨1, 1, (max (r / 2 ^ 23) 1 : Nat) - 150⟩

/-- The FP32 magnitude codes within `k` ulp of `m`, where `r` is the code of its correctly rounded value. -/
def nearCodes (k r : Nat) (m : Mag) : List Nat :=
  ((upTo (2 * k + 5)).map fun i => r + i - (k + 2)).eraseDups.filter fun c =>
    c ≤ fmtFP32.maxCode && match fmtFP32.decode c with
      | .fin _ v => v.within m ⟨k, (ulp32 r).den, (ulp32 r).exp⟩
      | _ => false

/-- A result within `k` ulp of the value of sign `neg` and magnitude `m` (spec/02 R65): exact where it is representable,
otherwise one of the numbers that the bound admits, which one being free.  A value past the FP32 range, as VRCP of a small
subnormal has, rounds to the infinity of its sign with OVF and INX (DESIGN CHOICE, notes/assumptions/25.md). -/
def bounded32 (fn code k : Nat) (ftz neg : Bool) (m : Mag) : Nat × Word :=
  let q := fmtFP32.round .nearest false (.fin neg m)
  let r := q.1 % 2 ^ 31
  if q.2 &&& fINX == 0 then exact32 ftz (.fin neg m)
  else if r == fmtFP32.infCode then q
  else
    let ok := nearCodes k r m
    let c := ok.getD (Config.special fn code ftz % ok.length) r
    let o := exact32 ftz (fmtFP32.decode (fmtFP32.withSign neg c))
    (o.1, o.2 ||| fINX)

/-! #### Exponential and logarithm to 320 fractional bits, far more than the bounds of R65 can tell apart -/

/-- 1.0 in fixed point. -/
def fxOne : Nat := 2 ^ 320

/-- z + z³/3 + z⁵/5 + … by `fuel` terms, `p` being the power and `k` its exponent. -/
def fxAtanhFrom (z2 : Nat) : Nat → Nat → Nat → Nat
  | 0, _, _ => 0
  | fuel + 1, p, k => p / k + fxAtanhFrom z2 fuel (p * z2 / fxOne) (k + 2)

/-- ln x for x between 1 and 2. -/
def fxLn (x : Nat) : Nat :=
  let z := (x - fxOne) * fxOne / (x + fxOne)
  2 * fxAtanhFrom (z * z / fxOne) 110 z 1

/-- The terms of e^x from term `p` = x^k ÷ k! on, `fuel` of them. -/
def fxExpFrom (x : Nat) : Nat → Nat → Nat → Nat
  | 0, _, _ => 0
  | fuel + 1, p, k => p + fxExpFrom x fuel (p * x / fxOne / (k + 1)) (k + 1)

/-- 2^x for x from 0 up to 1. -/
def fxExp2 (x : Nat) : Nat := fxExpFrom (x * fxLn (2 * fxOne) / fxOne) 90 fxOne 0

/-- A finite FP32 value in fixed point: its exponent is at least −149. -/
def fxOf (neg : Bool) (m : Mag) : Int :=
  let n : Int := ((m.num * 2 ^ (m.exp + 320).toNat : Nat) : Int)
  if neg then -n else n

/-- 2^x for fixed-point x, as numerator and denominator. -/
def fxPow2 (x : Int) : Nat × Nat :=
  let n := x / (fxOne : Int)
  let e := fxExp2 (x % (fxOne : Int)).toNat
  if 0 ≤ n then (e * 2 ^ n.toNat, fxOne) else (e, fxOne * 2 ^ (-n).toNat)

/-- e^x for fixed-point x. -/
def fxExp (x : Int) : Nat × Nat := fxPow2 (x * (fxOne : Int) / (fxLn (2 * fxOne) : Int))

/-- Whether a finite value is an integer, and which. -/
def Mag.int (m : Mag) : Option Nat :=
  let (n, d) := m.over 0
  if n % d == 0 then some (n / d) else none

/-- An integer with sign. -/
def signedInt (neg : Bool) (n : Nat) : Int := if neg then -(n : Int) else (n : Int)

def canon32 (sig : Bool) (fl : Word) : Nat × Word := (fmtFP32.nanCode, fIf sig fINV ||| fl)

/-- |x| < n for a finite value. -/
def Mag.below (m : Mag) (n : Nat) : Bool := m.lt ⟨n, 1, 0⟩

/-- VEXP2 of an FP32 value. -/
def exp2_32 (code : Nat) (ftz : Bool) : Val → Nat × Word
  | .nan s => canon32 s 0
  | .inf neg => exact32 ftz (if neg then Val.zero false else .inf false)
  | .fin neg m =>
    if !neg && !m.below 128 then (fmtFP32.infCode, fOVF ||| fINX)
    else if neg && !m.below 150 then (0, fUNF ||| fINX)
    else match m.int with
      | some n => exact32 ftz (.fin false ⟨1, 1, signedInt neg n⟩)
      | none =>
        let e := fxPow2 (fxOf neg m)
        bounded32 4 code 1 ftz false ⟨e.1, e.2, 0⟩

/-- VLOG2 of an FP32 value. -/
def log2_32 (code : Nat) (ftz : Bool) : Val → Nat × Word
  | .nan s => canon32 s 0
  | .inf neg => if neg then canon32 false fINV else exact32 ftz (.inf false)
  | .fin neg m =>
    if m.num == 0 then (fmtFP32.withSign true fmtFP32.infCode, fDZ)
    else if neg then canon32 false fINV
    else
      let (n, d) := m.over m.log2
      if n == d then exact32 ftz (Val.ofInt m.log2)
      else
        let l : Int := m.log2 * (fxOne : Int) + ((fxLn (n * fxOne / d) * fxOne / fxLn (2 * fxOne) : Nat) : Int)
        bounded32 5 code 1 ftz (l < 0) ⟨l.natAbs, 1, -320⟩

/-- VRCP of an FP32 value. -/
def rcp32 (code : Nat) (ftz : Bool) : Val → Nat × Word
  | .nan s => canon32 s 0
  | .inf neg => exact32 ftz (Val.zero neg)
  | .fin neg m =>
    if m.num == 0 then (fmtFP32.withSign neg fmtFP32.infCode, fDZ)
    else
      let q := bounded32 6 code 1 ftz neg ⟨m.den, m.num, -m.exp⟩
      (q.1, q.2 ||| fIf (Mag.lt ⟨1, 1, 126⟩ m) fUNF)

/-- 1 ÷ √m, with every bit below the last as one sticky bit. -/
def Mag.rsqrt (m : Mag) : Mag :=
  let odd := m.exp % 2 != 0
  let n := if odd then m.num * 2 else m.num
  let j := if odd then (m.exp - 1) / 2 else m.exp / 2
  let q := isqrt (2 ^ 200 / n)
  ⟨if q * q * n == 2 ^ 200 then 2 * q else 2 * q + 1, 1, -j - 101⟩

/-- VRSQRT of an FP32 value. -/
def rsqrt32 (code : Nat) (ftz : Bool) : Val → Nat × Word
  | .nan s => canon32 s 0
  | .inf neg => if neg then canon32 false fINV else exact32 ftz (Val.zero false)
  | .fin neg m =>
    if m.num == 0 then (fmtFP32.withSign neg fmtFP32.infCode, fDZ)
    else if neg then canon32 false fINV
    else bounded32 7 code 1 ftz false m.rsqrt

/-- x − x³ ÷ 3 for a small FP32 value, where tanh x is nearer to it than fixed point can tell. -/
def Mag.lessCube (m : Mag) : Mag :=
  ⟨m.num * (3 * 2 ^ (2 * (-m.exp).toNat) - m.num * m.num), 3, 3 * m.exp⟩

/-- VTANH of an FP32 value: the result for −x is the exact negation of that for x. -/
def tanh32 (code : Nat) (ftz : Bool) : Val → Nat × Word
  | .nan s => canon32 s 0
  | .inf neg => exact32 ftz (if neg then Val.one.negate else Val.one)
  | .fin neg m =>
    if m.num == 0 then (code, 0)
    else if !m.below 9 then exact32 ftz (if neg then Val.one.negate else Val.one)
    else
      let e := fxExp (2 * fxOf false m)
      let v : Mag := if m.log2 < -60 then m.lessCube else ⟨e.1 - e.2, e.1 + e.2, 0⟩
      bounded32 8 (code % 2 ^ 31) 2 ftz neg v

/-- VSIGM of an FP32 value. -/
def sigm32 (code : Nat) (ftz : Bool) : Val → Nat × Word
  | .nan s => canon32 s 0
  | .inf neg => exact32 ftz (if neg then Val.zero false else Val.one)
  | .fin neg m =>
    if m.num == 0 then exact32 ftz (.fin false ⟨1, 1, -1⟩)
    else if !neg && !m.below 17 then exact32 ftz Val.one
    else if neg && !m.below 104 then (0, fUNF ||| fINX)
    else
      let e := fxExp (fxOf neg m)
      bounded32 9 code 2 ftz false ⟨e.1, e.1 + e.2, 0⟩

/-- A special function on a code of BF16, FP16 or FP32 (spec/02 R65): narrower sources are widened exactly and the result is
rounded to nearest even. -/
def elSpecial (fn : Nat → Bool → Val → Nat × Word) (t : Nat) (ftz : Bool) (x : Nat) : Nat × Word :=
  let v := tagVal t x
  let q := fn (fmtFP32.round .nearest false v).1 ftz v
  if t == 10 then q
  else
    let n := (tagFmt t).round .nearest ftz (fmtFP32.decode q.1)
    (n.1, n.2 ||| q.2)

/-- VEXP2 (spec/06 R174). -/
def execVexp2 (f : VUn) (s : State) : Out := s.vUn f isWideTag false fun t _ ftz x => elSpecial exp2_32 t ftz x

/-- VLOG2. -/
def execVlog2 (f : VUn) (s : State) : Out := s.vUn f isWideTag false fun t _ ftz x => elSpecial log2_32 t ftz x

/-- VRCP. -/
def execVrcp (f : VUn) (s : State) : Out := s.vUn f isWideTag false fun t _ ftz x => elSpecial rcp32 t ftz x

/-- VRSQRT. -/
def execVrsqrt (f : VUn) (s : State) : Out := s.vUn f isWideTag false fun t _ ftz x => elSpecial rsqrt32 t ftz x

/-- VTANH. -/
def execVtanh (f : VUn) (s : State) : Out := s.vUn f isWideTag false fun t _ ftz x => elSpecial tanh32 t ftz x

/-- VSIGM. -/
def execVsigm (f : VUn) (s : State) : Out := s.vUn f isWideTag false fun t _ ftz x => elSpecial sigm32 t ftz x

/-! ### Conversion (spec/06 R175) -/

/-- VCVT. -/
def execVcvt (f : VcvtF) (s : State) : Out :=
  .next (s.finish f.e (s.vOp1 f.a fun a base =>
    let x : Elt := { vs := [a], old := s.vw.vreg f.d, mask := f.m, z := f.z, base := base }
    s.eltwise x (if vTag a.tag then some f.b else none) (cvtDraws a.tag f.b) noChk
      (fun m ftz v => convert a.tag f.b m ftz (v.getD 0 0)) fun t raw r =>
        s.vResult f.d f.w f.c t raw (r.also (markV f.l f.a))))

/-! ### Quantisation (spec/06 R176) -/

/-- Element tag, EMAX and MAXF of EF. -/
def quantOf (ef : Nat) : Nat × Int × Nat :=
  match ef with
  | 0 => (5, 2, 6)
  | 1 => (6, 8, 480)
  | 2 => (7, 16, 114688)
  | 3 => (1, 2, 7)
  | _ => (2, 6, 127)

/-- The scale of a block with largest magnitude `amax`, as value and code. -/
def quantScale (sf : Bool) (emax : Int) (maxf : Nat) (amax : Mag) : Val × Nat :=
  if amax.num == 0 then (Val.one, if sf then 0x3C else 127)
  else if sf then
    let c := (fmtE5M2S.round .up false (.fin false ⟨amax.num, amax.den * maxf, amax.exp⟩)).1
    let c := if c == 0x7C then 0x7B else c
    (fmtE5M2S.decode c, c)
  else
    let e := max (-127) (min 127 (amax.log2 - emax))
    (.fin false ⟨1, 1, e⟩, (127 + e).toNat)

/-- The largest magnitude of a list of finite values. -/
def maxMag (l : List Val) : Mag :=
  l.foldl (fun a v => match v with
    | .fin _ m => if a.lt m then m else a
    | _ => a) ⟨0, 1, 0⟩

/-- One block: its segments' elements added to `b`, and its scale code. -/
def quantBlock (t ef : Nat) (sf : Bool) (runs : List Run) (b : Built) : Built × Nat :=
  let (et, emax, maxf) := quantOf ef
  let vals := runs.map fun r => tagVal t r.val
  if vals.any fun v => v.isNan || v.isInf then
    (runs.foldl (fun b r => b.push 0 r.cnt fINV) b, if sf then 0x7E else 0xFF)
  else
    let (s, code) := quantScale sf emax maxf (maxMag vals)
    (b.map true (fun _ => true) (fun _ => 0)
      (fun m ftz v => let q := roundTag et m ftz ((tagVal t (v.getD 0 0)).div s).1; q)
      (runs.map fun r => ([r.val], r.cnt)), code)

/-- VQUANT. -/
def execVquant (f : VquantF) (s : State) : Out :=
  .next (s.finish f.e (s.vOp1 f.a fun a base =>
    if !isWideTag a.tag then .trap (cFormat s.cl.pos 0)
    else
      let ef := f.b % 8
      let blk := 2 ^ (f.b / 8 % 4 + 2)
      let sf := bit f.b 5
      let go := (upTo (ceilDiv a.len blk)).foldl (fun (st : Built × List Nat) k =>
        let q := quantBlock a.tag ef sf (sliceRuns (k * blk) blk a.runs) st.1
        (q.1, st.2 ++ [q.2])) (({ rnd := s.rnd } : Built), [])
      let raw := go.2.map fun c => ({ val := c, cnt := 1 } : Run)
      let scales : VReg := { tag := if sf then 13 else 12, runs := if f.c then mergeRuns raw else raw }
      match s.vResult f.d false f.c (quantOf ef).1 go.1.runs.reverse
          { base with flags := base.flags ||| go.1.flags, seed := go.1.rnd.out } with
      | .done r =>
        if s.vw.rcap < scales.n then .trap (cRunCap s.cl.pos scales.n (f.d + 1) s.vw.rcap)
        else .done (r.also (.vreg (f.d + 1) scales :: markV f.l f.a))
      | g => g))

/-! ### Reductions (spec/06 R177) -/

/-- The segments a reduction keeps. -/
def State.kept (s : State) (a : VReg) (mask : Nat) : Except Cause (List (Nat × Nat)) :=
  let pos := s.cl.pos
  if !numTag a.tag || (mask != 0 && (s.vw.mreg mask).tag != 11) then .error (cFormat pos 0)
  else
    let ops := if mask == 0 then [a] else [a, s.vw.mreg mask]
    match lenRule pos ops with
    | .error c => .error c
    | .ok len =>
      .ok (((segsOf len ops).filter fun g => mask == 0 || g.1.getD 1 0 == 1).map fun g => (g.1.getD 0 0, g.2))

/-- A reduction: `fn` folds the kept segments to the code of the result. -/
def State.vReduce (s : State) (f : VredF) (fn : Nat → List (Nat × Nat) → Rnd → Nat × Word × Rnd) : Out :=
  .next (s.finish f.e (s.vOp1 f.a fun a base =>
    match s.kept a f.m with
    | .error c => .trap c
    | .ok segs =>
      let q := fn a.tag segs s.rnd
      s.vResult f.d f.w false a.tag [{ val := q.1, cnt := 1 }]
        ({ base with flags := base.flags ||| q.2.1, seed := q.2.2.out }.also (markV f.l f.a))))

/-- VRSUM of floating-point segments. -/
def sumFloat (t : Nat) (segs : List (Nat × Nat)) (r : Rnd) : Nat × Word × Rnd :=
  let go := segs.foldl (fun (st : Option Nat × Word × Rnd) g =>
    let (m1, r1) := st.2.2.next
    let p := roundTo t m1 r1.ftz ((tagVal t g.1).mul (Val.ofInt g.2))
    match st.1 with
    | none => (some p.1, st.2.1 ||| p.2, r1)
    | some acc =>
      let (m2, r2) := r1.next
      let q := roundTo t m2 r2.ftz ((tagVal t acc).add (m2 == .down) (tagVal t p.1))
      (some q.1, st.2.1 ||| p.2 ||| q.2, r2)) (none, 0, r)
  (go.1.getD 0, go.2)

/-- VRSUM (spec/06 R177). -/
def execVrsum (f : VredF) (s : State) : Out :=
  s.vReduce f fun t segs r =>
    if isIntTag t then
      let q := satInt (tagBits t) (segs.foldl (fun a g => a + intOf t g.1 * g.2) 0)
      (q.1, q.2, r)
    else sumFloat t segs r

/-- VRMAX and VRMIN: the identity is −∞ or lo, and +∞ or hi. -/
def pickAll (larger : Bool) (t : Nat) (segs : List (Nat × Nat)) (r : Rnd) : Nat × Word × Rnd :=
  let top := 2 ^ (tagBits t - 1)
  let none_ := if isIntTag t then (if larger then top else top - 1) else (tagFmt t).withSign larger (tagFmt t).infCode
  let go := segs.foldl (fun (st : Option Nat × Word) g =>
    let q := pick larger t (st.1.getD g.1) g.1
    (some q.1, st.2 ||| q.2)) (none, 0)
  (go.1.getD none_, go.2, r)

/-- VRMAX (spec/06 R177). -/
def execVrmax (f : VredF) (s : State) : Out := s.vReduce f (pickAll true)

/-- VRMIN (spec/06 R177). -/
def execVrmin (f : VredF) (s : State) : Out := s.vReduce f (pickAll false)

end Sys2Proof.Machine
end

