-- ==== Sys2Proof/Machine/Idmas.lean ====
section
/-! DEFINITION. The Idmas engine's instructions (spec/09 R251 to R279). -/

namespace Sys2Proof.Machine

/-! ### DRAM commands (spec/09 R251 to R255) -/

/-- Row and bank of a PROT stop: both where the row fits in 16 bits (spec/09 R280). -/
def State.engProt (s : State) (row : Word) (bank : Nat) : Out :=
  if field row 63 16 == 0 then s.engStop 4 row.toNat 0 bank else s.engStop 4 0 0 0

/-- ACT (spec/09 R251). -/
def execAct (k : Nat) (r : Nat) (i : Bool) (s : State) : Out :=
  let e := s.eng
  s.engIssue (max (e.bank k).nextAct (e.free (useE r))) fun s t =>
    let e := s.eng
    let row := e.ereg r
    if (e.bank k).row.isSome then s.engStop 5 0 0 k
    else if field row 63 16 != 0 || !e.window k row.toNat false false then s.engProt row k
    else (s.onEng fun e =>
      let e := e.setBank k ((e.bank k).act t row.toNat)
      if i then e.setE r (row + 1) else e).engNext

/-- The banks PRE names: 4 stands for every bank. -/
def preBanks (k : Nat) : List Nat := if k < 4 then [k] else [0, 1, 2, 3]

/-- Close one bank at cycle `t`. -/
def Engine.close (e : Engine) (t k : Nat) : Engine :=
  if (e.bank k).row.isSome then e.setBank k ((e.bank k).pre t) else e

/-- A precharge, which is a row boundary (spec/09 R251, R255); a boundary that is overdue comes before it. -/
def State.engPre (s : State) (k : Nat) : Out :=
  let e := s.eng
  let ready := (preBanks k).foldl (fun a b => if (e.bank b).row.isSome then max a (e.bank b).nextPre else a) 0
  let i := max e.now ready
  if e.overdue i then s.engForce
  else (s.onEng fun e => (preBanks k).foldl (fun e b => e.close i b) e).engAtBound i true fun s _ => s.engNext

/-- PRE (spec/09 R251). -/
def execPre (k : Nat) (s : State) : Out := s.engPre k

/-- PRE.all (spec/09 R251). -/
def execPreAll (s : State) : Out := s.engPre 4

/-- REF (spec/09 R251, R253, R254): after the deadline it leaves the bank's refresh to be forced all the same. -/
def execRef (k : Nat) (s : State) : Out :=
  let e := s.eng
  s.engIssue (max (e.bank k).nextRef (e.bank k).nextAct) fun s t =>
    if (s.eng.bank k).row.isSome then s.engStop 5 0 0 k
    else (s.onEng fun e => e.setBank k { (e.bank k).ref t with missed := (e.bank k).late t }).engNext

/-- RD (spec/09 R252): the row reaches W 24 cycles after the issue. -/
def execRd (k : Nat) (s : State) : Out :=
  let e := s.eng
  s.engIssue (max (e.free useW) (max (e.bank k).nextCol e.busFree)) fun s t =>
    match (s.eng.bank k).row with
    | none => s.engStop 5 0 0 k
    | some row =>
      let loc := rowLoc s.cur.eng k row
      let l : Landing := { at_ := t + 24, bank := k, row := row, data := colsOf (s.engBytes s.cur.eng loc), ue := s.rowUe s.cur.eng loc }
      (s.onEng fun e =>
        { (e.setBank k ((e.bank k).col t false)) with busFree := t + 16, lands := e.lands ++ [l] }).engNext

/-- WR (spec/09 R251): the row is written whole; no other party reads it before the next boundary (spec/12 R327). -/
def execWr (k : Nat) (src : Nat) (s : State) : Out :=
  let e := s.eng
  s.engIssue (max (e.free (useSrc src)) (max (e.bank k).nextCol e.busFree)) fun s t =>
    match (s.eng.bank k).row with
    | none => s.engStop 5 0 0 k
    | some row =>
      if !s.eng.window k row true false then s.engStop 4 row 0 k
      else ((s.engWrite s.cur.eng (rowCells (rowLoc s.cur.eng k row) (s.eng.src src))).onEng fun e =>
        { (e.setBank k ((e.bank k).col t true)) with busFree := t + 16 }).engNext

/-- ROWEND (spec/09 R255). -/
def execRowend (s : State) : Out := s.engAtBound 0 true fun s _ => s.engNext

/-! ### Associative processing (spec/09 R256 to R259) -/

/-- The tags of a predicate on columns. -/
def tagsOf (p : Nat → Bool) : BitVec 256 := BitVec.ofNat 256 ((upTo 256).foldl (fun a i => if p i then a + 2 ^ i else a) 0)

/-- CMP (spec/09 R256). -/
def execCmp (o : Nat) (src : Nat) (n : Bool) (s : State) : Out :=
  s.engData 16 useT fun e =>
    let l := e.src src
    let hit := fun i => (((col l i ^^^ e.key) &&& e.mask) == 0) != n
    let t := tagsOf fun i => match o with
      | 0 => hit i
      | 1 => e.tags.getLsbD i && hit i
      | _ => e.tags.getLsbD i || hit i
    ({ e with tags := t }, 0)

/-- AWR (spec/09 R257). -/
def execAwr (d : Nat) (s : State) : Out :=
  s.engData 16 (useSrc d) fun e =>
    let l := (e.src d).zipIdx.map fun x =>
      if e.tags.getLsbD x.2 then (x.1 &&& (2 ^ 32 - 1 - e.mask % 2 ^ 32)) ||| (e.key &&& e.mask) else x.1
    (e.setSrc d l, 0)

/-- The output of a truth table for a column. -/
def ttBit (e : Engine) (x y t i : Nat) : Bool :=
  bit t (4 * b2n (bit (col e.w i) x) + 2 * b2n (bit (col e.w i) y) + b2n (e.tags.getLsbD i))

/-- One bit of a column replaced. -/
def putBit (v z : Nat) (b : Bool) : Nat := if bit v z == b then v else if b then v + 2 ^ z else v - 2 ^ z

/-- TTP (spec/09 R258). -/
def execTtp (x : Nat) (y : Nat) (z : Nat) (t : Nat) (s : State) : Out :=
  s.engData 16 useW fun e => ({ e with w := (upTo 256).map fun i => putBit (col e.w i) z (ttBit e x y t i) }, 0)

/-- TTP.t (spec/09 R258). -/
def execTtpT (x : Nat) (y : Nat) (t : Nat) (s : State) : Out :=
  s.engData 16 useT fun e => ({ e with tags := tagsOf fun i => ttBit e x y t i }, 0)

/-- TAND (spec/09 R259). -/
def execTand (x : Nat) (n : Bool) (s : State) : Out :=
  s.engOne (useW + useT) fun e => { e with tags := tagsOf fun i => e.tags.getLsbD i && (bit (col e.w i) x != n) }

/-- TOR (spec/09 R259). -/
def execTor (x : Nat) (n : Bool) (s : State) : Out :=
  s.engOne (useW + useT) fun e => { e with tags := tagsOf fun i => e.tags.getLsbD i || (bit (col e.w i) x != n) }

/-- TNOT (spec/09 R259). -/
def execTnot (s : State) : Out := s.engOne useT fun e => { e with tags := ~~~e.tags }

/-- TCNT (spec/09 R259). -/
def execTcnt (d : Nat) (s : State) : Out :=
  s.engOne (useT + useE d) fun e => e.setE d (word (popCount 256 e.tags.toNat))

/-! ### Scalars, key and vector (spec/09 R260 to R262) -/

/-- SETK (spec/09 R261). -/
def execSetk (r : Nat) (s : State) : Out := s.engOne (useE r) fun e => { e with key := field (e.ereg r) 31 0 }

/-- SETM (spec/09 R261). -/
def execSetm (r : Nat) (s : State) : Out := s.engOne (useE r) fun e => { e with mask := field (e.ereg r) 31 0 }

/-- MOVI (spec/09 R260). -/
def execMovi (d : Nat) (i : Nat) (s : State) : Out := s.engOne (useE d) fun e => e.setE d (sext 21 i)

/-- MOVI.add (spec/09 R260). -/
def execMoviAdd (d : Nat) (i : Nat) (s : State) : Out := s.engOne (useE d) fun e => e.setE d (e.ereg d + sext 21 i)

/-- MOVI.sh (spec/09 R260). -/
def execMoviSh (d : Nat) (i : Nat) (s : State) : Out := s.engOne (useE d) fun e => e.setE d ((e.ereg d <<< 21) + word i)

/-- A code of a row format widened exactly to FP32. -/
def widen32 (t code : Nat) : Nat × Word :=
  let v := tagVal t code
  ((fmtFP32.round .nearest false v).1, fIf v.isSig fINV)

/-- VLDE (spec/09 R262). -/
def execVlde (f : Nat) (o : Nat) (s : State) : Out :=
  s.engData 16 useVV fun e =>
    let t := engFmt f
    let xs := (upTo 256).map fun j => if o + j < 8192 / tagBits t then widen32 t (rowElem e.w t (o + j)) else (0, 0)
    ({ e with vv := xs.map (·.1) }, xs.foldl (fun a x => a ||| x.2) 0)

/-! ### Arithmetic (spec/09 R263 to R268) -/

/-- A sum or product rounded into an FP32 lane. -/
def lane (v : Val × Word) : Nat × Word :=
  let q := fmtFP32.round .nearest false v.1
  (q.1, q.2 ||| v.2)

/-- The exact sum of exact products (spec/09 R264): infinities of opposite sign set INV wherever a NaN stands among them. -/
def exactSum (l : List (Val × Word)) : Val × Word :=
  let opp := fIf (l.any (·.1 == .inf false) && l.any (·.1 == .inf true)) fINV
  match l with
  | [] => (Val.zero false, 0)
  | p :: r =>
    let q := r.foldl (fun a x => let q := a.1.add false x.1; (q.1, a.2 ||| x.2 ||| q.2)) p
    (q.1, q.2 ||| opp)

/-- MV of one lane (spec/09 R264). -/
def mvLane (e : Engine) (t seg i old : Nat) : Nat × Word :=
  (upTo (ceilDiv seg 32)).foldl (fun (a : Nat × Word) b =>
    let ks := (upTo (min 32 (seg - 32 * b))).map (· + 32 * b)
    let s := exactSum (ks.map fun k => (tagVal t (rowElem e.w t (i * seg + k))).mul (fmtFP32.decode (col e.vv k)))
    let q := lane ((fmtFP32.decode a.1).add false s.1)
    (q.1, a.2 ||| s.2 ||| q.2)) (old, 0)

/-- Lanes computed, with their flags. -/
def lanes (l : List (Nat × Word)) : List Nat × Word := (l.map (·.1), l.foldl (fun a x => a ||| x.2) 0)

/-- MV (spec/09 R264). -/
def execMv (a : Nat) (f : Nat) (l : Nat) (s : State) : Out :=
  s.engData (if f == 0 then 32 else 16) (useBa a) fun e =>
    let t := engFmt f
    let n := 8192 / tagBits t / 2 ^ l
    let q := lanes ((upTo 256).map fun i =>
      let old := col (e.src (a + 1)) i
      if i < n then mvLane e t (2 ^ l) i old else (old, 0))
    (e.setSrc (a + 1) q.1, q.2)

/-- SADD (spec/09 R265). -/
def execSadd (a : Nat) (j : Nat) (i : Bool) (s : State) : Out :=
  s.engData 16 (useBa a + if i then useE j else 0) fun e =>
    let k := fmtFP32.decode (col e.vv (field (e.ereg j) 7 0))
    let q := lanes ((upTo 256).map fun i =>
      lane (k.fma false (fmtFP32.decode (col e.w i)) (fmtFP32.decode (col (e.src (a + 1)) i))))
    let e := e.setSrc (a + 1) q.1
    (if i then e.setE j (e.ereg j + 1) else e, q.2)

/-- Two accumulators combined lane by lane (spec/09 R266). -/
def redBa (e : Engine) (d r : Nat) (op : Nat → Nat → Nat × Word) : Engine × Word :=
  let q := lanes ((upTo 256).map fun i => op (col (e.src (d + 1)) i) (col (e.src (r + 1)) i))
  (e.setSrc (d + 1) q.1, q.2)

/-- RED.add (spec/09 R266). -/
def execRedAdd (d : Nat) (r : Nat) (s : State) : Out :=
  s.engData 16 (useBa d) fun e => redBa e d r fun x y => lane ((fmtFP32.decode x).add false (fmtFP32.decode y))

/-- RED.max (spec/09 R266). -/
def execRedMax (d : Nat) (r : Nat) (s : State) : Out := s.engData 16 (useBa d) fun e => redBa e d r (pick true 10)

/-- RED.sum (spec/09 R266). -/
def execRedSum (a : Nat) (r : Nat) (s : State) : Out :=
  s.engData 24 (useE r) fun e =>
    let l := e.src (a + 1)
    let q := (l.drop 1).foldl (fun (st : Nat × Word) x =>
      let v := lane ((fmtFP32.decode st.1).add false (fmtFP32.decode x))
      (v.1, st.2 ||| v.2)) (widen32 10 (col l 0))
    (e.setE r (word q.1), q.2)

/-- ACCZ (spec/09 R267). -/
def execAccz (a : Nat) (s : State) : Out := s.engData 16 (useBa a) fun e => (e.setSrc (a + 1) (List.replicate 256 0), 0)

/-- ACCZ.w (spec/09 R267). -/
def execAcczW (a : Nat) (s : State) : Out := s.engData 16 (useBa a) fun e => (e.setSrc (a + 1) (e.src 0), 0)

/-- Bytes of ACCST's element format: 1 BF16, 2 E4M3, 3 E5M2. -/
def accTag (f : Nat) : Nat :=
  match f with
  | 1 => 8 | 2 => 6 | 3 => 7 | _ => 10

/-- ACCST (spec/09 R268). -/
def execAccst (a : Nat) (f : Nat) (s : State) : Out :=
  s.engData 16 useW fun e =>
    let l := e.src (a + 1)
    if f == 0 then ({ e with w := l }, 0)
    else
      let q := lanes (l.map fun x =>
        let v := fmtFP32.decode x
        let r := (tagFmt (accTag f)).round .nearest false v
        (r.1, r.2 ||| fIf v.isSig fINV))
      let bs := q.1.flatMap (bytesOf (tagBits (accTag f) / 8))
      let w := colsOf bs
      ({ e with w := w ++ List.replicate (256 - w.length) 0 }, q.2)

/-! ### Moving rows between banks (spec/09 R269, R270) -/

/-- The engines of the via group: the same channel parity, pseudo-channel and bank group on every layer. -/
def viaGroup (n : Nat) : List Nat := (upTo 16).map fun i => n / 256 * 256 + (2 * i + n / 8 % 2) * 8 + n % 8

/-- Whether a row of an MCAST of engine `n` has yet to be written somewhere. -/
def State.casting (s : State) (n : Nat) : Bool :=
  s.engines.any fun e => (e.2.reqs ++ e.2.port).any fun r => r.isRow && r.owner == n

/-- Stay at this word, at a row boundary throughout (spec/09 R255). -/
def State.engStall (s : State) : Out := .next (s.onEng fun e => { e with stalled := true })

/-- MCAST (spec/09 R269).  Its own write opens and closes the row: 17 + 28 + 17 = 62 cycles pass before the bank's next ACT (R253;
DEDUCED, notes/assumptions/67.md). -/
def execMcast (k : Nat) (src : Nat) (r : Nat) (s : State) : Out :=
  let e := s.eng
  let n := s.cur.eng
  let go := fun (s : State) => s.engAtBound 0 false fun s _ => if s.casting n then s.engStall else (s.onEng fun e => { e with stalled := false }).engNext
  if e.stalled then go s
  else s.engIssue (max (e.bank k).nextAct (e.free (useSrc src + useE r))) fun s t =>
    let e := s.eng
    let row := e.ereg r
    if field row 63 16 != 0 || !e.window k row.toNat true true then s.engProt row k
    else if (e.bank k).row.isSome then s.engStop 5 0 0 k
    else
      let l := e.src src
      let s := (s.engWrite n (rowCells (rowLoc n k row.toNat) l)).onEng fun e => e.setBank k { e.bank k with nextAct := t + 62 }
      let s := ((viaGroup n).filter (· != n)).foldl (fun s g =>
        (cellBlocks 256 (rowCells (rowLoc g k row.toNat) l)).foldl (fun s b =>
          s.post g { cells := b, owner := n, inst := e.inst }) s) s
      go (s.onEng fun e => { e with stalled := true })

/-- BGCOPY (spec/09 R270). -/
def execBgcopy (sb : Nat) (re : Nat) (db : Nat) (rd : Nat) (s : State) : Out :=
  let e := s.eng
  if !e.sup then s.engIssue 0 fun s _ => s.engStop 3 0 0 0
  else s.engIssue (max (e.free (useE re ||| useE rd)) (max (e.bank sb).nextAct (e.bank db).nextAct)) fun s t =>
    let e := s.eng
    let a := e.ereg re
    let b := e.ereg rd
    if (e.bank sb).row.isSome then s.engStop 5 0 0 sb
    else if (e.bank db).row.isSome then s.engStop 5 0 0 db
    else if field a 63 16 != 0 || !e.window sb a.toNat false false then s.engProt a sb
    else if field b 63 16 != 0 || !e.window db b.toNat true false then s.engProt b db
    else
      let loc := rowLoc s.cur.eng sb a.toNat
      match s.rowUe s.cur.eng loc with
      | some c => s.engStop 6 a.toNat c sb
      | none =>
        ((s.engWrite s.cur.eng (cellsAt (rowLoc s.cur.eng db b.toNat) (s.engBytes s.cur.eng loc))).onEng fun e =>
          let busy := fun (e : Engine) (k : Nat) => e.setBank k { e.bank k with nextAct := t + 146, nextRef := max (e.bank k).nextRef (t + 146) }
          busy (busy e sb) db).engNext

/-! ### Adds and semaphores (spec/09 R273 to R276) -/

/-- NADDX (spec/09 R273). -/
def execNaddx (d : Nat) (s : State) : Out :=
  let n := s.eng.adds.length
  s.engAtBound (s.eng.free (useE d)) true fun s _ =>
    let (m, s) := (s.drainAdds s.cur.eng n).flushHeld s.cur.eng
    (s.onEng fun e => e.setE d (word (n - s.eng.adds.length + m))).engNext

/-- SIG (spec/09 R275): its writes are performed when it issues, and its add is posted to the word's home. -/
def execSig (l : Nat) (c : Nat) (v : Nat) (s : State) : Out :=
  s.engIssue (s.eng.free (useE v)) fun s _ =>
    match vget s.eng.sems l none with
    | none => s.engStop 4 0 0 0
    | some key =>
      let s := (s.flushWr s.cur.eng).onEng fun e => { e with posted := e.posted + 1 }
      let r : Req := { isAdd := true, key := key, value := (s.eng.ereg v).toNat, owner := s.cur.eng, inst := s.eng.inst, slot := l
                       rels := [{ by_ := engineAgent s.cur.eng, scope := c, view := s.eng.view }] }
      (if isHbm key then s.post (engineOf key) r else s.doReq r).engNext

/-- One read of the semaphore of slot `l` by an engine that waits for e[`v`]; the last acquires at scope `c` (spec/09 R276). -/
def State.waitsRead (s : State) (l c v : Nat) : Out :=
  match vget s.eng.sems l none with
  | none => s.engIssue (s.eng.free (useE v)) fun s _ => s.engStop 4 0 0 0
  | some key => s.engAtBound (s.eng.free (useE v)) false fun s _ =>
      if s.ueAt key 8 || s.refuses s.eng.asid key then s.engStop 6 0xFFFF 0xFE l
      else if s.owned key || s.addBefore key 8 then (s.want key).engStall
      else if ofBytes (s.mem.bytes key 8) < (s.eng.ereg v).toNat then s.engStall
      else ((s.engAcquire s.cur.eng c (relsIn s.hist ((upTo 8).map (key + ·)))).onEng fun e => { e with stalled := false }).engNext

/-- WAITS (spec/09 R276). -/
def execWaits (l : Nat) (c : Nat) (v : Nat) (s : State) : Out := s.waitsRead l c v

/-! ### Control flow (spec/09 R277 to R279) -/

/-- JMP (spec/09 R277). -/
def execIdmasJmp (t : Nat) (s : State) : Out := s.engIssue 0 fun s _ => s.engJump t

/-- BNZ (spec/09 R277). -/
def execBnz (r : Nat) (d : Bool) (t : Nat) (s : State) : Out :=
  s.engIssue (s.eng.free (useE r)) fun s _ =>
    let s := if d then s.onEng fun e => e.setE r (e.ereg r - 1) else s
    if s.eng.ereg r != 0 then s.engJump t else s.engNext

/-- LOOP with a count that has been read (spec/09 R278): a count of 0 activates nothing and stops for none of its causes. -/
def State.engLoop (s : State) (n count len : Nat) : Out :=
  let e := s.eng
  let stop := e.mpc + 1 + len
  let outside := e.loops.any fun l => l.stop.toNat < stop || e.mpc + 1 < l.start.toNat
  if count == 0 then
    (if 4095 < stop then (s.onEng fun e => { e with mpc := 4095 }).engStop 2 0 0 0 else .next (s.onEng fun e => { e with mpc := stop }))
  else if 2 ^ 32 ≤ count || (e.loops.any fun l => l.n == n) || outside || 4096 < stop then s.engStop 7 0 0 0
  else .next (s.onEng fun e =>
    { e with mpc := e.mpc + 1, loops := { n := n, count := count, start := word (e.mpc + 1), stop := word stop } :: e.loops })

/-- LOOP with an immediate count (spec/09 R278). -/
def execIdmasLoop (n : Nat) (c : Nat) (l : Nat) (s : State) : Out := s.engIssue 0 fun s _ => s.engLoop n c (l + 1)

/-- LOOP with a count from an e register (spec/09 R278). -/
def execIdmasLoopReg (n : Nat) (r : Nat) (l : Nat) (s : State) : Out :=
  s.engIssue (s.eng.free (useE r)) fun s _ => s.engLoop n (s.eng.ereg r).toNat (l + 1)

/-- HALT (spec/09 R279). -/
def execHalt (c : Nat) (s : State) : Out :=
  let e := s.eng
  let ready := e.banks.toList.foldl (fun a b => if b.row.isSome then max a b.nextPre else a) 0
  s.engAtBound ready false fun s _ =>
    match s.eng.semBad with
    | some l => s.engStop 6 0xFFFF 0xFE l
    | none =>
      if s.eng.posted != 0 then s.engStall
      else if c == 0 then s.engStop 0 0 0 0 else s.engStop 1 0 c 0

/-- A word that no row assigns (spec/09 R248). -/
def execUnassignedEngineWord (s : State) : Out := s.engIssue 0 fun s _ => s.engStop 2 0 0 0

end Sys2Proof.Machine
end

