-- ==== Sys2Proof/Machine/EngineEvents.lean ====
section
/-! DEFINITION. What happens at the bank groups outside an engine's words: instances that start and stop, landings,
refreshes, windows, near-memory adds and flushes, and pseudo-channels that leave service (spec/09; spec/12). -/

namespace Sys2Proof.Machine

/-! ### Instances -/

/-- Whether the pseudo-channel of an engine is in service (spec/12 R337). -/
def State.engLive (s : State) (n : Nat) : Bool := wbit (vget s.live (n / 256) 0) (n % 256 / 4)

/-- Whether instance `a` of an engine's queue goes before `b` (spec/13 R352). -/
def EngInst.before (a b : EngInst) : Bool := b.prio < a.prio || (a.prio == b.prio && a.order ≤ b.order)

/-- The instance that engine `n` starts next. -/
def State.nextInst (s : State) (n : Nat) : Option EngInst :=
  match s.ks.engQ.filter fun x => x.eng == n with
  | [] => none
  | x :: r => some (r.foldl (fun a b => if a.before b then a else b) x)

/-- The state of an engine at the start of an instance (spec/09 R245): what its bank group holds stays; a refresh that was forced no
longer is, the controller having had the banks (R254). -/
def Engine.start (e : Engine) (x : EngInst) (n node : Nat) (code : List Nat) (sems : List (Option Nat)) : Engine :=
  { Engine.init with
    running := true, asid := x.asid, lrec := x.lrec, node := x.node, wid := x.wid
    index := x.wid % bits node 214 203, scope := bits node 21 18, interval := bits node 161 153
    sup := bit node 8, det := nodeDet node, mpc := bits node 139 128
    store := (upTo code.length).zipWith (fun i w => (i, w)) code
    e := #v[word x.wid, word (x.wid % bits node 214 203), word n, 0, 0, 0, 0, 0]
    rwin := Vector.ofFn fun i => word (word64 node (4 + i.val))
    sems := Vector.ofFn fun i => (sems.getD i.val none)
    banks := e.banks.map fun b => { b with missed := false }
    inbound := e.inbound, adds := e.adds, held := e.held, reqs := e.reqs, port := e.port
    accepted := e.accepted, inst := e.inst + 1, now := e.now, lastBound := e.now }

/-- Report an instance that has not started as STOPPED (spec/09 R283), with its node. -/
def State.refuseInst (s : State) (x : EngInst) : State :=
  (s.dropEngQ fun y => y == x).stopNode x.asid x.lrec x.node

/-- ENGINE_INSTANCE_START (spec/09 R245; spec/12 R321, R328; spec/13 R352): not while dispatch is halted or the stack is hot
(spec/17 R441), and only in a context that is OPEN (spec/01 R11).  It acquires what has readied its node (spec/12 R328). -/
def execEngineInstanceStart (s : State) : Out :=
  let n := s.cur.eng
  .next (if s.eng.running || s.ks.halted || bit s.dev.dieHold (n / 256) then s
    else match s.nextInst n with
      | none => s
      | some x => match s.graph x.asid x.lrec with
        | none => s
        | some g =>
          if (g.nst x.node).stopped || !s.engLive n then s.refuseInst x
          else if (s.ctx x.asid).held != 0 then s
          else
            let s := { s with ks := { s.ks with engQ := s.ks.engQ.filter (· != x) } }
            let s := s.onEng fun e =>
              { (e.start x n (g.node x.node) (g.code.getD x.node []) (g.sems.getD x.node [])).margin 8 with sight := Sight.after s s.floor }
            s.engAcquire n 7 ((g.into x.node).flatMap fun d => (g.nst (edgeSrc d.entry)).rels))

/-- ENGINE_STOP (spec/09 R275, R280, R283; spec/15 R392): an engine whose storage has an uncorrectable error, whose
semaphore add met one, or whose node has stopped ends its instance. -/
def execEngineStop (s : State) : Out :=
  let e := s.eng
  let stopped := match s.graph e.asid e.lrec with
    | some g => (g.nst e.node).stopped
    | none => false
  if !e.running then .next s
  else if s.inp.flag then s.engStop 6 0xFFFF 0xFF 0
  else match e.semBad with
    | some l => s.engStop 6 0xFFFF 0xFE l
    | none => if stopped then s.engStop 8 0 0 0 else .next s

/-- RD_LANDING (spec/09 R252, R282): rows that have landed by the engine's present cycle replace W, or stop it. -/
def execRdLanding (s : State) : Out :=
  let e := s.eng
  if !e.running then .next s
  else match e.badLanding e.now with
    | some (r, c, b) => s.engStop 6 r c b
    | none => .next (s.onEng fun e => { (e.landTo e.now) with now := e.now })

/-! ### Boundaries and windows (spec/09 R254, R255; spec/12 R320 to R324) -/

/-- REFRESH_DEADLINE (spec/09 R254): time passes to the deadline of bank `ident` while the engine stalls at a boundary, and
the controller refreshes the bank.  The deadline of a bank that passes while the engine issues is found at its next
boundary. -/
def execRefreshDeadline (s : State) : Out :=
  .next (if s.eng.running && s.eng.stalled then
      let s := s.onEng Engine.resume
      let t := max s.eng.now ((s.eng.bank (s.inp.ident % 4)).lastRef + 4681)
      (s.onEng fun e => { e with now := t, boundAt := t }.openWin t).window s.cur.eng
    else s)

/-- ROW_INTERVAL_EXPIRY (spec/09 R255): where the interval has passed and something waits, a boundary comes before the next issue. -/
def execRowIntervalExpiry (s : State) : Out :=
  if s.eng.overdue s.eng.now then s.engForce else .next s

/-- MAIN_DIE_REQUEST (spec/12 R320): the oldest request that waits is performed where the controller owns the rows: in the window of
the present boundary, within its limits. -/
def execMainDieRequest (s : State) : Out :=
  let n := s.cur.eng
  .next (if !s.eng.running then s.serve n 1
    else if s.eng.atBound && !s.eng.reqs.isEmpty then (s.onEng Engine.reopen).winReqs n 1
    else s)

/-- ARBITRATION_WINDOW (spec/12 R322 to R324): at a boundary, what waits is served in the window that is open, or in a new one. -/
def execArbitrationWindow (s : State) : Out :=
  let n := s.cur.eng
  .next (if s.eng.running && s.eng.atBound && (s.eng.win.any (fun x => !x.stopped) || s.eng.waits s.eng.boundAt) then
      (s.onEng Engine.reopen).window n
    else s)

/-! ### Near-memory adds (spec/09 R271, R272) -/

/-- The oldest add of a source in the network, or of all where that source has none there, is held for its flush point, or queued where
there is room: adds of one source arrive in the order sent, those of different sources in any (spec/16 R414). -/
def Engine.accept (e : Engine) (source : Nat) : Engine :=
  match (e.inbound.find? fun a => a.source == source).or e.inbound.head? with
  | none => e
  | some a =>
    let r := e.inbound.erase a
    if a.det then { e with inbound := r, held := e.held ++ [a] }
    else if e.adds.length < 256 then
      { e with inbound := r, adds := e.adds ++ [{ a with arrived := e.accepted }], accepted := e.accepted + 1 }
    else e

/-- NEAR_MEMORY_ADD_ACCEPT (spec/09 R271, R272): an add of source `ident` is accepted, and applied at once where no instance runs. -/
def execNearMemoryAddAccept (s : State) : Out :=
  let s := s.onEng fun e => e.accept s.inp.ident
  .next (if s.eng.running then s else s.drainAdds s.cur.eng 256)

/-- Whether two adds come from one node: one of this package, or of another. -/
def Add.sameNode (a b : Add) : Bool :=
  a.asid == b.asid && a.lrec == b.lrec && a.node == b.node && decide (256 ≤ a.source) == decide (256 ≤ b.source)

/-- The held adds of a node at bank group `n`, in key order; they wait while the engine owns the rows (spec/12 R319). -/
def State.flushNode (s : State) (p : Add) (n : Nat) : State :=
  let e := s.engine n
  if e.running && !e.atBound then s
  else (sortAdds (e.held.filter p.sameNode)).foldl State.applyAdd
    (s.onEngine n fun e => { e with held := e.held.filter fun a => !p.sameNode a })

/-- DET_FLUSH (spec/09 R272): at the flush point of node `code` of launch `ident` (of another package where `flag`), every engine
applies the node's held adds in key order; when all are applied, the node can end. -/
def execDetFlush (s : State) : Out :=
  let p : Add := { asid := s.inp.asid, lrec := s.inp.ident, node := s.inp.code, source := if s.inp.flag then 256 else 0 }
  let s := if s.inp.flag then { s with dev := { s.dev with farEnds := (p.asid, p.lrec, p.node) :: s.dev.farEnds.erase (p.asid, p.lrec, p.node) } } else s
  .next (if s.flushReached p then
      let s := ((s.engines.map (·.1)).foldl (State.flushNode · p) s).forgetEnds
      if s.inp.flag || (s.engines.any fun e => e.2.held.any p.sameNode) then s
      else (s.onGraph p.asid p.lrec fun g => g.setNst p.node { g.nst p.node with flushed := true }).endGraph p.asid p.lrec
    else s)

/-- WAITS_REREAD (spec/09 R276): a stalled WAITS reads its semaphore again. -/
def execWaitsReread (s : State) : Out :=
  let e := s.eng
  if e.running && e.stalled then
    match decode .engine (Tab.get e.store e.mpc 0) with
    | .ok (.waits l c v) => (s.onEng Engine.resume).waitsRead l c v
    | _ => .next s
  else .next s

/-! ### Pseudo-channels out of service (spec/12 R332 to R337) -/

/-- Pseudo-channel `i` = stack × 64 + channel × 2 + pc. -/
def State.pcLive (s : State) (i : Nat) : Bool := wbit (vget s.live (i / 64) 0) (i % 64)
def State.pcLost (s : State) (i : Nat) : Bool := wbit (vget s.lost (i / 64) 0) (i % 64)

/-- Retired pseudo-channels of a stack, those that migrate included (spec/12 R332). -/
def State.retired (s : State) (stack : Nat) : Nat :=
  ((upTo 64).filter fun i => (!s.pcLive (stack * 64 + i) && !s.pcLost (stack * 64 + i))
    || s.dev.retiring.any fun x => x.1 == stack * 64 + i).length

/-- The instances on a pseudo-channel's engines stop with their nodes, and its queued adds are applied (spec/12 R333). -/
def State.stopEngines (s : State) (i : Nat) : State :=
  (upTo 4).foldl (fun s k =>
    let n := 4 * i + k
    if (s.engine n).running then s.engEnd n 8 0 0 0 else s.drainAdds n 256) s

/-- The physical address of `va` under range entry `e` of a context, in HBM. -/
def State.entryAddr (s : State) (asid e va : Nat) : Option Nat :=
  let a := if bit e 6 then (match s.walk 0 asid va (s.physNow ((s.ctx asid).base + 0x18) 8 / 4096 * 4096 % 2 ^ 39) [4, 3, 2, 1, 0] with
      | .ok x => some x.1
      | .error _ => none)
    else some ((va + bits e 191 128) % 2 ^ 64)
  a.filter (· < 2 ^ 39)

/-- The first physical address on pseudo-channel `i` that entry `e` of a context reaches from `va` on, in blocks of 256 bytes; at
most `fuel`. -/
def State.reachesPc (s : State) (asid e i va : Nat) : Nat → Option Nat
  | 0 => none
  | fuel + 1 =>
    match (s.entryAddr asid e va).filter fun a => bits (dramOf (bit e 7) a) 22 14 == i with
    | some a => some a
    | none => State.reachesPc s asid e i (va + 256) fuel

/-- The first range on a pseudo-channel that the range entries of a context cover: address and length.  An unpaged range of 16 MiB
meets every pseudo-channel; under the bank-local map 16 KiB of it lie together, under the striped map 256 bytes. -/
def State.coversPc (s : State) (asid i : Nat) : Option (Nat × Nat) :=
  (upTo 256).findSome? fun j =>
    let e := s.physNow (s.xlBase asid + 32 * j) 32
    let lo := bits e 63 12 * 4096
    let blocks := (bits e 127 64 + 1 - lo) / 256
    if rangeValid e && bits e 10 8 == 0 then
      (s.reachesPc asid e i lo (if bit e 6 then blocks else min blocks 65536)).map fun a =>
        if bit e 7 then (a, 16384 - a % 16384) else (a / 256 * 256, 256)
    else none

/-- The contexts that hold a block. -/
def State.contexts (s : State) : List Nat := (s.ctxs.filter fun c => c.2.held != 2).map (·.1)

/-- A pseudo-channel is lost (spec/12 R334): the record that a context gets names the first of the lost ranges that its range
entries cover (notes/assumptions/17.md). -/
def State.losePc (s : State) (i : Nat) : State :=
  let told := s.contexts.filterMap fun a => (s.coversPc a i).map fun r => (a, r)
  let s := s.stopEngines i
  let left := s.dev.retiring.filter fun x => x.1 != i
  let s := { s.clearLive i with
    lost := vset s.lost (i / 64) (vget s.lost (i / 64) 0 ||| word (2 ^ (i % 64)))
    migrating := !left.isEmpty, dev := { s.dev with retiring := left, copying := s.dev.copying.filter (·.1 != i) }
    igen := nextIgen s.igen }
  told.foldl (fun s a => s.errRecord a.1 6 0 0 0 0 a.2.1 a.2.2) s

/-- Retire a pseudo-channel (spec/12 R332, R333): the fifth of a stack is lost instead. -/
def State.retirePc (s : State) (i : Nat) : State :=
  if 512 ≤ i || !s.pcLive i || s.dev.retiring.any fun x => x.1 == i then s
  else if 4 ≤ s.retired (i / 64) then s.losePc i
  else
    let s := s.stopEngines i
    { s with migrating := true, dev := { s.dev with retiring := s.dev.retiring ++ [(i, 0)] } }

/-- The pseudo-channel an event names: stack `code`, channel `chan`, half `ident`. -/
def State.inpPc (s : State) : Nat := s.inp.code * 64 + s.inp.chan * 2 + s.inp.ident

/-- PSEUDO_CHANNEL_RETIRE (spec/12 R333). -/
def execPseudoChannelRetire (s : State) : Out := .next (s.retirePc s.inpPc)

/-- MIGRATION_ROW_COPY (spec/12 R333): the next `value` rows of the oldest migration are copied, by a request at bank group `eng`, which
holds the reserve rows that firmware has chosen; accesses to the rows wait until it is performed. -/
def execMigrationRowCopy (s : State) : Out :=
  .next (match s.dev.retiring with
    | [] => s
    | (i, k) :: _ =>
      if s.dev.copying.isSome then s
      else { s with dev := { s.dev with copying := some (i, k, max 1 s.inp.value) } }.post s.cur.eng { moves := true })

/-- PSEUDO_CHANNEL_LOSS (spec/12 R334). -/
def execPseudoChannelLoss (s : State) : Out :=
  .next (if 512 ≤ s.inpPc || s.pcLost s.inpPc then s else s.losePc s.inpPc)

end Sys2Proof.Machine
end

