-- ==== Sys2Proof/Machine/Keystone.lean ====
section
/-! DEFINITION. Keystone up to dispatch: the checks of admission and their refusals, resources, creation of instances, and
the semaphore monitor (spec/13 R342 to R352, R358; spec/15 R393). -/

namespace Sys2Proof.Machine

/-! ### Reading a graph (spec/13 R342, R347) -/

/-- A refusal of a launch: STATUS, REASON and FNODE. -/
structure Refused where
  (status reason fnode : Nat := 0)
  deriving DecidableEq, Repr, Inhabited

/-- Apply a check to every element, stopping at the first refusal. -/
def eachOk {α β : Type} (f : α → Except Refused β) : List α → Except Refused (List β)
  | [] => .ok []
  | x :: r =>
    match f x with
    | .error e => .error e
    | .ok y => match eachOk f r with
      | .error e => .error e
      | .ok ys => .ok (y :: ys)

/-- REASON of an access that failed with cause 8, 9 or 13. -/
def accessReason (c : Nat) : Nat := if c == 8 then 1 else if c == 9 then 2 else 3

/-- Bytes of a graph, or UNREADABLE. -/
def State.graphRead (s : State) (asid va n fnode : Nat) : Except Refused Nat :=
  match s.kRead asid va n with
  | .error c => .error { status := 9, reason := accessReason c, fnode := fnode }
  | .ok v => .ok v

/-- Whether a graph header is malformed. -/
def graphHeaderBad (h : Nat) : Bool := bits h 511 19 != 0 || bits h 8 0 == 0 || 256 < bits h 8 0 || 512 < bits h 18 9

/-! ### Structure (spec/13 R343, R344) -/

/-- Whether a partition word breaks R34.  Its reserved fields are ignored (spec/00 R5). -/
def partBad (w : Nat) : Bool := bits w 6 0 + bits w 14 8 + bits w 22 16 != 96 || bits w 6 0 < 16 || 32 < bits w 14 8

/-- Whether an array node has a refused field; reserved fields are ignored (spec/00 R5). -/
def arrayNodeBad (n : Nat) : Bool :=
  bits n 21 18 != 0 || bit n 8 || bits n 5 4 == 3 || 16 < bits n 580 576 || bits n 517 512 != 0 || bits n 69 64 != 0 || bits n 129 128 != 0
    || partBad (bits n 383 320)
    || (upTo 4).any fun k => 5 ≤ bits n (450 + 4 * k) (448 + 4 * k) || bits n (193 + 32 * k) (192 + 32 * k) != 0

/-- Whether an engine node has a refused field; reserved fields, those of its row windows too, are ignored (spec/00 R5). -/
def engineNodeBad (n : Nat) : Bool :=
  bits n 5 4 != 0 || bits n 21 18 < 5 || 10 < bits n 21 18 || bits n 69 64 != 0
    || bits n 161 153 == 0 || 256 < bits n 161 153 || bits n 152 140 == 0 || 4096 < bits n 152 140 || bits n 152 140 ≤ bits n 139 128
    || bits n 214 203 == 0 || 2048 < bits n 214 203 || (1 < bits n 214 203 && bits n 225 215 == 0)
    || 2047 < bits n 202 192 + (bits n 214 203 - 1) * bits n 225 215
    || (upTo 4).any fun k => word64 n (8 + k) % 8 != 0

/-- Whether a node record has a refused field. -/
def nodeBad (n : Nat) : Bool := if bits n 1 0 == 0 then arrayNodeBad n else if bits n 1 0 == 1 then engineNodeBad n else true

/-- Whether an edge entry has a refused field. -/
def edgeBad (e : Nat) : Bool :=
  if edgeIsCompletion e then edgeSlots e != 0 else edgeNeed e != 0 || edgeSlots e == 0 || 256 < edgeSlots e

/-- Whether a launch reads its count from memory. -/
def indirect (copy : Nat) : Bool := bit copy 4

/-- The instance count of node `i` that is known before admission reads anything more. -/
def knownCount (copy : Nat) (nodes edges : List Nat) (i : Nat) : Option Nat :=
  match edges.filter fun e => edgeDst e == i with
  | [] => if indirect copy then none else some (word64 copy 2)
  | e :: _ => if edgeIsCompletion e then some (bits (nodes.getD i 0) 63 32) else none

/-- Whether a graph breaks a structural rule of R344. -/
def structureBad (copy : Nat) (nodes edges : List Nat) : Bool :=
  let node := fun (i : Nat) => nodes.getD i 0
  edges.any (fun e => edgeDst e ≤ edgeSrc e || nodes.length ≤ edgeDst e
      || (!edgeIsCompletion e && (nodeIsEngine (node (edgeSrc e)) || gangSize (node (edgeDst e)) != 1))
      || (edgeIsCompletion e && (match knownCount copy nodes edges (edgeSrc e) with
        | some c => decide (c < edgeNeed e)
        | none => false)))
    || (edges.map fun e => (edgeSrc e, edgePort e)).eraseDups.length != edges.length
    || (upTo nodes.length).any fun i =>
      let ins := edges.filter fun e => edgeDst e == i
      let stream := ins.any fun e => !edgeIsCompletion e
      let n := bits (node i) 63 32
      (stream && 1 < ins.length)
        || (if ins.isEmpty || stream then n != 0 else n == 0)
        || (match knownCount copy nodes edges i with
          | some c => c % gangSize (node i) != 0
          | none => false)

/-! ### Nodes against the machine (spec/13 R347 steps 3 and 4) -/

/-- The operand images of an array node. -/
def State.nodeImages (s : State) (asid n i : Nat) : Except Refused (List (BitVec 512)) :=
  if nodeIsEngine n then .ok []
  else eachOk (fun k => match s.graphRead asid (word64 n 8 + 64 * k) 64 i with
    | .error e => .error e
    | .ok d => match s.descReason asid d with
      | .error c => .error { status := 9, reason := accessReason c.code, fnode := i }
      | .ok (some r) => .error { status := 5, reason := r, fnode := i }
      | .ok none => .ok (BitVec.ofNat 512 d)) (upTo (bits n 580 576))

/-- The engines of an engine node. -/
def nodeEngines (n : Nat) : List Nat := (upTo (bits n 214 203)).map fun k => bits n 202 192 + k * bits n 225 215

/-- Whether 1 KiB at a bank-local address is the result of a valid range entry fit for a window. -/
def entryCovers (e pa : Nat) (write : Bool) : Bool :=
  rangeValid e && bits e 10 8 == 0 && bit e 7 && !bit e 6 && bit e 1 && (!write || bit e 2)
    && (let lo := (bits e 63 12 * 4096 + bits e 191 128) % 2 ^ 64
        lo ≤ pa && pa + 1023 ≤ lo + (bits e 127 64 - bits e 63 12 * 4096))

/-- Whether the windows of an engine node are covered. -/
def State.windowsOk (s : State) (asid n : Nat) : Bool :=
  let es := (upTo 256).map fun j => s.physNow (s.xlBase asid + 32 * j) 32
  (upTo 4).all fun k =>
    let w := word64 n (4 + k)
    !bit w 38 || (nodeEngines n).all fun g =>
      (if bit w 37 then viaGroup g else [g]).all fun g => (upTo 4).all fun b =>
        !bit (bits w 35 32) b || (upTo (bits w 31 16 + 1 - bits w 15 0)).all fun r =>
          es.any fun e => entryCovers e (rowLoc g b (bits w 15 0 + r)) (bit w 36)

/-- The key of a semaphore slot of an engine node; none where the slot names none. -/
def State.semKey (s : State) (asid n k : Nat) : Except Unit (Option Nat) :=
  let va := word64 n (8 + k)
  if va == 0 then .ok none
  else match s.xlate (kWho asid) va .atomic with
    | .ok l => if l.target ≤ 1 then .ok (some l.key) else .error ()
    | .error _ => .error ()

/-- Step 4 for node `i`: its semaphore slots and control-store image. -/
def State.engineNode (s : State) (asid : Nat) (priv : Bool) (n i : Nat) : Except Refused (List (Option Nat) × List Nat) :=
  if !nodeIsEngine n then .ok ([], [])
  else
    let no := fun (st r : Nat) => Except.error ({ status := st, reason := r, fnode := i } : Refused)
    if bits n 177 162 != s.igen then no 2 1
    else if (nodeEngines n).any fun g => !s.engLive g then no 2 2
    else if !s.windowsOk asid n then no 4 1
    else match s.semKey asid n 0, s.semKey asid n 1, s.semKey asid n 2, s.semKey asid n 3 with
      | .ok a, .ok b, .ok c, .ok d =>
        if bit n 8 && !priv then no 4 3
        else match s.graphRead asid (bits n 127 64) (4 * bits n 152 140) i with
          | .error e => .error e
          | .ok w => .ok ([a, b, c, d], (upTo (bits n 152 140)).map fun k => bits w (32 * k + 31) (32 * k))
      | _, _, _, _ => no 4 2

/-! ### Counts (spec/13 R347 step 5, R348) -/

/-- The largest count a launch may name. -/
def countLimit (copy : Nat) : Nat := min (2 ^ 32 - 1) (2 ^ widBits copy)

/-- The root count. -/
def State.rootCount (s : State) (asid copy : Nat) : Except Refused Nat :=
  let c := if indirect copy then s.kRead asid (word64 copy 2) 8 else .ok (word64 copy 2)
  match c with
  | .error _ => .error { status := 6, reason := 2 }
  | .ok n => if countLimit copy < n then .error { status := 6, reason := 1 } else .ok n

/-- The counts of the nodes. -/
def countsOk (copy count : Nat) (nodes edges : List Nat) : Except Refused Unit :=
  match (upTo nodes.length).find? fun i => countLimit copy < bits (nodes.getD i 0) 63 32 with
  | some i => .error { status := 6, reason := 3, fnode := i }
  | none =>
    match (upTo nodes.length).find? fun i => indirect copy && !(edges.any fun e => edgeDst e == i)
        && count % gangSize (nodes.getD i 0) != 0 with
    | some i => .error { status := 6, reason := 4, fnode := i }
    | none => .ok ()

/-- Records of one tier share of a context (spec/13 R349). -/
def State.share (s : State) (asid : Nat) : Nat := s.ctxWord asid 0x48 / 4

def arrayNodes (nodes : List Nat) : Nat := (nodes.filter fun n => !nodeIsEngine n).length

/-- The checks of R347 in order: the graph with Keystone's copies, or the refusal. -/
def State.checkLaunch (s : State) (p : Pending) : Except Refused Graph :=
  let base := word64 p.copy 1
  match s.graphRead p.asid base 64 0 with
  | .error e => .error e
  | .ok h =>
    if graphHeaderBad h then .error { status := 3, reason := 1 }
    else match eachOk (fun i => s.graphRead p.asid (base + 64 + 128 * i) 128 0) (upTo (bits h 8 0)),
        eachOk (fun j => s.graphRead p.asid (base + 64 + 128 * bits h 8 0 + 8 * j) 8 0) (upTo (bits h 18 9)) with
      | .error e, _ => .error e
      | _, .error e => .error e
      | .ok nodes, .ok edges =>
        match (upTo nodes.length).find? fun i => nodeBad (nodes.getD i 0) with
        | some i => .error { status := 3, reason := 2, fnode := i }
        | none =>
          if edges.any edgeBad then .error { status := 3, reason := 3 }
          else if structureBad p.copy nodes edges then .error { status := 3, reason := 4 }
          else match eachOk (fun (x : Nat × Nat) => s.nodeImages p.asid x.1 x.2) nodes.zipIdx,
              eachOk (fun (x : Nat × Nat) => s.engineNode p.asid (p.priv && p.tier == 0) x.1 x.2) nodes.zipIdx with
            | .error e, _ => .error e
            | _, .error e => .error e
            | .ok images, .ok engs => match s.rootCount p.asid p.copy with
              | .error e => .error e
              | .ok count => match countsOk p.copy count nodes edges with
                | .error e => .error e
                | .ok _ =>
                  if s.share p.asid < arrayNodes nodes then .error { status := 7, reason := 1 }
                  else .ok { asid := p.asid, lrec := p.lrec, tier := p.tier, copy := p.copy, count := count, nodes := nodes
                             images := images, sems := engs.map (·.1), code := engs.map (·.2)
                             st := nodes.map fun _ => {}, edges := edges.map fun e => { entry := e } }

/-! ### Resources (spec/13 R349) -/

/-- The records that a context's nodes hold in reserve. -/
def State.reserves (s : State) (asid : Nat) : List Nat :=
  (s.ks.graphs.filter fun g => g.asid == asid).flatMap fun g =>
    ((upTo g.nodes.length).filter (s.holdsReserve g)).map fun i => (g.nst i).reserve

/-- The lowest records of a tier share that are free and nobody's reserve. -/
def State.freeRecs (s : State) (asid tier : Nat) : List Nat :=
  let z := s.share asid
  let held := s.reserves asid
  ((upTo z).map (· + tier * z)).filter fun i => !Tab.has s.ks.recs (recKey asid i) && !held.contains i

/-- Whether a graph fits into its tier. -/
def State.fits (s : State) (g : Graph) : Bool :=
  let gs := s.ks.graphs.filter fun x => x.tier == g.tier
  let n := arrayNodes g.nodes
  (gs.map fun x => x.nodes.length).foldl (· + ·) g.nodes.length ≤ 4096
    && (gs.map fun x => x.edges.length).foldl (· + ·) g.edges.length ≤ 8192
    && n ≤ (s.freeRecs g.asid g.tier).length && s.readyUsed g.tier + n ≤ 4096

/-- Give the array nodes of a graph their reserves. -/
def withReserves : List Nat → List Nat → List NodeSt → List NodeSt
  | n :: ns, rs, x :: xs =>
    if nodeIsEngine n then x :: withReserves ns rs xs else { x with reserve := rs.headD (2 ^ 24) } :: withReserves ns (rs.drop 1) xs
  | _, _, xs => xs

/-! ### Leaving the pending pool -/

/-- A pending slot of a tier has become free: suspended LARMWs and held queues go on (spec/08 R241; spec/14 R378). -/
def State.slotFreed (s : State) (tier : Nat) : State :=
  let s := s.armWaiting
  if tier != 0 then s
  else { s with xi := { s.xi with queues := s.xi.queues.map fun q =>
    if q.2.hold == 2 then (q.1, { q.2 with hold := 0, pend := true }) else q } }

def State.dropPend (s : State) (p : Pending) : State :=
  { s with ks := { s.ks with pend := s.ks.pend.filter fun x => !(x.asid == p.asid && x.lrec == p.lrec) } }

/-- Refuse a launch (spec/13 R347): completion record, error record of KIND 3, IDLE. -/
def State.refuse (s : State) (p : Pending) (r : Refused) : State :=
  let s := (s.dropPend p).completion p.asid p.lrec (word64 p.copy 10) r.status r.reason r.fnode (s.lrec p.asid p.lrec).gen []
  ((s.errRecord p.asid 3 r.status p.lrec r.fnode 0 r.reason 0).idleLrec p.asid p.lrec).slotFreed p.tier

/-- Admit a launch (spec/13 R340, R349): the graph with its reserves; recorded with LSEED and the count that was read. -/
def State.admitGraph (s : State) (p : Pending) (g : Graph) : State :=
  let w2 := if indirect p.copy then g.count else 0
  let s := if s.replaying && (s.recEntry 1 != word64 p.copy 3 || s.recEntry 2 != w2) then s.diverge
    else s.recEvent (recAdmit p.asid p.lrec) (word64 p.copy 3) w2 0
  let g := { g with st := withReserves g.nodes (s.freeRecs p.asid p.tier) g.st }
  let s := s.dropPend p
  let s := { s with ks := { s.ks with graphs := s.ks.graphs ++ [g] } }
  let s := (s.setLrec p.asid p.lrec { s.lrec p.asid p.lrec with state := 2 }).markNew p.asid p.lrec
  (s.endGraph p.asid p.lrec).slotFreed p.tier

/-! ### Dependences (spec/13 R346, R358) -/

/-- Change a pending launch. -/
def State.onPend (s : State) (p : Pending) (f : Pending → Pending) : State :=
  { s with ks := { s.ks with pend := s.ks.pend.map fun x => if x.asid == p.asid && x.lrec == p.lrec then f x else x } }

/-- Whether dependence `i` holds now: none is needed, it has been found to hold, or its word is at the threshold. -/
def State.depHolds (s : State) (p : Pending) (i : Nat) (met : Bool) : Except Nat Bool :=
  let a := word64 p.copy (6 + 2 * i)
  if a == 0 || met then .ok true
  else match s.kRead p.asid a 8 with
    | .error c => .error c
    | .ok v => .ok (decide (word64 p.copy (7 + 2 * i) ≤ v))

/-- One monitor read of a launch's dependences, or of those on one semaphore: an unreadable one refuses it. -/
def State.readDeps (s : State) (sem : Option Nat) (p : Pending) : State :=
  let read := fun (i : Nat) (met : Bool) =>
    if sem.any fun x => x != semName p.asid (word64 p.copy (6 + 2 * i)) then .ok met else s.depHolds p i met
  match read 0 p.dep0, read 1 p.dep1 with
  | .ok a, .ok b => s.onPend p fun x => { x with dep0 := a, dep1 := b }
  | .error c, _ => s.refuse p { status := 9, reason := accessReason c }
  | _, .error c => s.refuse p { status := 9, reason := accessReason c }

/-- The dependences of a launch register in the monitor, each with its first read. -/
def State.registerDeps (s : State) (p : Pending) : State :=
  if p.reg then s
  else
    let q := { p with reg := true }
    (q.watches.foldl State.enter (s.onPend p fun x => { x with reg := true })).readDeps none q

/-- The pending launch an event names. -/
def State.pendAt (s : State) (asid i : Nat) : Option Pending := s.ks.pend.find? fun p => p.asid == asid && p.lrec == i

/-- Check an eligible launch, once. -/
def State.checkPend (s : State) (p : Pending) : State :=
  if p.dep0 && p.dep1 && p.passed.isNone then
    match s.checkLaunch p with
    | .error r => s.refuse p r
    | .ok g => s.onPend p fun x => { x with passed := some g }
  else s

/-- Whether a pending launch is eligible (spec/13 R346): each dependence has been found to hold, or it names none. -/
def State.eligible (s : State) (p : Pending) : Bool :=
  (p.dep0 || word64 p.copy 6 == 0) && (p.dep1 || word64 p.copy 8 == 0) && (s.ctx p.asid).held == 0

/-- Admit a checked launch when its resources are free and no older eligible one of its tier waits. -/
def State.tryAdmit (s : State) (p : Pending) : State :=
  match p.passed with
  | none => s
  | some g =>
    let older := s.ks.pend.any fun x => x.tier == p.tier && x.order < p.order && s.eligible x
    if older || !s.fits g || !s.recAllows (recAdmit p.asid p.lrec) then s else s.admitGraph p g

/-- ADMISSION (spec/13 R345 to R349): launch record `ident` of context `asid`. -/
def execAdmission (s : State) : Out :=
  let go := fun (s : State) (f : State → Pending → State) => match s.pendAt s.inp.asid s.inp.ident with
    | none => s
    | some p => f s p
  .next (match (s.ctx s.inp.asid).held with
    | 0 => go (go (go s.sweep State.registerDeps) State.checkPend) State.tryAdmit
    | 2 => go s fun s p => s.refuse p { status := 8 }
    | _ => s)

/-! ### Creation (spec/13 R350 to R352, R355) -/

/-- Drop the head item of the streaming edge into a node, and let held puts enter (spec/13 R355). -/
def State.takeItem (s : State) (g : Graph) (i : Nat) : State :=
  match g.edges.findIdx? fun e => edgeDst e.entry == i && !edgeIsCompletion e.entry with
  | none => s
  | some j =>
    (s.onGraph g.asid g.lrec fun g => { g with edges := g.edges.modify j fun e =>
      { e with items := e.items.drop 1, times := e.times.drop 1 } }).drainHeld
      g.asid g.lrec j 256

/-- Count a created instance. -/
def State.countNew (s : State) (g : Graph) (i : Nat) : State :=
  (s.onGraph g.asid g.lrec fun g => g.setNst i { g.nst i with created := (g.nst i).created + 1 }).takeItem g i

/-- Whether no other creation of the context waits in its tier that became possible before the next one of node `i`: in one
moment the node of lower index comes first (spec/13 R351; notes/assumptions/38.md). -/
def State.firstInLine (s : State) (g : Graph) (i : Nat) : Bool :=
  !(s.ks.graphs.any fun h => h.asid == g.asid && h.tier == g.tier && (upTo h.nodes.length).any fun j =>
    !nodeIsEngine (h.node j) && (h.nextWid j).isSome
      && (h.since j < g.since i || (h.since j == g.since i && h.lrec == g.lrec && j < i)))

/-- The record an array instance takes: the lowest free one of the tier share while the ready pool has room, if no creation comes
before it, otherwise the node's reserve. -/
def State.takeRec (s : State) (g : Graph) (i : Nat) : Option Nat :=
  let r := (g.nst i).reserve
  match s.freeRecs g.asid g.tier with
  | k :: _ => if s.readyUsed g.tier < 4096 && s.firstInLine g i then some k
    else if Tab.has s.ks.recs (recKey g.asid r) then none else some r
  | [] => if Tab.has s.ks.recs (recKey g.asid r) then none else some r

/-- Create an array instance in record `idx` (spec/13 R351). -/
def State.newRec (s : State) (g : Graph) (i wid idx : Nat) : State :=
  let n := g.node i
  let k := recKey g.asid idx
  let s := s.setRec k { state := 1, lrec := g.lrec, node := i, prio := bits n 3 2, tier := g.tier, wid := wid
                        restart := bit n 6, replay := s.replaying, readyAt := s.ks.order }
  let s := { s with ks := { s.ks with order := s.ks.order + 1 } }
  match s.writeRec k [] [] with
  | .error c => s.failRec k 1 c (s.recAddr k) 0
  | .ok s => s

/-- INSTANCE_CREATE (spec/13 R350 to R352): the next instance of node `code` of launch `ident`.  A stopped engine node
reports it STOPPED at once (spec/09 R283); otherwise an engine instance goes to its stack controller only while its context is OPEN
(spec/01 R11). -/
def execInstanceCreate (s : State) : Out :=
  let i := s.inp.code
  let s := s.sweep
  .next (match s.graph s.inp.asid s.inp.ident with
    | none => s
    | some g => match g.nextWid i with
      | none => s
      | some w =>
        if g.nodes.length ≤ i then s
        else if nodeIsEngine (g.node i) then
          if !(g.nst i).stopped && (s.ctx g.asid).held != 0 then s
          else
          let s := s.countNew g i
          if (g.nst i).stopped then s.stoppedInst g.asid g.lrec i w
          else { s with ks := { s.ks with
            engQ := s.ks.engQ ++ [({ asid := g.asid, lrec := g.lrec, node := i, eng := engOf (g.node i) w, prio := bits (g.node i) 3 2
                                     order := s.ks.order, wid := w } : EngInst)]
            order := s.ks.order + 1 } }
        else match s.takeRec g i with
          | none => s
          | some idx => (s.countNew g i).newRec g i w idx)

/-! ### The monitor (spec/13 R358) -/

/-- The monitor reads a semaphore, once for every waiter on it. -/
def State.readSem (s : State) (sem : Nat) : State :=
  let ks := (s.ks.recs.filter fun p => p.2.watches && semName (p.1 / 2 ^ 24) p.2.waitAddr == sem).map (·.1)
  let ps := s.ks.pend.filter fun p => p.watches.contains sem && (s.ctx p.asid).held == 0
  (ps.foldl (fun s p => s.readDeps (some sem) p) (ks.foldl State.monitor s)).prune

/-- The next semaphore of the overflow list is read, and goes to its end (spec/13 R358). -/
def State.readOverflow (s : State) : State :=
  match s.prune.ks.overflow with
  | [] => s.prune
  | x :: r => { s.prune with ks := { s.prune.ks with overflow := r ++ [x] } }.readSem x

/-- SEMAPHORE_MONITOR_READ (spec/13 R358): an entry on which launch `ident` (`flag`) or record `ident` waits is read for every
waiter it has; a record held ready takes an entry of the ready pool. -/
def execSemaphoreMonitorRead (s : State) : Out :=
  let k := recKey s.inp.asid s.inp.ident
  let r := s.rec_ k
  let sems := if s.inp.flag then ((s.pendAt s.inp.asid s.inp.ident).map Pending.watches).getD []
    else if r.watches then [semName s.inp.asid r.waitAddr] else []
  .next (if !s.inp.flag && r.state == 3 && r.heldReady then s.monitor k
    else (sems.filter s.ks.mon.contains).foldl State.readSem s)

/-! ### Errors of Keystone's storage and asynchronous memory errors (spec/15 R393, R396) -/

/-- Fail every item of a graph that has not ended, with cause 14 (spec/15 R393). -/
def State.failGraph (s : State) (asid lrec : Nat) : State :=
  let mine := fun (c : Cont) => c.asid == asid && c.lrec == lrec
  let cs := (s.cores.filter fun p => p.2.running && mine p.2.cont).map (·.1)
  let s := cs.foldl (fun s c => s.endFailed c 1 14 0 0) s
  let ks := (s.recsOf asid).filter fun k => (s.rec_ k).lrec == lrec
  let s := ks.foldl (fun s k => s.failRec k 1 14 0 0) s
  let s := s.dropEngQ fun x => x.asid == asid && x.lrec == lrec
  (s.onGraph asid lrec Graph.abandon).endGraph asid lrec

/-- KEYSTONE_STORAGE_UE (spec/15 R393): the entry belongs to launch `ident` of context `asid` (`flag`), or to no graph, where
firmware rewrites it. -/
def execKeystoneStorageUe (s : State) : Out :=
  .next (if s.inp.flag && (s.graph s.inp.asid s.inp.ident).isSome then s.failGraph s.inp.asid s.inp.ident else s)

/-- The uncorrectable sector that a write or an add met. -/
def State.meetAdd (s : State) (a : Add) : State :=
  if a.key == 0 then s.meetVa (kWho a.asid) a.va else s.meet a.key

/-- ASYNC_MEM_UE (spec/15 R396): the oldest error met by a write, an add or a lost access stops its context; the context of
an add from a peer lies in that peer. -/
def execAsyncMemUe (s : State) : Out :=
  .next (match s.ues with
    | [] => s
    | a :: r =>
      let s := { s with ues := r }.meetAdd a
      if 256 ≤ a.source then s
      else s.stopContext a.asid a.va a.lrec a.node a.wid)

end Sys2Proof.Machine
end

