-- ==== Sys2Proof/Machine/Matrix.lean ====
section
/-! DEFINITION. The M stream: tile and accumulator shapes, stationary planes, the fold, MMA and the loop nest, and the
accumulator epilogues (spec/07 R193 to R220; spec/02 R55 to R64). -/

namespace Sys2Proof.Machine

/-! ### Shapes (spec/07 R196 to R198) -/

/-- Whether MSHAPE refuses an image. -/
def tileBad (w : Word) : Bool :=
  let t := tFmt w
  field w 63 30 != 0 || !(tTag t || t == 0)
    || (t == 0 && (tRows w != 0 || tRowb w != 0 || tSfmt w != 0 || tBlk w != 0))
    || (t != 0 && (tRows w == 0 || tRowb w == 0))
    || 256 < tRows w || 256 < tRowb w || tRowb w % elemBytes t != 0
    || !(tSfmt w == 0 || tSfmt w == 12 || tSfmt w == 13) || (tSfmt w == 0) != (tBlk w == 0)
    || (tBlk w != 0 && !(isNarrowTag t || t == 1 || t == 2))
    || 65536 < tBytes w

/-- Validity bits of the first `n` rows. -/
def firstRows (n : Nat) : BitVec 256 := BitVec.ofNat 256 (2 ^ n - 1)

/-- MSHAPE (spec/07 R196). -/
def execMshape (f : MshapeF) (s : State) : Out :=
  let w := s.srcX f.a
  .next (s.finish f.e (if tileBad w then .trap (cFormat s.cl.pos 5)
    else .done { effs := [.tile f.d { shape := w, valid := firstRows (tRows w), data := [] }] }))

/-- Whether CSHAPE refuses an image for accumulator `n`. -/
def Core.accBad (c : Core) (n : Nat) (w : Word) : Bool :=
  let t := field w 22 18
  let rows := field w 8 0
  let cols := field w 17 9
  let old := c.acc n
  field w 63 23 != 0 || !(t == 0 || t == 4 || t == 10)
    || (t == 0 && (rows != 0 || cols != 0))
    || (t != 0 && (rows == 0 || cols == 0 || 256 < rows || 256 < cols))
    || c.accBytes < c.usedAcc - old.rows * old.cols * 4 + rows * cols * 4

/-- The moving core with the accumulators that earlier positions of its clause have shaped. -/
def State.accSoFar (s : State) : Core :=
  s.cl.effs.foldl (fun (c : Core) e => match e with
    | .acc n x => c.setC n x
    | _ => c) s.me

/-- CSHAPE (spec/07 R197).  The accumulators' shapes are those that the earlier positions of its clause leave (DESIGN CHOICE,
notes/assumptions/72.md). -/
def execCshape (f : MshapeF) (s : State) : Out :=
  let w := s.srcX f.a
  let rows := field w 8 0
  let cols := field w 17 9
  .next (s.finish f.e (if s.accSoFar.accBad f.d w then .trap (cFormat s.cl.pos 6)
    else .done { effs := [.acc f.d { tag := field w 22 18, rows := rows, cols := cols, vals := List.replicate (rows * cols) 0 }] }))

/-- MZERO of an accumulator (spec/07 R198). -/
def execMzeroC (f : Dst) (s : State) : Out :=
  let c := s.vw.acc f.d
  .next (s.finish f.e (if c.tag == 0 then .trap (cFormat s.cl.pos 0)
    else .done { effs := [.acc f.d { c with vals := List.replicate (c.rows * c.cols) 0 }] }))

/-- MZERO of a tile (spec/07 R198). -/
def execMzeroT (f : Dst) (s : State) : Out :=
  let t := s.vw.tile f.d
  .next (s.finish f.e (if tFmt t.shape == 0 then .trap (cFormat s.cl.pos 0) else .done { effs := [.tile f.d { t with data := [] }] }))

/-! ### Stationary planes (spec/07 R199 to R202) -/

/-- The element formats of MMA. -/
def mmaTag (t : Nat) : Bool := isNarrowTag t || isWideTag t || t == 1 || t == 2

/-- The plane of a tile-layout unit of shape `w`; `nibs` are its rows' metadata nibbles. -/
def planeOf (w : Word) (m : Mem) (sparse : Bool) (nibs : List (List Nat)) : Plane :=
  { tag := tFmt w, rows := tRows w, elems := tElems w, blk := tBlk w, sfmt := tSfmt w, sparse := sparse
    vals := (upTo (tRows w)).map fun r => tRow w m r
    scales := (upTo (tRows w)).map fun r => tScaleRow w m r
    nibs := nibs }

/-- The metadata nibbles of rows of `bytes` bytes from offset `base`. -/
def nibRows (m : Mem) (base pitch rows groups : Nat) : List (List Nat) :=
  (upTo rows).map fun r => (upTo groups).map fun g => (Mem.read m (base + r * pitch + g / 2)).toNat / 16 ^ (g % 2) % 16

/-- What an MLDS captures from its tiles (spec/07 R199, R200). -/
def Core.capture (c : Core) (tb : Nat) (tm : Option Nat) : Plane :=
  let b := c.tile tb
  match tm with
  | none => planeOf b.shape b.data false []
  | some n => planeOf b.shape b.data true (nibRows (c.tile n).data 0 (tRowb (c.tile n).shape) (tRows b.shape) (tElems b.shape / 2))

/-- MLDS (spec/07 R199): the read itself is the event MLDS_READ_DONE. -/
def execMlds (f : MldsF) (s : State) : Out :=
  .next (s.finish f.e (if !mmaTag (tFmt (s.vw.tile f.a).shape) then .trap (cFormat s.cl.pos 0)
    else .done { effs := [.mlds f.a none] }))

/-- MLDS.sp (spec/07 R199, R200). -/
def execMldsSp (f : MldsSpF) (s : State) : Out :=
  let b := (s.vw.tile f.a).shape
  let m := (s.vw.tile f.b).shape
  .next (s.finish f.e (
    if !mmaTag (tFmt b) then .trap (cFormat s.cl.pos 0)
    else if tFmt m != 2 || tRows m != tRows b || tElems b % 2 != 0 || 4 * tRowb m < tElems b then .trap (cFormat s.cl.pos 8)
    else .done { effs := [.mlds f.a (some f.b)] }))

/-- MSWAP (spec/07 R201). -/
def execMswap (f : EndF) (s : State) : Out := .next (s.finish f.e (.done { effs := [.swap] }))

/-- MWAIT (spec/07 R202): its stall is before issue. -/
def execMwait (f : EndF) (s : State) : Out := .next (s.finish f.e (.done {}))

/-! ### Format pairs and block sizes (spec/07 R203 to R206; spec/02 R55) -/

/-- A pair's class: 1 narrow float, 2 integer, 3 wide, 0 outside the table. -/
def pairClass (a b : Nat) : Nat :=
  if isNarrowTag a && isNarrowTag b then 1
  else if (a == 1 || a == 2) && (b == 1 || b == 2) then 2
  else if a == b && isWideTag a then 3
  else 0

/-- Kc and Nc of a pair. -/
def pairCap (a b : Nat) : Nat × Nat :=
  if (a == 5 && b == 5) || (a == 1 && b == 1) then (128, 64)
  else if a == 10 then (16, 16)
  else if isWideTag a then (32, 32)
  else (64, 64)

/-- One MMA over operands that have been checked: rows of A as codes, their validity and scales, the plane, the shapes, the
suffixes and the tensor scales. -/
structure MatJob where
  (tagA blkA sfA rows k : Nat)
  arows : List (List Nat)
  live : List Bool
  ascales : List (List Nat)
  plane : Plane
  (bs : Bool)
  (ta tb : Val)
  deriving DecidableEq, Repr, Inhabited

/-- Logical K of a plane. -/
def Plane.k (p : Plane) : Nat := if p.sparse then 2 * p.elems else p.elems

def MatJob.cls (j : MatJob) : Nat := pairClass j.tagA j.plane.tag

/-- Block size of B in logical positions. -/
def Plane.span (p : Plane) : Nat := if p.sparse then 2 * blkSize p.blk else blkSize p.blk

/-- The summation block size (spec/02 R55; spec/07 R200). -/
def MatJob.sb (j : MatJob) : Nat :=
  if j.cls == 3 then 8 else if j.bs then min (blkSize j.blkA) j.plane.span else 32

def MatJob.nb (j : MatJob) : Nat := ceilDiv j.k j.sb
def MatJob.kc (j : MatJob) : Nat := (pairCap j.tagA j.plane.tag).1 * (if j.plane.sparse then 2 else 1)
def MatJob.nc (j : MatJob) : Nat := (pairCap j.tagA j.plane.tag).2
def MatJob.q (j : MatJob) : Nat := j.kc / j.sb

/-- Steps of a job, and its columns of groups. -/
def MatJob.groups (j : MatJob) : Nat := ceilDiv j.plane.rows j.nc
def MatJob.steps (j : MatJob) : Nat := ceilDiv j.rows 64 * j.groups

/-! ### The fold (spec/07 R207 to R209) -/

/-- The courses of a mask, rising. -/
def coursesOf (mask : Nat) : List Nat := (upTo 4).filter fun c => bit mask c

/-- FoldOrder (spec/07 R207) for the courses P. -/
def foldOrder (nb q : Nat) (p : List Nat) (fixed : Bool) : List Nat :=
  let p' := if fixed then [0, 1, 2, 3] else p
  let home := (upTo (ceilDiv nb (4 * q))).flatMap fun pass => p'.flatMap fun c =>
    (upTo nb).filter fun i => i % 4 == c && i / (4 * q) == pass
  let d := (upTo nb).filter fun i => !p'.contains (i % 4)
  let js := upTo d.length
  let extra := (upTo (ceilDiv d.length (p.length * q))).flatMap fun x => (upTo p.length).flatMap fun k =>
    (js.filter fun j => j / (p.length * q) == x && j % p.length == k).map fun j => d.getD j 0
  home ++ extra

/-- Blocks whose home course is not in P. -/
def homeless (nb : Nat) (p : List Nat) : List Nat := (upTo nb).filter fun i => !p.contains (i % 4)

/-- PASSES (spec/07 R207). -/
def foldPasses (nb q : Nat) (p : List Nat) : Nat :=
  ceilDiv nb (4 * q) + ceilDiv (homeless nb p).length (p.length * q)

/-- The course that computes block `i`. -/
def blockCourse (nb : Nat) (p : List Nat) (i : Nat) : Nat :=
  match (homeless nb p).findIdx? fun x => x == i with
  | some j => p.getD (j % p.length) 0
  | none => i % 4

/-- Whether fixed-order mode is in force (spec/07 R219): record mode forces it. -/
def State.foldFixed (s : State) : Bool := wbit s.me.mat.mode 0 || s.xi.recMode == 1

/-- The nine words of FOLDREP (spec/07 R209). -/
def foldReport (order : List Nat) (nb passes courses : Nat) (fixed mixed sparse : Bool) : List Word :=
  let w0 := courses % 2 ^ 12 + passes % 256 * 2 ^ 16 + nb * 2 ^ 24 + b2n fixed * 2 ^ 31 + b2n mixed * 2 ^ 32 + b2n sparse * 2 ^ 33
  let place := fun i => (order.findIdx? fun x => x == i).getD 0xFF
  word w0 :: (upTo 8).map fun w => word ((upTo 8).foldl (fun a k => a + place (8 * w + k) * 2 ^ (8 * k)) 0)

/-! ### Elements (spec/02 R55 to R62) -/

/-- The value of an operand or scale, every NaN quiet: one that arrives sets no flag (spec/02 R61). -/
def quietVal (v : Val) : Val :=
  match v with
  | .nan _ => .nan false
  | x => x

/-- The pairs of codes that meet in one summation block (spec/07 R200). -/
def blockPairs (sparse : Bool) (a b nibs : List Nat) : List (Nat × Nat) :=
  if sparse then
    (upTo b.length).map fun e =>
      let n := nibs.getD (e / 2) 0
      (a.getD (4 * (e / 2) + (if e % 2 == 0 then n % 4 else n / 4)) 0, b.getD e 0)
  else a.zip b

/-- The exact products of a block, with INV for 0 × ∞. -/
def blockProducts (ta tb : Nat) (ps : List (Nat × Nat)) : List Val × Word :=
  ps.foldl (fun (st : List Val × Word) p =>
    let q := (quietVal (tagVal ta p.1)).mul (quietVal (tagVal tb p.2))
    (st.1 ++ [q.1], st.2 ||| q.2)) ([], 0)

/-- The largest exponent floor(log2 |p|) of non-zero finite products. -/
def topLog (l : List Val) : Option Int :=
  l.foldl (fun a v => match v with
    | .fin _ m => if m.num == 0 then a else match a with
      | none => some m.log2
      | some k => some (max k m.log2)
    | _ => a) none

/-- The exact sum of a block of wide products (spec/02 R59): value, sticky bit and flags.  A NaN operand's product beside
infinities of both signs gives NaN without INV (DESIGN CHOICE, notes/assumptions/66.md). -/
def wideSum (l : List Val) : Val × Bool × Word :=
  if l.any Val.isNan then (.nan false, false, 0)
  else if l.any Val.isInf then
    let pos := l.contains (.inf false)
    let neg := l.contains (.inf true)
    if pos && neg then (.nan false, false, fINV) else (.inf neg, false, 0)
  else match topLog l with
    | none => (Val.zero false, false, 0)
    | some k =>
      let g := k - 87
      let go := l.foldl (fun (st : Int × Bool) v => match v with
        | .fin neg m =>
          let (n, d) := m.over g
          (st.1 + signedInt neg (n / d), st.2 || (m.num != 0 && n % d != 0))
        | _ => st) (0, false)
      (.fin (go.1 < 0) ⟨go.1.natAbs, 1, g⟩, go.2, 0)
where
  /-- An integer with sign. -/
  signedInt (neg : Bool) (n : Nat) : Int := if neg then -(n : Int) else (n : Int)

/-- EA of a value that carries a sticky bit, with INX. -/
def eaSticky (v : Val) (sticky : Bool) : Val × Word :=
  match v with
  | .fin neg m => let q := eaRound neg m sticky; (q.1, fIf q.2 fINX)
  | x => (x, 0)

/-- EA of an exact result with its flags. -/
def eaOf (v : Val × Word) : Val × Word :=
  let q := eaSticky v.1 false
  (q.1, v.2 ||| q.2)

/-- A scale of tag `t`. -/
def scaleVal (t code : Nat) : Val := if t == 12 then decodeUE8M0 code else fmtE5M2S.decode code

/-! ### Residues modulo 127 (spec/02 R63) -/

/-- res(x). -/
def res127 (x : Int) : Nat := (x % 127).toNat

/-- The signed significand of a number, or of a product as the multiplier puts it out. -/
def Val.sig (v : Val) : Int :=
  match v with
  | .fin neg m => if neg then -(m.num : Int) else m.num
  | _ => 0

/-- A number whose significand is off by `d`. -/
def Val.off (v : Val) (d : Int) : Val :=
  match v with
  | .fin neg m => let x := (Val.fin neg m).sig + d; .fin (x < 0) { m with num := x.natAbs }
  | x => x

/-- A number as a multiple of 2^g, towards zero. -/
def Val.grid (g : Int) (v : Val) : Int :=
  match v with
  | .fin neg m => let (n, d) := m.over g; if neg then -((n / d : Nat) : Int) else (n / d : Nat)
  | _ => 0

/-- The exponent of the grid that a block's products are placed on: of R59 for wide ones, the least of theirs for narrow ones. -/
def blockGrid (wide : Bool) (l : List Val) : Int :=
  if wide then (topLog l).getD 0 - 87
  else (l.foldl (fun (a : Option Int) v => match v with
    | .fin _ m => if m.num == 0 then a else some (min m.exp (a.getD m.exp))
    | _ => a) none).getD 0

/-- What a glitch list adds at a kind and a product. -/
def glitchAt (gs : List Glitch) (kind prod : Nat) : Int :=
  gs.foldl (fun a g => if g.kind == kind && (kind != 1 || g.prod == prod) then a + g.delta else a) 0

/-- Whether a product fails its check. -/
def productBad (ta tb : Nat) (p : Nat × Nat) (out : Val) : Bool :=
  match out with
  | .fin _ _ => res127 out.sig != res127 (tagVal ta p.1).sig * res127 (tagVal tb p.2).sig % 127
  | _ => false

/-- Whether a block sum fails its check: Σ res(P_i) × 2^(s_i mod 7), where the shift s_i places product i on the grid. -/
def sumBad (wide : Bool) (l : List Val) (g s : Int) : Bool :=
  let sum := l.foldl (fun a v => match v with
    | .fin _ m =>
      if wide then a + res127 (v.grid g)
      else if m.num == 0 then a else a + res127 v.sig * 2 ^ ((m.exp - g).toNat % 7)
    | _ => a) 0
  res127 s != sum % 127

/-- The block sum S of block `i` of element (r, n), its sticky bit and flags, and the kind of its first failing check, with the
element's glitches in this block. -/
def MatJob.blockSum (j : MatJob) (achunks bchunks nchunks : List (List Nat)) (gs : List Glitch) (i : Nat) : Val × Bool × Word × Option Nat :=
  let ps := blockPairs j.plane.sparse (achunks.getD i []) (bchunks.getD i []) (nchunks.getD i [])
  let pr := blockProducts j.tagA j.plane.tag ps
  let gs := gs.filter fun g => g.block == i && g.kind != 3
  let wide := j.cls == 3
  let sum := fun (l : List Val) =>
    if wide then let w := wideSum l; (w.1, w.2.1, pr.2 ||| w.2.2) else (l.foldl (fun a p => (a.add false p).1) (Val.zero false), false, 0)
  if gs.isEmpty then let s := sum pr.1; (s.1, s.2.1, s.2.2, none)
  else
    let out := pr.1.zipIdx.map fun x => x.1.off (glitchAt gs 1 x.2)
    let s := sum out
    let g := blockGrid wide out
    let t := s.1.grid g + glitchAt gs 2 0
    let product := (ps.zip out).any fun x => productBad j.tagA j.plane.tag x.1 x.2
    match s.1 with
    | .fin _ _ =>
      let kind := if product then some 1
        else if j.cls != 2 && sumBad wide out g t then some 2 else none
      (.fin (t < 0) ⟨t.natAbs, 1, g⟩, s.2.1, s.2.2, kind)
    | v => (v, s.2.1, s.2.2, if product then some 1 else none)

/-- The residue that the integer EA of an element must have. -/
def MatJob.intRes (j : MatJob) (achunks bchunks nchunks : List (List Nat)) : Nat :=
  ((upTo j.nb).foldl (fun a i =>
    ((blockProducts j.tagA j.plane.tag (blockPairs j.plane.sparse (achunks.getD i []) (bchunks.getD i []) (nchunks.getD i []))).1.foldl
      (fun a v => a + res127 v.sig) a)) 0) % 127

/-- A row cut into its summation blocks: `per` stored members of each. -/
def cut (per : Nat) (row : List Nat) : List (List Nat) := chunks per row.length row

/-- EA of element (r, n) before the final rounding, in the order `order` (spec/02 R58), or the exact integer sum, with flags and
the block and kind of its first failing check. -/
def MatJob.element (j : MatJob) (order : List Nat) (gs : List Glitch) (r n : Nat) : Val × Word × Option (Nat × Nat) :=
  let gs := gs.filter fun g => g.row == r && g.col == n
  let sb := j.sb
  let half := if j.plane.sparse then 2 else 1
  let a := cut sb (j.arows.getD r [])
  let b := cut (sb / half) (j.plane.vals.getD n [])
  let m := cut (sb / 4) (j.plane.nibs.getD n [])
  let as := j.ascales.getD r []
  let bs := j.plane.scales.getD n []
  let sum := order.foldl (fun (st : Val × Word × Option (Nat × Nat)) i =>
    let (s, sticky, fl, bad) := j.blockSum a b m gs i
    let bad := if st.2.2.isSome then st.2.2 else bad.map fun k => (i, k)
    if j.cls == 2 then ((st.1.add false s).1, st.2.1, bad)
    else
      let sa := if j.bs then scaleVal j.sfA (as.getD (i * sb / blkSize j.blkA) 0) else Val.one
      let sc := if j.bs then scaleVal j.plane.sfmt (bs.getD (i * sb / j.plane.span) 0) else Val.one
      let x := s.mul sa
      let u := eaSticky x.1 sticky
      let v := eaOf (u.1.mul sc)
      let e := eaOf (st.1.add false v.1)
      (e.1, st.2.1 ||| fl ||| x.2 ||| u.2 ||| v.2 ||| e.2, bad)) (Val.zero false, 0, none)
  if j.cls == 2 then
    if gs.isEmpty then (sum.1, 0, none)
    else
      let v := (sum.1.add false (Val.ofInt (glitchAt gs 3 0))).1
      let late := if res127 (v.grid 0) == j.intRes a b m then none
        else (gs.find? fun g => g.kind != 1).map fun g => (g.block, 3)
      (v, 0, if sum.2.2.isSome then sum.2.2 else late)
  else
    let x := eaOf (sum.1.mul j.ta)
    let y := eaOf (x.1.mul j.tb)
    (y.1, sum.2.1 ||| x.2 ||| y.2, sum.2.2)

/-- The elements of one step of a job, in row-major order (spec/07 R206). -/
def MatJob.places (j : MatJob) (step : Nat) : List (Nat × Nat) :=
  let r0 := step / j.groups * 64
  let n0 := step % j.groups * j.nc
  (upTo (min 64 (j.rows - r0))).flatMap fun r => (upTo (min j.nc (j.plane.rows - n0))).map fun n => (r0 + r, n0 + n)

/-- One step of a job (spec/07 R206): EA of its elements, their flags, and the first element that fails its checks, with block
and kind; rows that are not live compute nothing. -/
def MatJob.doStep (j : MatJob) (order : List Nat) (gs : List Glitch) (step : Nat) : List Val × Word × Option ((Nat × Nat) × Nat × Nat) :=
  let xs := (j.places step).map fun p => (p, if j.live.getD p.1 false then j.element order gs p.1 p.2 else (Val.zero false, 0, none))
  (xs.map (·.2.1), xs.foldl (fun a x => a ||| x.2.2.1) 0, xs.findSome? fun x => x.2.2.2.map fun y => (x.1, y))

/-- The staged value of element (r, n). -/
def MatJob.stagedAt (j : MatJob) (staged : List (List Val)) (r n : Nat) : Val :=
  let g := r / 64 * j.groups + n / j.nc
  let width := min j.nc (j.plane.rows - n / j.nc * j.nc)
  (staged.getD g []).getD (r % 64 * width + n % j.nc) (Val.zero false)

/-- The exact integer of a value with denominator 1 and exponent 0. -/
def Val.int (v : Val) : Int :=
  match v with
  | .fin neg m => let n := m.num * 2 ^ m.exp.toNat / m.den; if neg then -(n : Int) else (n : Int)
  | _ => 0

/-- What a write-back has built: values newest first, flags, rounding context. -/
structure Wrote where
  vals : List Nat := []
  flags : Word := 0
  rnd : Rnd
  deriving DecidableEq, Repr, Inhabited

/-- The write-back of a job into values of `cols` columns, at row `r0` and column `n0` (spec/02 R58, R62; spec/07 R205). -/
def MatJob.writeBack (j : MatJob) (isat : Bool) (staged : List (List Val)) (cols r0 n0 : Nat) (old : List Nat) (rnd : Rnd) : Wrote :=
  let go := (old.zipIdx).foldl (fun (w : Wrote) x =>
    let r := x.2 / cols
    let n := x.2 % cols
    if r0 ≤ r && r < r0 + j.rows && n0 ≤ n && n < n0 + j.plane.rows && j.live.getD (r - r0) false then
      let e := j.stagedAt staged (r - r0) (n - n0)
      if j.cls == 2 then
        let i := signed 32 x.1 + e.int
        let q := if isat then satInt 32 i else (toCode 32 i, 0)
        { w with vals := q.1 :: w.vals, flags := w.flags ||| q.2 }
      else
        let (m, rnd) := w.rnd.next
        let v := (quietVal (fmtFP32.decode x.1)).add (m == .down) e
        let q := fmtFP32.round m rnd.ftz v.1
        { vals := q.1 :: w.vals, flags := w.flags ||| q.2 ||| v.2, rnd := rnd }
    else { w with vals := x.1 :: w.vals }) { rnd := rnd }
  { go with vals := go.vals.reverse }

/-! ### Courses (spec/07 R208, R212) -/

/-- Latch P (spec/07 R208): bits [11:0] of FOLDREP word 0.  Where only courses in heat skip are left, they leave it. -/
def State.latchP (s : State) : Nat × State :=
  let m := s.me.mat
  let free := 15 - m.fenced % 16
  let out := (upTo 4).all fun c => !bit free c || bit m.heat c
  let heat := if out then (upTo 4).foldl (fun a c => if bit m.heat c && bit m.fenced c then a + 2 ^ c else a) 0 else m.heat % 16
  let p := (upTo 4).foldl (fun a c => if bit free c && !bit heat c then a + 2 ^ c else a) 0
  (p + heat * 16 + m.fenced % 16 * 256, s.onMe fun c => { c with mat := { c.mat with heat := heat } })

/-- Whether every course of a latched P is still available. -/
def MatSt.holds (m : MatSt) (courses : Nat) : Bool :=
  (upTo 4).all fun c => !bit courses c || (!bit m.fenced c && !bit m.heat c)

/-- MRESIDUE (spec/07 R212). -/
def cResidue (course kind elem block : Nat) : Cause := { code := 15, i0 := word course, i1 := word kind, i2 := word elem, i3 := word block }

/-- The failed check that an instruction reports (spec/07 R212): of the one so far and one of a new step, the element that is first
in row-major order.  Kind 3 names no block.  Inside an MGO row, column and block are those of the iteration's MMA (DESIGN CHOICE,
notes/assumptions/69.md). -/
def MatJob.failed (j : MatJob) (p : List Nat) (old : Option Residue) (new : Option ((Nat × Nat) × Nat × Nat)) : Option Residue :=
  match new with
  | none => old
  | some (e, b, k) =>
    let x : Residue := ⟨k, e.1, e.2, if k == 3 then 0xFF else b, blockCourse j.nb p b⟩
    match old with
    | some o => if o.row < x.row || (o.row == x.row && o.col < x.col) then some o else some x
    | none => some x

/-- The step a job takes next: staged values and flags, the failed check, and the glitches used up. -/
def State.arrayStep (s : State) (j : MatJob) (p : Progress) (cs order : List Nat) : Progress × State :=
  let gs := s.me.mat.glitch
  let x := j.doStep order gs p.step
  let here := j.places p.step
  ({ p with step := p.step + 1, staged := p.staged ++ [x.1], flags := p.flags ||| x.2.1, bad := j.failed cs p.bad x.2.2 },
   s.onMe fun c => { c with mat := { c.mat with glitch := gs.filter fun g => !here.contains (g.row, g.col) } })

/-- Raise MRESIDUE after testing the failing course. -/
def State.residueTrap (s : State) (e : Bool) (x : Residue) : State :=
  let bad := bit s.me.mat.failing x.course
  let s := if bad then s.fenceCourses s.cur.core (2 ^ x.course) else s
  s.finish e (.trap (cResidue (x.course + 16 * b2n bad) x.kind (x.row * 2 ^ 16 + x.col) x.block))

/-- MRESIDUE with no course available (spec/07 R208, R212): there is no course and no element that TRAPINFO0 and TRAPINFO2 could
name, so their values are free (notes/assumptions/2.md). -/
def State.noCourseTrap (s : State) (e : Bool) : State :=
  let i := s.free
  { s with free := i + 2 }.finish e (.trap (cResidue (Config.freeCycles i) 4 (Config.freeCycles (i + 1)) 0xFF))

/-- Begin, go on or resume: P as latched, with MIXED where a later latch changes it (spec/07 R208, R220).  `fresh` says
that an instruction or an iteration begins. -/
def State.courseStart (s : State) (fresh : Bool) : Progress × State :=
  let p := s.prog
  if p.active && !fresh && (s.cl.waiting || s.me.mat.holds p.courses) then (p, s)
  else
    let (c, s) := s.latchP
    ({ p with active := true, courses := c, mixed := p.mixed || (p.active && c % 16 != p.courses % 16) }, s)

/-! ### Operand checks (spec/07 R203 to R205, R217) -/

/-- Whether a tensor-scale word is malformed (spec/07 R204). -/
def tensorBad (x : Word) (isInt : Bool) : Bool :=
  field x 63 33 != 0 || (!wbit x 32 && field x 31 0 != 0) || (wbit x 32 && isInt)

/-- The tensor scales. -/
def tensorScales (x : Word) : Val × Val :=
  if wbit x 32 then (quietVal (fmtBF16.decode (field x 15 0)), quietVal (fmtBF16.decode (field x 31 16))) else (Val.one, Val.one)

/-- FORMAT 9 of MMA (spec/07 R203). -/
def pairBad (tagA : Nat) (scaled : Bool) (p : Plane) (ctag : Nat) (bs sp : Bool) : Bool :=
  let k := pairClass tagA p.tag
  k == 0 || ctag != (if k == 2 then 4 else 10) || (bs && (k != 1 || !scaled || p.blk == 0)) || sp != p.sparse

/-- Operand A of an MMA: rows, elements per row, tag, codes, validity, scales with block size and format, and whether it may
carry scales. -/
structure OpA where
  (rows k tag blk sfmt : Nat)
  codes : List (List Nat)
  live : List Bool
  scales : List (List Nat)
  deriving DecidableEq, Repr, Inhabited

/-- Operand A from a tile image of shape `w`. -/
def opTile (w : Word) (valid : BitVec 256) (m : Mem) : OpA :=
  { rows := tRows w, k := tElems w, tag := tFmt w, blk := tBlk w, sfmt := tSfmt w
    codes := (upTo (tRows w)).map fun r => tRow w m r
    live := (upTo (tRows w)).map fun r => valid.getLsbD r
    scales := (upTo (tRows w)).map fun r => tScaleRow w m r }

/-- Operand A from a popped unit. -/
def opUnit (u : QUnit) : OpA :=
  { rows := u.rows, k := u.elems, tag := u.tag, blk := 0, sfmt := 0
    codes := chunks u.elems u.rows u.codes, live := u.valid, scales := [] }

/-- The job of operand A and a plane. -/
def jobOf (a : OpA) (p : Plane) (bs : Bool) (tsw : Word) : MatJob :=
  let ts := tensorScales tsw
  { tagA := a.tag, blkA := a.blk, sfA := a.sfmt, rows := a.rows, k := a.k, arows := a.codes, live := a.live
    ascales := a.scales, plane := p, bs := bs, ta := ts.1, tb := ts.2 }

/-- The FORMAT checks of MMA in their order (spec/07 R194). -/
def State.mmaCheck (s : State) (a : OpA) (c : Acc) (tsw : Word) (bs sp : Bool) : Option Cause :=
  let p := s.me.mat.active
  let fmt := fun k => some (cFormat s.cl.pos k)
  if a.tag == 0 || p.tag == 0 || c.tag == 0 then fmt 0
  else if pairBad a.tag (a.blk != 0) p c.tag bs sp then fmt 9
  else if tensorBad tsw (pairClass a.tag p.tag == 2) then fmt 10
  else if a.rows != c.rows || p.rows != c.cols || a.k != p.k then fmt 8
  else none

/-! ### MMA (spec/07 R205, R206) -/

/-- A list of row validities as a mask. -/
def rowMask (l : List Bool) : BitVec 256 :=
  BitVec.ofNat 256 ((l.zipIdx).foldl (fun a x => if x.1 then a + 2 ^ x.2 else a) 0)

/-- One step of an MMA, and its end. -/
def State.mmaStep (s : State) (f : MmaF) (j : MatJob) (pop : List Eff) (fl : Word) : State :=
  let (p, s) := s.courseStart false
  let cs := coursesOf p.courses
  if cs.isEmpty then s.noCourseTrap f.e
  else
    let p := if p.step == 0 then { p with mask := rowMask j.live } else p
    let j := { j with live := (upTo j.rows).map fun r => p.mask.getLsbD r }
    let fixed := s.foldFixed
    let order := foldOrder j.nb j.q cs fixed
    let (p, s) := s.arrayStep j p cs order
    if p.step < j.steps then s.boundary p
    else match p.bad with
    | some x => s.residueTrap f.e x
    | none =>
        let c := s.vw.acc f.d
        let w := j.writeBack (wbit s.me.mat.mode 1) p.staged c.cols 0 0 c.vals s.rnd
        (s.setProg p).finish f.e (.done {
          effs := [.acc f.d { c with vals := w.vals }, .fold (foldReport order j.nb (foldPasses j.nb j.q cs) p.courses fixed p.mixed f.p)] ++ pop
          flags := p.flags ||| w.flags ||| fl, seed := w.rnd.out })

/-- MMA (spec/07 R203 to R206). -/
def execMma (f : MmaF) (s : State) : Out :=
  let x := s.srcX f.b
  let run := fun (a : OpA) (pop : List Eff) (fl : Word) =>
    match s.mmaCheck a (s.vw.acc f.d) x f.s f.p with
    | some c => s.finish f.e (.trap c)
    | none => s.mmaStep f (jobOf a s.me.mat.active f.s x) pop fl
  .next (match f.a with
    | .queue n => match s.popUnit n (s.poppedHere n) with
      | .error c => s.finish f.e (.trap c)
      | .ok none => s.finish f.e (.again noKey)
      | .ok (some u) => run (opUnit u) [.qpop n] u.flags
    | .reg n => let t := s.vw.tile n; run (opTile t.shape t.valid t.data) [] 0
    | .latch _ => s.finish f.e (.trap (cFormat s.cl.pos 0)))

/-! ### The loop nest (spec/07 R215 to R217, R220) -/

/-- MNEST (spec/07 R215). -/
def execMnest (f : MnestF) (s : State) : Out := .next (s.finish f.e (.done { effs := [.nest f.n (s.srcX f.a)] }))

/-- Fields of a nest level. -/
def lvCount (w : Word) : Nat := field w 9 0
def lvCr (w : Word) : Nat := if lvCount w == 0 then 0 else field w 17 10
def lvCc (w : Word) : Nat := if lvCount w == 0 then 0 else field w 25 18
def lvA (w : Word) : Int := if lvCount w == 0 then 0 else signed 19 (field w 44 26)
def lvB (w : Word) : Int := if lvCount w == 0 then 0 else signed 19 (field w 63 45)

/-- Times a level runs. -/
def lvRuns (w : Word) : Nat := max 1 (lvCount w)

/-- Iterations of a nest. -/
def nestRuns (t : List Word) : Nat := t.foldl (fun a w => a * lvRuns w) 1

/-- The index of each level in iteration `i`, level 0 innermost. -/
def nestIdx (t : List Word) (i : Nat) : List Nat :=
  (t.foldl (fun (st : Nat × List Nat) w => (st.1 / lvRuns w, st.2 ++ [st.1 % lvRuns w])) (i, [])).2

/-- A sum over the levels of index times stride. -/
def nestSum (t : List Word) (ix : List Nat) (f : Word → Int) : Int := (t.zip ix).foldl (fun a p => a + f p.1 * p.2) 0

/-- The least and the largest value of such a sum over all iterations. -/
def nestLo (t : List Word) (f : Word → Int) : Int := t.foldl (fun a w => a + min 0 (f w * ((lvRuns w : Int) - 1))) 0
def nestHi (t : List Word) (f : Word → Int) : Int := t.foldl (fun a w => a + max 0 (f w * ((lvRuns w : Int) - 1))) 0

/-- The shape word of B's image, from the active plane. -/
def Plane.shape (p : Plane) : Word :=
  word (p.rows + p.elems * tagBits p.tag / 8 * 2 ^ 9 + p.tag * 2 ^ 18 + p.sfmt * 2 ^ 23 + p.blk * 2 ^ 28)

/-- Bytes of B's image: with .sp its metadata follows. -/
def Plane.bytes (p : Plane) : Nat := tBytes p.shape + (if p.sparse then p.rows * ceilDiv p.elems 4 else 0)

/-- The base word of MGO. -/
def baseA (x : Word) : Nat := field x 23 0
def baseB (x : Word) : Nat := field x 47 24

/-- PROT of an image that leaves scratch in some iteration (spec/07 R217), with the offset of the lowest image if that lies below
scratch, else of the highest; A's image is judged before B's (DESIGN CHOICE, notes/assumptions/69.md). -/
def State.imageOut (s : State) (base : Nat) (lo hi : Int) (n : Nat) : Option Cause :=
  let l := (base : Int) + 64 * lo
  let h := (base : Int) + 64 * hi
  if l < 0 then some { code := 9, i0 := BitVec.ofInt 64 l }
  else if ((s.me.scrBytes : Nat) : Int) < h + n then some { code := 9, i0 := BitVec.ofInt 64 h }
  else none

/-- The checks of MGO in their order (spec/07 R194, R217). -/
def State.mgoCheck (s : State) (f : MgoF) (t : List Word) : Option Cause :=
  let a := s.vw.tile f.a
  let w := a.shape
  let p := s.me.mat.active
  let c := s.vw.acc f.d
  let x := s.vw.xreg f.b
  let tsw := s.vw.xreg (f.b + 1)
  let fmt := fun k => some (cFormat s.cl.pos k)
  let align := fun (b : Nat) => ({ code := 7, i0 := word b } : Cause)
  if tFmt w == 0 || p.tag == 0 || c.tag == 0 then fmt 0
  else if field x 63 48 != 0 then fmt 10
  else if baseA x % 64 != 0 then some (align (baseA x))
  else if baseB x % 64 != 0 then some (align (baseB x))
  else match s.imageOut (baseA x) (nestLo t lvA) (nestHi t lvA) (tBytes w) with
    | some e => some e
    | none => match s.imageOut (baseB x) (nestLo t lvB) (nestHi t lvB) p.bytes with
      | some e => some e
      | none =>
        if (c.rows : Int) < nestHi t (fun w => lvCr w) + tRows w || (c.cols : Int) < nestHi t (fun w => lvCc w) + p.rows
            || tElems w != p.k then fmt 8
        else if pairBad (tFmt w) (tBlk w != 0) p c.tag f.s f.p then fmt 9
        else if tensorBad tsw (pairClass (tFmt w) p.tag == 2) then fmt 10
        else none

/-- The unit of `n` bytes of the core's scratch at an offset, as a tile unit. -/
def State.scrUnit (s : State) (off n : Nat) : Mem :=
  Mem.writeCells [] (cellsAt 0 ((upTo n).map fun i => s.look s.agent (scratchKey s.cur.core (off + i))))

/-- The plane of the B image at an offset. -/
def State.loadB (s : State) (p : Plane) (off : Nat) : Plane :=
  let m := s.scrUnit off p.bytes
  planeOf p.shape m p.sparse (if p.sparse then nibRows m (tBytes p.shape) (ceilDiv p.elems 4) p.rows (p.elems / 2) else [])

/-- One step of an MGO, and the ends of its iterations and of the nest (spec/07 R216). -/
def State.mgoStep (s : State) (f : MgoF) (t : List Word) : State :=
  let (p, s) := s.courseStart (s.prog.step == 0)
  let cs := coursesOf p.courses
  if cs.isEmpty then s.noCourseTrap f.e
  else
    let a := s.vw.tile f.a
    let c := s.vw.acc f.d
    let p := if p.iter == 0 && p.step == 0 then { p with words := [s.vw.xreg f.b, s.vw.xreg (f.b + 1)] } else p
    let x := p.words.getD 0 0
    let ix := nestIdx t p.iter
    let aoff := (baseA x : Int) + 64 * nestSum t ix lvA
    let boff := (baseB x : Int) + 64 * nestSum t ix lvB
    let p := if p.iter == 0 && p.step == 0 then { p with accs := c.vals, seed := s.rnd.seed, mask := a.valid } else p
    let loads := p.step == 0 && (p.iter == 0 || p.boff != boff)
    match (match s.scratchFlaw aoff.toNat (tBytes a.shape) with
        | some c => some c
        | none => if loads then s.scratchFlaw boff.toNat s.me.mat.active.bytes else none) with
    | some e => s.finish f.e (.trap e)
    | none =>
    let p := if loads then { p with boff := boff, work := s.loadB s.me.mat.active boff.toNat } else p
    let j := jobOf (opTile a.shape p.mask (s.scrUnit aoff.toNat (tBytes a.shape))) p.work f.s (p.words.getD 1 0)
    let fixed := s.foldFixed
    let order := foldOrder j.nb j.q cs fixed
    let (p, s) := s.arrayStep j p cs order
    if p.step < j.steps then s.boundary p
    else match p.bad with
    | some x => s.residueTrap f.e x
    | none =>
        let row := (nestSum t ix fun w => lvCr w).toNat
        let col := (nestSum t ix fun w => lvCc w).toNat
        let w := j.writeBack (wbit s.me.mat.mode 1) p.staged c.cols row col p.accs { s.rnd with seed := p.seed }
        let p := { p with step := 0, iter := p.iter + 1, staged := [], flags := p.flags ||| w.flags, seed := w.rnd.seed, accs := w.vals }
        if p.iter < nestRuns t then s.boundary p
        else (s.setProg p).finish f.e (.done {
          effs := [.nestGo, .acc f.d { c with vals := p.accs },
                   .fold (foldReport order j.nb (foldPasses j.nb j.q cs) p.courses fixed p.mixed f.p)]
          flags := p.flags, seed := w.rnd.out })

/-- MGO (spec/07 R216, R217): its checks are made once, before its first step. -/
def execMgo (f : MgoF) (s : State) : Out :=
  let t := s.me.mat.nestShadow.toList
  .next (match if s.prog.active then none else s.mgoCheck f t with
    | some c => s.finish f.e (.trap c)
    | none => s.mgoStep f t)

/-! ### Reports and modes (spec/07 R210, R214, R219) -/

/-- MRPT (spec/07 R210). -/
def execMrpt (f : MrptF) (s : State) : Out := .next (s.finish f.e (.done (toX f.d f.w (vget s.me.mat.fold f.b 0))))

/-- MMODE (spec/07 R219): while record mode is on FIXED reads 1, and a write of 0 to it is ignored. -/
def execMmode (f : R1) (s : State) : Out :=
  let x := s.srcX f.a
  let old := s.me.mat.mode
  let rec_ := s.xi.recMode == 1
  let r := toX f.d f.w (if rec_ then old ||| 1 else old)
  let new := (x &&& 3) ||| (if rec_ then old &&& 1 else 0)
  .next (s.finish f.e (.done { r with effs := r.effs ++ [.mmode new] }))

/-- MTEST (spec/07 R214). -/
def execMtest (f : DstF) (s : State) : Out :=
  let m := s.me.mat
  let all_ := (upTo 4).foldl (fun a c => if bit m.failing c || bit m.fenced c then a + 2 ^ c else a) 0
  let r := toX f.d f.w (word (m.failing % 16 + all_ * 16 + m.heat % 16 * 256))
  .next (s.finish f.e (.done { r with effs := r.effs ++ [.fence4 (m.failing % 16)] }))

/-! ### Accumulator epilogues (spec/07 R218) -/

/-- A fold over codes with a rounding context. -/
def Wrote.map (w : Wrote) (draws : Bool) (fn : RMode → Bool → Nat → Nat → Nat × Word) (l : List (Nat × Nat)) : Wrote :=
  let go := l.foldl (fun (w : Wrote) x =>
    let (m, rnd) := if draws then w.rnd.next else (fixedMode w.rnd.mode, w.rnd)
    let q := fn m w.rnd.ftz x.1 x.2
    { vals := q.1 :: w.vals, flags := w.flags ||| q.2, rnd := rnd }) w
  { go with vals := go.vals.reverse }

/-- One FP32 element into a float tile tag (spec/02 R52), after max with +0 where `relu` says so. -/
def cvtAcc (relu : Bool) (t : Nat) (m : RMode) (ftz : Bool) (code : Nat) : Nat × Word :=
  let v := fmtFP32.decode code
  let x := if relu && !v.isNan && (v.neg || v.isZero) then Val.zero false else v
  let q := (tagFmt t).round m ftz x
  (q.1, q.2 ||| fIf v.isSig fINV)

/-- MACC.cvt and MACC.relu. -/
def State.maccTile (s : State) (f : MaccF) (relu : Bool) : Out :=
  let t := s.vw.tile f.d
  let w := t.shape
  let c := s.vw.acc f.a
  let bad := fun k => Got.trap (cFormat s.cl.pos k)
  .next (s.finish f.e (
    if c.tag == 0 then bad 0
    else if tRows w != c.rows || tElems w != c.cols || tBlk w != 0 then bad 8
    else if isIntTag (tFmt w) != (c.tag == 4) then bad 9
    else
      let int := c.tag == 4
      let o := ({ rnd := s.rnd } : Wrote).map (!int) (fun m ftz x _ =>
        if int then satInt (tagBits (tFmt w)) (if relu then max 0 (signed 32 x) else signed 32 x)
        else cvtAcc relu (tFmt w) m ftz x) (c.vals.map fun x => (x, 0))
      let data := (o.vals.zipIdx).foldl (fun m x => tPut w m (x.2 / c.cols) (x.2 % c.cols) x.1) t.data
      .done { effs := [.tile f.d { t with data := data, valid := firstRows c.rows }], flags := o.flags
              seed := if int then none else o.rnd.out }))

/-- MACC.cvt (spec/07 R218). -/
def execMaccCvt (f : MaccF) (s : State) : Out := s.maccTile f false

/-- MACC.relu (spec/07 R218). -/
def execMaccRelu (f : MaccF) (s : State) : Out := s.maccTile f true

/-- MACC.add (spec/07 R218, R211). -/
def execMaccAdd (f : MaccF) (s : State) : Out :=
  let c := s.vw.acc f.d
  let a := s.vw.acc f.a
  let bad := fun k => Got.trap (cFormat s.cl.pos k)
  .next (s.finish f.e (
    if c.tag == 0 || a.tag == 0 then bad 0
    else if c.rows != a.rows || c.cols != a.cols then bad 8
    else if c.tag != a.tag then bad 9
    else
      let int := c.tag == 4
      let o := ({ rnd := s.rnd } : Wrote).map (!int) (fun m ftz x y =>
        if int then
          (if wbit s.me.mat.mode 1 then satInt 32 (signed 32 x + signed 32 y) else (toCode 32 (signed 32 x + signed 32 y), 0))
        else
          let v := (fmtFP32.decode x).add (m == .down) (fmtFP32.decode y)
          let q := fmtFP32.round m ftz v.1
          (q.1, q.2 ||| v.2)) (c.vals.zip a.vals)
      .done { effs := [.acc f.d { c with vals := o.vals }], flags := o.flags, seed := if int then none else o.rnd.out }))

/-- MACC.scl (spec/07 R218). -/
def execMaccScl (f : SlotSrc) (s : State) : Out :=
  let c := s.vw.acc f.d
  let a := s.vw.acc f.a
  let k := s.srcX f.b
  let bad := fun k => Got.trap (cFormat s.cl.pos k)
  .next (s.finish f.e (
    if a.tag == 0 then bad 0
    else if c.rows != a.rows || c.cols != a.cols then bad 8
    else if c.tag != 10 || a.tag != 10 then bad 9
    else if field k 63 32 != 0 then bad 10
    else
      let o := ({ rnd := s.rnd } : Wrote).map true (fun m ftz x _ =>
        let v := (fmtFP32.decode x).mul (fmtFP32.decode k.toNat)
        let q := fmtFP32.round m ftz v.1
        (q.1, q.2 ||| v.2)) (a.vals.map fun x => (x, 0))
      .done { effs := [.acc f.d { c with vals := o.vals }], flags := o.flags, seed := o.rnd.out }))

/-- A tile element widened into an accumulator; a NaN is canonical (spec/02 R45). -/
def widen (t code : Nat) : Nat × Word :=
  if isIntTag t then (toCode 32 (signed (tagBits t) code), 0)
  else
    let v := tagVal t code
    ((fmtFP32.round .nearest false v).1, fIf v.isSig fINV)

/-- MACC.ld (spec/07 R218). -/
def execMaccLd (f : MaccF) (s : State) : Out :=
  let c := s.vw.acc f.d
  let t := s.vw.tile f.a
  let w := t.shape
  let bad := fun k => Got.trap (cFormat s.cl.pos k)
  .next (s.finish f.e (
    if tFmt w == 0 then bad 0
    else if tRows w != c.rows || tElems w != c.cols then bad 8
    else if isIntTag (tFmt w) != (c.tag == 4) then bad 9
    else
      let qs := ((upTo c.rows).flatMap fun r => tRow w t.data r).map (widen (tFmt w))
      .done { effs := [.acc f.d { c with vals := qs.map (·.1) }], flags := qs.foldl (fun a q => a ||| q.2) 0 }))

end Sys2Proof.Machine
end

