-- ==== Sys2Proof/Machine/StreamEvents.lean ====
section
/-! DEFINITION. What happens to a core outside its clauses: waits that end, stream-register fetches, copies, background
reads, self-tests, asynchronous traps and decode faults.  Each event acts on the core of its input where it applies,
and changes nothing elsewhere. -/

namespace Sys2Proof.Machine

/-- WFE_TIMEOUT (spec/08 R235): the stall of the core's WFE at clause position `ident` ends. -/
def execWfeTimeout (s : State) : Out := .next { s with watch := Tab.erase s.watch (4 * s.cur.core + s.inp.ident % 4) }

/-- STREAM_FETCH (spec/05 R138 to R141): the next unit of stream register `ident`; a failure is kept for the clause that
pops the unit. -/
def execStreamFetch (s : State) : Out :=
  let c := s.me
  let n := s.inp.ident
  let q := c.qreg n
  let u := q.popped + q.units.length
  let add := fun (x : QUnit) => s.onMe fun c => c.setQ n { q with units := q.units ++ [x] }
  .next (if !c.running || !q.bound || q.total ≤ u || q.units.any fun x => x.fault.isSome then s
    else match s.fetchUnit { s.who s.cur.core with super := q.sup, agent := fetchAgent s.cur.core n } q u with
      | .error (.busy k) => s.want k
      | .error (.cause e) => add { fault := some e }
      | .ok x => add x)

/-- TRANSFER_COMPLETE (spec/05 R145, R148): transfer `ident` of channel `chan` makes `value` of its steps, or all that
remain, and completes after its last; one that fails suspends its channel. -/
def execTransferComplete (s : State) : Out :=
  let c := s.cur.core
  let h := s.me.chan s.inp.chan
  .next (if !s.me.running || h.behind s.inp.ident then s
    else match h.queue.find? fun t => t.ident == s.inp.ident with
      | none => s
      | some t =>
        let n := if s.inp.value == 0 then t.steps - t.prog + 1 else s.inp.value
        match s.drive c s.inp.chan s.inp.ident n with
        | .moved s => s
        | .failed s e => s.suspendChan c s.inp.chan s.inp.ident e)

/-- COPY_FAULT (spec/05 R148): the next step of transfer `ident` fails, and its channel suspends. -/
def execCopyFault (s : State) : Out :=
  let h := s.me.chan s.inp.chan
  .next (if !s.me.running || h.behind s.inp.ident then s
    else match h.queue.find? fun t => t.ident == s.inp.ident with
      | none => s
      | some t => match s.copyStep s.cur.core t with
        | .error (.cause e) => if let some k := s.copiesOwned s.cur.core then s.want k else s.suspendChan s.cur.core s.inp.chan t.ident (copyCause e s.inp.chan t.ident)
        | _ => s)

/-- MLDS_READ_DONE (spec/07 R199): the oldest pending read fills the shadow plane; an element that a write by the A stream races
for is captured with either value. -/
def execMldsReadDone (s : State) : Out :=
  .next (match s.me.mat.pending with
    | [] => s
    | (tb, tm) :: r =>
      let s := s.onMe fun c => { c with mat := { c.mat with shadow := { c with regs := c.regsFor .m s.free }.capture tb tm, pending := r } }
      { s with flaws := s.flaws.filter fun f => f != { core := s.cur.core, store := .plane 1 } })

/-- Wrong values as an event supplies them, six numbers each: kind, row, column, block, product, and the amount, doubled, with one
added where it is negative. -/
def glitchesOf (l : List Nat) : List Glitch :=
  (chunks 6 l.length l).map fun x =>
    let d := x.getD 5 0
    { kind := x.getD 0 0, row := x.getD 1 0, col := x.getD 2 0, block := x.getD 3 0, prod := x.getD 4 0
      delta := if d % 2 == 1 then -((d / 2 : Nat) : Int) else ((d / 2 : Nat) : Int) }

/-- COURSE_SELF_TEST (spec/07 R213): course `ident` is tested while the M stream is between instructions.  `value` and
`nums` are what the hardware has become: the courses that fail the known pattern, and the wrong values to come.  A tested course
that fails is fenced. -/
def execCourseSelfTest (s : State) : Out :=
  let s := s.onMe fun c => { c with mat := { c.mat with failing := s.inp.value % 16, glitch := glitchesOf s.inp.nums } }
  let busy := s.me.running && (s.me.sm.clause.live || s.me.sm.prog.active)
  .next (if s.inp.ident < 4 && bit s.me.mat.failing s.inp.ident && !busy then s.fenceCourses s.cur.core (2 ^ s.inp.ident) else s)

/-- Counts of the token FIFOs, four bits each (spec/08 R226). -/
def nibbles (v : Vector Nat 12) : Word := word (v.toList.foldr (fun n a => n % 16 + 16 * a) 0)

/-- TOKEN (spec/01 R21; spec/08 R226): raised where all four streams stall on tokens. -/
def execToken (s : State) : Out :=
  let c := s.me
  .next (if c.running && c.ss.tokenStall && c.sa.tokenStall && c.sv.tokenStall && c.sm.tokenStall then
      s.onMe fun c => c.pend { code := 16, i0 := nibbles c.tok.count, i1 := nibbles c.tok.held }
    else s)

/-- NPR_OVERRUN (spec/08 R243): an open region at user level closes, and the cause is pending. -/
def execNprOverrun (s : State) : Out :=
  let c := s.me
  .next (if c.running && c.np && !c.trap.super then
      s.onMe fun c => { c with np := false, npCycles := 0 }.pend { code := 17, i0 := c.npPc }
    else s)

/-- HANDLER_LIMIT_EXPIRY (spec/08 R225): a double fault with cause NPR_OVERRUN. -/
def execHandlerLimitExpiry (s : State) : Out :=
  .next (if s.me.running && s.me.trap.super then s.doubleFault s.cur.core 17 else s)

/-- TRAP_ENTRY (spec/08 R222, R224): the pending asynchronous cause of lowest code is taken. -/
def execTrapEntry (s : State) : Out := .next ((s.takeAsync s.cur.core).keep false)

/-- SRB_EVICTION (spec/10 R288): sector `code` drops the line that holds the byte of key `addr`. -/
def execSrbEviction (s : State) : Out := .next (s.dropLines s.inp.code fun k => k == s.inp.addr / 256 * 256)

/-- Raise the decode or fetch fault that the clause was issued with. -/
def State.raiseBad (s : State) : State :=
  match s.cl.bad with
  | some (pos, c) => s.faultAt pos c
  | none => s.fault (cIllegal 0)

/-- UNASSIGNED_STREAM_WORD (spec/03 R67): ILLEGAL at decode. -/
def execUnassignedStreamWord (s : State) : Out := .next s.raiseBad

/-- INSTRUCTION_FETCH_FAULT (spec/03 R74): the cause of the fetch, at the clause. -/
def execInstructionFetchFault (s : State) : Out := .next s.raiseBad

end Sys2Proof.Machine
end

