-- ==== Sys2Proof/Machine/Image.lean ====
section
/-! DEFINITION. The save-slot format (spec/15 R398, R400): the bytes of a core's state, and a core back from them.  The order of the
fields within an area is the model's (notes/assumptions/18.md); the areas from 0xC000 to 0x1FFFFF are the core's own. -/

namespace Sys2Proof.Machine

/-! ### Words of the areas -/

/-- Byte `i` of a number. -/
def byteAt (v i : Nat) : Byte := BitVec.ofNat 8 (v / 256 ^ i)

/-- The loops of a stream: lc0 to lc2, start and end offset of each, and depth with the indices, innermost first. -/
def Core.loopWords (c : Core) (k : Strm) : List Nat :=
  let l := (c.strm k).loops
  let off := fun (w : Word) => (w - c.cont.base).toNat % 2 ^ 32
  let one := fun (n : Nat) (f : LoopSt → Nat) => ((l.find? fun x => x.n == n).map f).getD 0
  (upTo 3).map (fun n => one n (·.count)) ++ (upTo 3).map (fun n => one n fun x => off x.start + 2 ^ 32 * off x.stop)
    ++ [l.length + (l.zipIdx.map fun x => x.1.n * 4 ^ (4 + x.2)).foldl (· + ·) 0]

/-- Bits of a list, the first the lowest. -/
def bitsOf (l : List Bool) : Nat := l.foldr (fun b a => b2n b + 2 * a) 0

/-- The words from 0x40: registers, FLAGS and RMODE of each stream, tokens, loops, the saved registers of spec/08 R232 that are not
among them, MMODE, FOLDREP, the valid mask of the descriptors, STG and the released schedule entries, ASID and CTXBASE (spec/01 R36). -/
def Core.regWords (c : Core) : List Nat :=
  let all := [Strm.s, .a, .v, .m]
  let t := c.trap
  (upTo 32).map (fun i => (c.sreg i).toNat) ++ (upTo 32).map (fun i => (c.areg i).toNat) ++ (upTo 8).map (fun i => (c.xreg i).toNat)
    ++ all.flatMap (fun k => [(c.strm k).flags.toNat, (c.strm k).ctl.toNat, (c.strm k).seed.toNat])
    ++ [(nibbles c.tok.count).toNat, (nibbles c.tok.held).toNat] ++ all.flatMap c.loopWords
    ++ [c.part.toNat, c.rcap] ++ (upTo 8).map (fun i => (c.chan i).cdone) ++ [t.cause.toNat, t.src.toNat]
    ++ (t.pcs.toList ++ t.info.toList ++ t.kscr.toList ++ [t.waddr, t.wctl]).map (·.toNat)
    ++ [c.mat.mode.toNat] ++ c.mat.fold.toList.map (·.toNat)
    ++ [bitsOf (c.regs.d.toList.map (·.isSome)), c.copy.stg, bitsOf ((upTo 64).map c.copy.released.contains), c.cont.asid, c.ctxBase.toNat]

/-- The header of a register's runs (spec/06 R187). -/
def VReg.header (r : VReg) : Nat := r.len + r.n * 2 ^ 16 + r.tag * 2 ^ 32

/-- A list of bytes as words. -/
def packTags (l : List Nat) : Nat := l.foldr (fun x a => x + 256 * a) 0

/-- The words from 0x3000: tile shapes and masks, accumulator shapes, tags, run headers, both loop-nest copies, MGO base words. -/
def Core.shapeWords (c : Core) : List Nat :=
  c.regs.t.toList.map (fun t => t.shape.toNat) ++ c.regs.t.toList.flatMap (fun t => (upTo 4).map (word64 t.valid.toNat))
    ++ c.regs.c.toList.map (fun x => x.rows + x.cols * 2 ^ 32)
    ++ (let tags := packTags (c.regs.t.toList.map (fun t => tFmt t.shape) ++ c.regs.c.toList.map (·.tag))
        (upTo 3).map (word64 tags))
    ++ (c.regs.v.toList ++ c.regs.m.toList).map VReg.header
    ++ (c.mat.nestShadow.toList ++ c.mat.nestActive.toList).map (·.toNat) ++ c.sm.prog.words.map (·.toNat)

/-- The words of a transfer: among them the source sector it has read, with its 32 bytes. -/
def Transfer.slotWords (t : Transfer) : List Nat :=
  let line := t.line.getD (0, [])
  (upTo 8).map (word64 t.src.toNat) ++ (upTo 8).map (word64 t.dst.toNat)
    ++ [t.ctl.toNat, t.ident, t.prog, 1 + b2n t.tile.isSome * 2 + t.tile.getD 0 * 16 + b2n t.crc * 2 ^ 8 + b2n t.check * 2 ^ 9 + b2n t.sup * 2 ^ 10
      + b2n t.line.isSome * 2 ^ 11, line.1 % 2 ^ 64, line.1 / 2 ^ 64] ++ (upTo 4).map (word64 (ofBytes line.2))

/-- The 512 words of a channel: sixteen transfers, and in the first one's place, from word 26, what the channel holds besides: its
next identifier and the fault that suspends it. -/
def Channel.slotWords (h : Channel) : List Nat :=
  let x := h.susp.getD {}
  (upTo 512).map fun i =>
    if i / 32 == 0 && 26 ≤ i then
      [h.next, b2n h.susp.isSome + x.code * 2 ^ 8, x.i0.toNat, x.i1.toNat,
        x.i2.toNat, x.i3.toNat].getD (i - 26) 0
    else ((h.queue[i / 32]?).map fun t => t.slotWords.getD (i % 32) 0).getD 0

/-- The words of a stream register: binding image, descriptor image, units popped, and whether it is bound and at which level. -/
def QReg.slotWords (q : QReg) : List Nat :=
  if !q.bound then []
  else (upTo 8).map (word64 q.bind.toNat) ++ (upTo 8).map (word64 q.desc.toNat) ++ [q.popped, 1 + 2 * b2n q.sup]

/-- Run words of the run pool in the order v0 to v31, m0 to m7 (spec/05 R140). -/
def Core.poolWords (c : Core) : List Nat :=
  (c.regs.v.toList ++ c.regs.m.toList).flatMap fun r => r.runs.map fun x => x.val % 2 ^ 32 + x.cnt * 2 ^ 32

/-- Offset of the accumulator region and of scratch in the pool (spec/01 R33). -/
def Core.accOff (c : Core) : Nat := field c.part 6 0 * 65536
def Core.scrOff (c : Core) : Nat := c.accOff + c.accBytes

/-- Byte `o` of the pool image: tile units, run pool, accumulators, scratch. -/
def Core.poolByte (c : Core) (scr : Mem) (o : Nat) : Byte :=
  if o < 2 ^ 20 then Mem.read (c.tile (o / 65536)).data (o % 65536)
  else if o < c.accOff then byteAt (c.poolWords.getD ((o - 2 ^ 20) / 8) 0) (o % 8)
  else if o < c.scrOff then byteAt ((c.regs.c.toList.flatMap fun x => x.vals).getD ((o - c.accOff) / 4) 0) (o % 4)
  else Mem.read scr (o - c.scrOff)

/-- Byte `o` of the slot after its header: zero where the format assigns nothing. -/
def slotByte (x : Saved) (o : Nat) : Byte :=
  let c := x.core
  let at_ := fun (l : List Nat) (o : Nat) => byteAt (l.getD (o / 8) 0) (o % 8)
  if o < 0x1000 then at_ c.regWords (o - 0x40)
  else if o < 0x2000 then byteAt (Tab.get c.dict ((o - 0x1000) / 4) 0) (o % 4)
  else if o < 0x2400 then byteAt ((c.slot ((o - 0x2000) / 64)).getD 0).toNat (o % 64)
  else if o < 0x3000 then at_ (c.qreg ((o - 0x2400) / 192)).slotWords ((o - 0x2400) % 192)
  else if o < 0x4000 then at_ c.shapeWords (o - 0x3000)
  else if o < 0xC000 then at_ (c.chan ((o - 0x4000) / 4096)).slotWords (o % 4096)
  else if o < 0x200000 then Config.slotPrivate c o
  else c.poolByte x.scr (o - 0x200000)

/-- The bytes of a slot from 0x40 on. -/
def slotBody (x : Saved) : List Byte := (upTo (2 ^ 23 - 64)).map fun i => slotByte x (i + 64)

/-- The slot header (spec/15 R400). -/
def slotHeader (asid lrec node core wid tick crc part : Nat) : List Byte :=
  bytesOf 8 (1 + asid * 2 ^ 16 + lrec * 2 ^ 26 + node * 2 ^ 38 + core * 2 ^ 50) ++ bytesOf 8 wid ++ bytesOf 8 tick ++ bytesOf 8 crc
    ++ bytesOf 8 part ++ bytesOf 24 0

/-! ### A core back from a slot (spec/01 R18, R29) -/

/-- `n` bytes at offset `o` of a slot, and a number there. -/
def slotPart (bs : List Byte) (o n : Nat) : List Byte := (bs.drop o).take n
def slotNum (bs : List Byte) (o n : Nat) : Nat := ofBytes (slotPart bs o n)

/-- Word `i` of the areas at 0x40 and 0x3000. -/
def slotReg (bs : List Byte) (i : Nat) : Nat := slotNum bs (0x40 + 8 * i) 8
def slotShape (bs : List Byte) (i : Nat) : Nat := slotNum bs (0x3000 + 8 * i) 8

/-- Run header of register `n` (0 to 31 v, 32 to 39 m), and where its runs begin in the run pool. -/
def slotRuns (bs : List Byte) (n : Nat) : Nat := bits (slotShape bs (91 + n)) 31 16
def slotVReg (bs : List Byte) (n : Nat) : VReg :=
  let first := ((upTo n).map (slotRuns bs)).foldl (· + ·) 0
  { tag := bits (slotShape bs (91 + n)) 36 32
    runs := (upTo (slotRuns bs n)).map fun i =>
      let w := slotNum bs (0x200000 + 2 ^ 20 + 8 * (first + i)) 8
      { val := w % 2 ^ 32, cnt := bits w 47 32 } }

/-- Accumulator `n`, whose region begins at offset `o` of the slot. -/
def slotAcc (bs : List Byte) (o n : Nat) : Acc :=
  let size := fun (i : Nat) => let w := slotShape bs (80 + i); w % 2 ^ 32 * (w / 2 ^ 32)
  let first := ((upTo n).map size).foldl (· + ·) 0
  { tag := slotNum bs (0x3000 + 8 * 88 + 16 + n) 1, rows := slotShape bs (80 + n) % 2 ^ 32, cols := slotShape bs (80 + n) / 2 ^ 32
    vals := (upTo (size n)).map fun i => slotNum bs (o + 4 * (first + i)) 4 }

/-- Tile `n`. -/
def slotTile (bs : List Byte) (n : Nat) : Tile :=
  { shape := word (slotShape bs n), valid := BitVec.ofNat 256 (slotNum bs (0x3000 + 8 * (16 + 4 * n)) 32)
    data := Mem.writeCells [] (cellsAt 0 (slotPart bs (0x200000 + 65536 * n) 65536)) }

/-- Transfer `j` of channel `n`, if it is there. -/
def slotTransfer (bs : List Byte) (n j : Nat) : Option Transfer :=
  let o := 0x4000 + 4096 * n + 256 * j
  let fl := slotNum bs (o + 152) 8
  if !bit fl 0 then none
  else some { ident := slotNum bs (o + 136) 8, src := BitVec.ofNat 512 (slotNum bs o 64), dst := BitVec.ofNat 512 (slotNum bs (o + 64) 64)
              tile := if bit fl 1 then some (bits fl 7 4) else none, ctl := word (slotNum bs (o + 128) 8)
              chan := n, crc := bit fl 8, check := bit fl 9, sup := bit fl 10, prog := slotNum bs (o + 144) 8
              line := if bit fl 11 then some (slotNum bs (o + 160) 16, slotPart bs (o + 176) 32) else none }

/-- Channel `n`: the identifiers it has issued that are beyond CDONE and no longer queued have completed. -/
def slotChan (bs : List Byte) (n : Nat) : Channel :=
  let o := 0x4000 + 4096 * n + 208
  let w := fun (i : Nat) => slotNum bs (o + 8 * i) 8
  let cd := slotReg bs (116 + n)
  let queue := (upTo 16).filterMap (slotTransfer bs n)
  { next := w 0, cdone := cd, done := ((upTo (w 0 - cd - 1)).map (cd + 1 + ·)).filter fun i => !(queue.any fun t => t.ident == i)
    queue := queue
    susp := if bit (w 1) 0 then some { code := bits (w 1) 15 8, i0 := word (w 2), i1 := word (w 3), i2 := word (w 4), i3 := word (w 5) } else none }

/-- Stream register `n`. -/
def slotQ (bs : List Byte) (n : Nat) : QReg :=
  let o := 0x2400 + 192 * n
  if !bit (slotNum bs (o + 136) 8) 0 then {}
  else { bound := true, bind := BitVec.ofNat 512 (slotNum bs o 64), desc := BitVec.ofNat 512 (slotNum bs (o + 64) 64)
         popped := slotNum bs (o + 128) 8, sup := bit (slotNum bs (o + 136) 8) 1 }

/-- The loops of stream `k` in a kernel at `base`. -/
def slotLoops (bs : List Byte) (k : Strm) (base : Word) : List LoopSt :=
  let w := fun (i : Nat) => slotReg bs (86 + 7 * k.idx + i)
  (upTo (w 6 % 16)).map fun i =>
    let n := bits (w 6) (9 + 2 * i) (8 + 2 * i)
    { n := n, count := w n, start := base + word (w (3 + n) % 2 ^ 32), stop := base + word (w (3 + n) / 2 ^ 32) }

/-- Stream `k` of a restored core, `own` holding the progress that the core's own encoding keeps. -/
def slotStrm (bs : List Byte) (own : Core) (k : Strm) (base pc : Word) : StreamSt :=
  let w := fun (i : Nat) => word (slotReg bs (72 + 3 * k.idx + i))
  { pc := pc, flags := w 0, ctl := w 1, seed := w 2, loops := slotLoops bs k base, prog := (own.strm k).prog
    held := (upTo 12).flatMap fun f => if fifoTo f == k.idx then List.replicate (slotReg bs 85 / 16 ^ f % 16) f else [] }

/-- Whether a slot holds a format tag that is never produced (spec/01 R29). -/
def slotTagsBad (bs : List Byte) : Bool :=
  (upTo 16).any (fun i => 14 ≤ tFmt (word (slotShape bs i))) || (upTo 24).any (fun i => 14 ≤ slotNum bs (0x3000 + 8 * 88 + i) 1)
    || (upTo 40).any fun i => 14 ≤ bits (slotShape bs (91 + i)) 36 32

/-- A core from a slot's bytes, `own` holding what the core's own encoding keeps. -/
def slotCore (bs : List Byte) (own : Core) (cont : Cont) (pcs : Strm → Word) : Core :=
  let g := slotReg bs
  let vec := fun (n i : Nat) => (Vector.ofFn fun j => word (g (i + j.val)) : Vector Word n)
  let strm := fun (k : Strm) => slotStrm bs own k cont.base (pcs k)
  let z := { Core.init with part := word (g 114) }
  { z with
    cont := cont
    regs := {
      s := vec 32 0, a := vec 32 32, x := vec 8 64
      v := Vector.ofFn fun i => slotVReg bs i.val, m := Vector.ofFn fun i => slotVReg bs (32 + i.val)
      t := Vector.ofFn fun i => slotTile bs i.val, c := Vector.ofFn fun i => slotAcc bs (0x200000 + z.accOff) i.val
      d := Vector.ofFn fun i => if bit (g 150) i.val then some (BitVec.ofNat 512 (slotNum bs (0x2000 + 64 * i.val) 64)) else none
      q := Vector.ofFn fun i => slotQ bs i.val }
    ss := strm .s, sa := strm .a, sv := strm .v, sm := strm .m
    tok := { z.tok with count := Vector.ofFn fun i => g 84 / 16 ^ i.val % 16, held := Vector.ofFn fun i => g 85 / 16 ^ i.val % 16 }
    trap := { z.trap with
      cause := word (g 124), src := word (g 125), pcs := vec 4 126, info := vec 4 130, kscr := vec 4 134, waddr := word (g 138)
      wctl := word (g 139), oneshot := own.trap.oneshot }
    mat := { own.mat with
      nestShadow := Vector.ofFn fun i => word (slotShape bs (131 + i.val)), nestActive := Vector.ofFn fun i => word (slotShape bs (137 + i.val))
      fold := vec 9 141, mode := word (g 140) }
    copy := { z.copy with ch := Vector.ofFn fun i => slotChan bs i.val, stg := g 151, released := (upTo 64).filter (bit (g 152)) }
    rcap := g 115, ctxBase := word (g 154)
    dict := ((upTo 1024).map fun i => (i, slotNum bs (0x1000 + 4 * i) 4)).filter fun e => e.2 != 0 }

/-- The scratch of a slot by offset, under the partition it holds. -/
def slotScratch (bs : List Byte) (c : Core) : Mem := Mem.writeCells [] (cellsAt 0 (slotPart bs (0x200000 + c.scrOff) c.scrBytes))

end Sys2Proof.Machine
end

