-- ==== Sys2Proof/Machine/Slot.lean ====
section
/-! DEFINITION. Save slots (spec/15 R398 to R401): reading and writing them, saving, evacuating and restoring a continuation
(spec/01 R18; spec/13 R361). -/

namespace Sys2Proof.Machine

/-! ### The slot in memory (spec/15 R398, R401) -/

/-- Keys of the 256-byte blocks of a slot from `va`, or the cause of the access that fails. -/
def State.slotBlocks (s : State) (asid va : Nat) (k : Kind) : Nat → Except Nat (List Nat)
  | 0 => .ok []
  | n + 1 =>
    match s.xlate (kWho asid) va k with
    | .error c => .error c.code
    | .ok l =>
      if (if k == .read then s.readBad l 256 else s.refuses l.asid l.key) then .error 13
      else match State.slotBlocks s asid (va + 256) k n with
        | .error c => .error c
        | .ok r => .ok (l.key :: r)

/-- Address of save slot `k` of a context (spec/15 R398). -/
def State.slotAddr (s : State) (asid k : Nat) : Nat := s.ctxWord asid 0x30 + 2 ^ 23 * k

/-- Write a whole slot: the state after, or the cause. -/
def State.slotWrite (s : State) (asid k : Nat) (bs : List Byte) : Except Nat State :=
  match s.slotBlocks asid (s.slotAddr asid k) .write 32768 with
  | .error c => .error c
  | .ok keys => .ok (s.sysStore { asid := asid, va := s.slotAddr asid k } ((keys.zip (chunks 256 (2 ^ 23) bs)).flatMap fun x => cellsAt x.1 x.2))

/-- The header and the body of a slot as memory holds them, or the cause. -/
def State.slotRead (s : State) (asid k : Nat) : Except Nat (List Byte) :=
  match s.slotBlocks asid (s.slotAddr asid k) .read 32768 with
  | .error c => .error c
  | .ok keys => .ok (keys.flatMap fun a => Mem.bytes (s.sysMem keys) a 256)

/-- Whether a slot's bytes are those of the record's continuation and whole (spec/15 R401): the saving core is the record's LASTCORE. -/
def slotGood (bs : List Byte) (asid : Nat) (r : ContRec) : Bool :=
  let h := ofBytes (bs.take 64)
  bits h 15 0 == 1 && bits h 25 16 == asid && bits h 37 26 == r.lrec && bits h 49 38 == r.node && bits h 57 50 == r.lastCore
    && bits h 127 64 == r.wid
    && bits h 255 192 == (crc64 (bs.drop 64)).toNat

/-! ### Saving (spec/13 R361; spec/15 R398) -/

/-- The scratch of a core by offset. -/
def State.scratchOf (s : State) (c : Nat) : Mem :=
  (s.mem.filter fun x => scratchKey c 0 ≤ x.1 && x.1 < scratchKey c (2 ^ 23)).map fun x => (x.1 - scratchKey c 0, x.2)

/-- A stream as a save keeps it: at its restart point, without its loop buffer. -/
def StreamSt.kept (t : StreamSt) : StreamSt := { t with stopped := false, buf := [], wake := 0 }

/-- A core as a save keeps it: stopped, background plane reads finished, fetched units dropped (spec/01 R23; spec/15 R399). -/
def Core.kept (c : Core) : Core :=
  let c := (((c.stopStrm .s).stopStrm .a).stopStrm .v).stopStrm .m
  let c := c.mat.pending.foldl (fun c p => { c with mat := { c.mat with shadow := c.capture p.1 p.2 } }) c
  { c with
    ss := c.ss.kept, sa := c.sa.kept, sv := c.sv.kept, sm := c.sm.kept
    mat := { c.mat with pending := [] }, regs := { c.regs with q := c.regs.q.map fun q => { q with units := [] } } }

/-- Whether a core stands where a pre-emption may take it (spec/13 R361; spec/08 R224, R225, R243). -/
def Core.atBoundary (c : Core) : Bool :=
  c.running && !c.trap.super && !c.np && c.trap.pending.isEmpty && c.trap.faults.isEmpty
    && [c.ss, c.sa, c.sv, c.sm].all fun t => !t.clause.live || t.clause.waiting

/-- The members of the group that core `c` runs a part of, as cores, a core in reset among them (spec/13 R353; spec/15 R403). -/
def State.groupCores (s : State) (c : Nat) : List Nat := if !(s.core c).cont.ganged then [c] else s.gangCores c

/-- The free save slots of a context, lowest first.  A slot from which a restartable item was last dispatched stays in use while the
item runs, so that an evacuation without a save finds it (spec/15 R397). -/
def State.freeSlots (s : State) (asid n : Nat) : List Nat :=
  let used := (s.ks.recs.filter fun p => p.1 / 2 ^ 24 == asid
    && (p.2.state == 4 || (p.2.state == 2 && p.2.resumed && p.2.restart))).map (·.2.slot)
  ((upTo (min (s.ctxWord asid 0x38) (n + used.length))).filter fun k => !used.contains k).take n

/-- Save the continuation of core `c` into slot `k` (spec/13 R361; spec/15 R401): PREEMPTED, READY again from now;
`away` keeps it off this core. -/
def State.saveInto (s : State) (c k : Nat) (away : Bool) : State :=
  let s := (s.tickNow).flushCopies c
  let s := s.deviceRelease c (s.allSeen c)
  let x := (s.core c).kept
  let asid := x.cont.asid
  let key := recKey asid x.cont.recIdx
  let r := s.rec_ key
  let v : Saved := { core := x, scr := s.scratchOf c, flaws := s.flawsOf c }
  let body := slotBody v
  let head := slotHeader asid x.cont.lrec x.cont.node c x.cont.wid.toNat s.tick (crc64 body).toNat x.part.toNat
  let s1 := s.freeCore c
  match s1.slotWrite asid k (head ++ body) with
  | .error e => s1.failRec key 1 e 0 0
  | .ok s =>
    let s := s.setRec key { r with state := 4, slot := k, wait := 0, lastCore := c, readyAt := s.ks.order
                                   notCore := if away then c else 0xFF }
    let s := { s with ks := { s.ks with order := s.ks.order + 1, saved := Tab.set s.ks.saved key v } }
    match s.writeRec key [x.offset .s, x.offset .a, x.offset .v, x.offset .m]
        [(x.xreg 0).toNat, (x.xreg 1).toNat, (x.xreg 2).toNat] with
    | .error e => s.failRec key 1 e (s.recAddr key) 0
    | .ok s => s

/-- Whether every member of a core's group that has not ended runs: none has suspended before the others (spec/13 R353). -/
def State.groupWhole (s : State) (c : Nat) : Bool :=
  let x := (s.core c).cont
  !x.ganged || (s.recGroup (recKey x.asid x.recIdx)).all fun j => (s.rec_ j).state == 2

/-- Pre-empt the continuation of core `c`, with its whole group (spec/13 R353, R361); none where a member stands at no
boundary or has suspended, or slots are short. -/
def State.preempt (s : State) (c : Nat) (away : Bool) : Option State :=
  let cs := s.groupCores c
  let x := (s.core c).cont
  let slots := s.freeSlots x.asid cs.length
  let entry := fun (g : Nat) => recPreempt g x.asid (s.core g).cont.recIdx
  let ready := fun (g : Nat) => (s.core g).atBoundary && !(s.dev.farWrites.any fun w => w.core == g) && (s.copiesOwned g).isNone
  if s.groupWhole c && cs.all ready && slots.length == cs.length && !cs.isEmpty && s.recMatches (cs.map entry) then
    some ((cs.zip slots).foldl (fun s p => (s.recEvent (entry p.1) s.recRound 0 0).saveInto p.1 p.2 away) s)
  else none

/-- Evacuate one core without a save (spec/13 R361; spec/15 R397, R404): READY from the record of its last dispatch if the
node is restartable, but not on this core, otherwise FAILED; its copies are discarded. -/
def State.evacOne (s : State) (c : Nat) : State :=
  let x := (s.core c).cont
  let key := recKey x.asid x.recIdx
  let r := s.rec_ key
  if r.restart then
    let s := (s.freeCore c).setRec key { r with state := if r.resumed then 4 else 1, readyAt := s.ks.order, notCore := c }
    { s with ks := { s.ks with order := s.ks.order + 1 } }.mirrorRec key
  else s.endFailed c 1 0 0 0

/-- Evacuate a core's group without a save. -/
def State.evacuate (s : State) (c : Nat) : State := (s.groupCores c).foldl State.evacOne s

/-! ### Restoring (spec/01 R18; spec/15 R401) -/

/-- Core `c` takes a restored core and its scratch; fences and heat skips are the core's own. -/
def State.restoreCore (s : State) (c : Nat) (x : Core) (scr : Mem) (flaws : List Store) : State :=
  let old := s.core c
  let mat := { x.mat with fenced := old.mat.fenced, heat := old.mat.heat, failing := old.mat.failing, glitch := old.mat.glitch }
  let s := (s.forget fun k => bankKey k == bankKey (scratchKey c 0)).setCore c { x.freshSights (Sight.after s s.floor) with
    enabled := old.enabled, inReset := old.inReset, running := true, mat := mat }
  let cleared := Mem.clear s.mem (scratchKey c 0) (scratchKey c (2 ^ 23))
  { s.mendCore c with
    mem := Mem.writeCells cleared (scr.map fun x => (scratchKey c 0 + x.1, x.2))
    flaws := (s.mendCore c).flaws ++ flaws.map fun x => { core := c, store := x } }

end Sys2Proof.Machine
end

