-- ==== Sys2Proof/Machine/Place.lean ====
section
/-! DEFINITION. Dispatch: the core state a continuation begins with, affinity, rounds with gang groups, aging and replay, and
the causes of pre-emption (spec/01 R16, R17; spec/13 R353, R354, R359 to R364). -/

namespace Sys2Proof.Machine

/-! ### Beginning a continuation (spec/01 R17) -/

/-- Fields of an array node record (spec/13 R343). -/
def nodeKimg (n : Nat) : Nat := bits n 127 64
def nodeDict (n : Nat) : Nat := bits n 191 128
def nodeEntry (n : Nat) (k : Nat) : Nat := bits n (223 + 32 * k) (192 + 32 * k)
def nodePart (n : Nat) : Nat := bits n 383 320
def nodeTokens (n : Nat) (i : Nat) : Nat := bits n (387 + 4 * i) (384 + 4 * i)
def nodeRmode (n : Nat) (k : Nat) : Nat := bits n (451 + 4 * k) (448 + 4 * k)
def nodeMmode (n : Nat) : Nat := bits n 465 464

/-- A stream at its start: `k` is its number. -/
def startStrm (n : Nat) (offs : List Nat) (fresh : Bool) (seed : Word) (k : Nat) : StreamSt :=
  { pc := word (nodeKimg n + if fresh then nodeEntry n k else offs.getD k 0), ctl := word (nodeRmode n k), seed := seed }

/-- The continuation that record `k`, as memory gives it, makes of a core. -/
def State.contOf (s : State) (k : Nat) (r : ContRec) (g : Graph) (gang : List Nat) : Cont :=
  let n := g.node r.node
  { asid := k / 2 ^ 24, lrec := r.lrec, node := r.node, recIdx := k % 2 ^ 24, tier := r.tier, prio := r.prio, slot := r.slot
    wid := word r.wid, base := word (nodeKimg n), lseed := word (word64 g.copy 3), restart := r.restart, replay := r.replay, gang := gang
    ganged := gangSize n != 1, since := s.ks.order }

/-- The core state at dispatch from READY or SUSPENDED (spec/01 R17); fences and heat skips are the core's own. -/
def Core.begin (old : Core) (base : Nat) (cont : Cont) (r : ContRec) (g : Graph) (offs carry : List Nat) (dict : Tab Nat) : Core :=
  let n := g.node r.node
  let fresh := r.lastCore == 0xFF
  let seed := cont.lseed ^^^ cont.wid ^^^ (if fresh then 0 else word (offs.getD 0 0 * 2 ^ 32))
  let z := old.freed
  let strm := startStrm n offs fresh seed
  let x := fun (i : Nat) => word (if fresh then 0 else carry.getD i 0)
  let images := g.images.getD r.node []
  { z with
    running := true
    cont := cont
    regs := { z.regs with
      x := #v[x 0, x 1, x 2, 0, 0, 0, 0, 0]
      d := Vector.ofFn fun i => images[i.val]? }
    ss := strm 0, sa := strm 1, sv := strm 2, sm := strm 3
    tok := { z.tok with count := Vector.ofFn fun i => nodeTokens n i.val }
    mat := { z.mat with mode := word (nodeMmode n) }
    copy := { z.copy with schedAddr := bits g.copy 375 320, schedCount := bits g.copy 382 376 }
    part := word (nodePart n) &&& 0x7F7F7F
    dict := dict
    ctxBase := word base }

/-- Whether a field of a record that memory holds is refused (spec/01 R16). -/
def recFault (w asid nodes slots : Nat) : Bool :=
  7 ≤ bits w 3 0 || bits w 7 4 != 0 || nodes ≤ bits w 31 20 || bits w 457 448 != asid || (bits w 3 0 == 4 && slots ≤ bits w 43 32)

/-- The record that a dispatch follows: what memory holds of it, and beside that what Keystone alone keeps (spec/01 R15, R16). -/
def ContRec.ofMemory (own : ContRec) (w : Nat) : ContRec :=
  { own with
    state := bits w 3 0, lrec := bits w 19 8, node := bits w 31 20, slot := bits w 43 32, wid := bits w 127 64, prio := bits w 459 458
    lastCore := bits w 471 464, age := bits w 477 472, restart := bit w 480, replay := bit w 481 }

/-- The dictionary of a node (spec/13 R351). -/
def State.readDict (s : State) (asid n : Nat) : Except Nat (Tab Nat) :=
  if nodeDict n == 0 then .ok []
  else match s.kRead asid (nodeDict n) 4096 with
    | .error c => .error c
    | .ok v => .ok (((upTo 1024).map fun i => (i, bits v (32 * i + 31) (32 * i))).filter fun e => e.2 != 0)

/-- Remembered affinity keys (spec/13 R354): the value of the top `k` fields of an identifier. -/
def topFields (copy wid k : Nat) : Nat :=
  wid / 2 ^ (((upTo (bits copy 258 256)).drop k).map fun i => bits copy (259 + 7 * i + 6) (259 + 7 * i)).foldl (· + ·) 0

/-- The affinity levels of a node: core, quad, sector. -/
def nodeAff (n : Nat) : List Nat := [bits n 11 9, bits n 14 12, bits n 17 15]

/-- Remember the core that runs an instance, least recent keys dropped beyond 4,096. -/
def State.remember (s : State) (g : Graph) (r : ContRec) (c : Nat) : State :=
  let ks := ((nodeAff (g.node r.node)).filter (· != 0)).eraseDups.map fun k =>
    ({ asid := g.asid, lrec := g.lrec, node := r.node, level := k, key := topFields g.copy r.wid k, core := c } : Affinity)
  let rest := s.ks.aff.filter fun a => !ks.any fun b => a.asid == b.asid && a.lrec == b.lrec && a.node == b.node && a.level == b.level && a.key == b.key
  { s with ks := { s.ks with aff := (ks ++ rest).take 4096 } }

/-- The core remembered for a key. -/
def State.recall (s : State) (g : Graph) (r : ContRec) (k : Nat) : Option Nat :=
  if k == 0 then none
  else (s.ks.aff.find? fun a => a.asid == g.asid && a.lrec == g.lrec && a.node == r.node && a.level == k
    && a.key == topFields g.copy r.wid k).map (·.core)

/-- Restore a continuation from its slot on core `c` (spec/01 R18, R29; spec/15 R401): the state after, or the cause.  What the
core's own encoding keeps is as the save left it. -/
def State.restoreSlot (s : State) (k c : Nat) (r : ContRec) (g : Graph) (gang : List Nat) (offs : List Nat) : Except Nat State :=
  match s.slotRead (k / 2 ^ 24) r.slot, Tab.has s.ks.saved k with
  | .error e, _ => .error e
  | .ok _, false => .error 13
  | .ok bs, true =>
    if !slotGood bs (k / 2 ^ 24) r then .error 13
    else if slotTagsBad bs then .error 0
    else
      let v := Tab.get s.ks.saved k { core := Core.init }
      let cont := s.contOf k r g gang
      let x := slotCore bs v.core cont fun k => cont.base + word (offs.getD k.idx 0)
      let x := { x with copy := { x.copy with schedAddr := bits g.copy 375 320, schedCount := bits g.copy 382 376 } }
      .ok (s.restoreCore c x (slotScratch bs x) v.flaws)

/-- Place record `k` on core `c` as the record in memory says (spec/01 R16 to R18; spec/13 R351, R446; spec/15 R401): it begins or
is restored, or its item FAILS.  Its acquire empties the sector's read buffer (spec/08 R236; notes/assumptions/13.md). -/
def State.place (s : State) (k c : Nat) (gang : List Nat) : State :=
  let asid := k / 2 ^ 24
  let s := s.recEvent (recPlace c asid (k % 2 ^ 24)) s.recRound 0 0
  match s.kRead asid (s.recAddr k) 64 with
  | .error e => s.failRec k 1 e (s.recAddr k) 0
  | .ok w =>
    let r := (s.rec_ k).ofMemory w
    match s.graph asid r.lrec with
    | none => s.failRec k 1 0 0 0
    | some g =>
      if recFault w asid g.nodes.length (s.ctxWord asid 0x38) then s.failRec k 1 0 0 0
      else
        let offs := (upTo 4).map fun i => bits w (159 + 32 * i) (128 + 32 * i)
        let go := fun (s : State) =>
          let s := s.setRec k { r with state := 2, core := c, resumed := r.state == 4, notCore := 0xFF, heldReady := false }
          ((s.remember g r c).mirrorRec k).dropLines (sectorOf c) fun _ => true
        if r.state == 4 then
          match s.restoreSlot k c r g gang offs with
          | .error e => s.failRec k 1 e 0 0
          | .ok s => go s
        else match s.readDict asid (g.node r.node) with
          | .error e => s.failRec k 1 e 0 0
          | .ok dict =>
            let carry := (upTo 3).map fun i => bits w (319 + 64 * i) (256 + 64 * i)
            let s := s.onCore c fun x => (x.begin (s.ctx asid).base (s.contOf k r g gang) r g offs carry dict).freshSights (Sight.after s s.floor)
            go { (s.mendCore c).forget fun k => bankKey k == bankKey (scratchKey c 0) with
              mem := Mem.clear s.mem (scratchKey c 0) (scratchKey c (2 ^ 23)) }

/-! ### Idle cores and regions (spec/13 R353, R359; spec/16 R415) -/

/-- Whether a core may be given work (spec/15 R403). -/
def State.usable (s : State) (c : Nat) : Bool := (s.core c).enabled && !(s.core c).inReset && !(s.dev.rstBusy && s.dev.rstCore == c)
def State.idleCore (s : State) (c : Nat) : Bool := s.usable c && !(s.core c).running

/-- The cores of a region by position: quad `u` below 64, sector `u - 64` above. -/
def regionCores (u : Nat) : List Nat :=
  if u < 64 then (upTo 4).map (coreInQuad (u / 6 * 24 + u % 6 * 2))
  else (upTo 16).map (coreInSector ((u - 64) / 3 * 48 + (u - 64) % 3 * 4))

/-- The regions of a group size. -/
def regions (z : Nat) : List Nat := if z == 4 then upTo 36 else (upTo 9).map (· + 64)

/-- A number for the group of a record. -/
def State.groupId (s : State) (k : Nat) : Nat :=
  let r := s.rec_ k
  ((k / 2 ^ 24 * 4096 + r.lrec) * 256 + r.node) * 2 ^ 64 + r.wid / s.recGang k

/-- Cores in regions reserved by other groups. -/
def State.blocked (s : State) (gid : Nat) : List Nat := (s.ks.reserved.filter fun x => x.1 != gid).flatMap fun x => regionCores x.2

/-- The core R354 chooses for a single continuation. -/
def State.chooseCore (s : State) (k : Nat) (g : Graph) : Option Nat :=
  let r := s.rec_ k
  let block := s.blocked (2 ^ 128)
  let ok := fun (c : Nat) => c < 144 && s.idleCore c && !block.contains c && c != r.notCore
  let lv := nodeAff (g.node r.node)
  let near := fun (i : Nat) (p : Nat → Nat → Bool) => match s.recall g r (lv.getD i 0) with
    | some c => (upTo 144).filter (p c)
    | none => []
  let lists := [near 0 (· == ·), near 1 fun c x => quadOf c == quadOf x, near 2 fun c x => sectorOf c == sectorOf x,
    [r.lastCore], upTo 144]
  lists.findSome? fun l => l.find? ok

/-! ### A round (spec/13 R359, R360) -/

/-- Whether a record is READY, or PREEMPTED and so READY again. -/
def State.isReady (s : State) (k : Nat) : Bool := (s.rec_ k).state == 1 || (s.rec_ k).state == 4

/-- Whether a record waits for a core: READY in an OPEN context. -/
def State.waitsCore (s : State) (k : Nat) : Bool := s.isReady k && (s.ctx (k / 2 ^ 24)).held == 0

/-- Whether `a` is placed before `b`: priority, time of becoming READY, ASID and record index. -/
def State.recBefore (s : State) (a b : Nat) : Bool :=
  let x := s.rec_ a
  let y := s.rec_ b
  y.prio < x.prio || (x.prio == y.prio && (x.readyAt < y.readyAt || (x.readyAt == y.readyAt && a ≤ b)))

def insertRec (le : Nat → Nat → Bool) (a : Nat) : List Nat → List Nat
  | [] => [a]
  | b :: r => if le a b then a :: b :: r else b :: insertRec le a r

/-- The waiting records in the order of R359. -/
def State.queueOrder (s : State) : List Nat := ((s.ks.recs.map (·.1)).filter s.waitsCore).foldr (insertRec s.recBefore) []

/-- A round in progress: the state, the records placed, and whether nothing more may be placed. -/
structure Round where
  s : State
  placed : List Nat := []
  closed : Bool := false

/-- Whether no member of a group would go back, in a region, to the core that it left (spec/13 R361). -/
def State.regionNew (s : State) (members : List Nat) (z u : Nat) : Bool :=
  members.all fun k => (regionCores u).getD ((s.rec_ k).wid % z) 0 != (s.rec_ k).notCore

/-- Whether a group can go to a region: all of it usable, idle and not reserved, no member back to the core it left. -/
def State.regionFits (s : State) (gid : Nat) (members : List Nat) (z u : Nat) : Bool :=
  let cs := regionCores u
  let block := s.blocked gid
  cs.all (fun c => s.idleCore c && !block.contains c) && s.regionNew members z u

/-- Place a group's members in a region, by position. -/
def State.placeGroup (s : State) (members : List Nat) (z u : Nat) : State :=
  let cs := regionCores u
  let at_ := fun (k : Nat) => cs.getD ((s.rec_ k).wid % z) 0
  let gang := members.map at_
  members.foldl (fun s' k => s'.place k (at_ k) gang) s

/-- The members of a record's group in identifier order, if all have been created and all that have not ended are READY. -/
def State.readyGroup (s : State) (k : Nat) : Option (List Nat) :=
  let r := s.rec_ k
  let z := s.recGang k
  let ms := sortBy (fun j => (s.rec_ j).wid) (s.recGroup k)
  match s.graph (k / 2 ^ 24) r.lrec with
  | some g => if (r.wid / z + 1) * z ≤ (g.nst r.node).created && ms.all s.waitsCore then some ms else none
  | none => none

/-- Reserve for a group the usable region with the most idle cores, the lowest on a tie, of those that it may go to. -/
def State.reserveRegion (s : State) (gid z : Nat) (members : List Nat) : State :=
  if s.ks.reserved.any fun x => x.1 == gid then s
  else
    let block := s.blocked gid
    let us := (regions z).filter fun u => s.regionNew members z u && (regionCores u).all fun c => s.usable c && !block.contains c
    let n := fun (u : Nat) => ((regionCores u).filter s.idleCore).length
    match us with
    | [] => s
    | u :: r =>
      let best := r.foldl (fun a b => if n a < n b then b else a) u
      { s with ks := { s.ks with reserved := s.ks.reserved ++ [(gid, best)] } }

/-- One record's turn in a round.  Where the record buffer is full nothing more is placed (spec/14 R389). -/
def Round.step (d : Round) (k : Nat) : Round :=
  let s := d.s
  if d.closed || 16 ≤ d.placed.length || d.placed.contains k || !s.waitsCore k then d
  else if !s.recRoom (s.recGroup k).length then { d with closed := true }
  else match s.graph (k / 2 ^ 24) (s.rec_ k).lrec with
  | none => d
  | some g =>
    let z := s.recGang k
    if z == 1 then
      match s.chooseCore k g with
      | none => d
      | some c => { d with s := s.place k c [c], placed := k :: d.placed }
    else match s.readyGroup k with
      | none => d
      | some ms =>
        let gid := s.groupId k
        if 16 < d.placed.length + ms.length then { d with closed := true }
        else
          let mine := (s.ks.reserved.filter fun x => x.1 == gid).map (·.2)
          match (if mine.isEmpty then regions z else mine).find? (s.regionFits gid ms z) with
          | none => { d with s := s.reserveRegion gid z ms }
          | some u =>
            let s := { s with ks := { s.ks with reserved := s.ks.reserved.filter fun x => x.1 != gid } }
            { d with s := s.placeGroup ms z u, placed := ms ++ d.placed }

/-- A record passed over ages (spec/13 R360). -/
def ContRec.older (r : ContRec) : ContRec :=
  if r.prio < 3 then (if 63 ≤ r.age then { r with age := 0, prio := r.prio + 1 } else { r with age := r.age + 1 })
  else { r with age := min 63 (r.age + 1) }

/-- Age the READY records that a round passed over. -/
def State.ageRecs (s : State) (l : List Nat) : State :=
  l.foldl (fun s k => if s.isReady k then (s.setRec k (s.rec_ k).older).mirrorRec k else s) s

/-- Forget the reservations of groups that no longer wait. -/
def State.dropReserved (s : State) : State :=
  { s with ks := { s.ks with reserved := s.ks.reserved.filter fun x => s.ks.recs.any fun r => s.isReady r.1 && s.groupId r.1 == x.1 } }

/-- A round under replay (spec/14 R391): placements as the next entries state, at most `n`; a group goes as a whole, and diverges
where the entries do not name its members in turn. -/
def State.replayRound (s : State) : Nat → List Nat → State × List Nat
  | 0, done => (s, done)
  | n + 1, done =>
    let w := s.recEntry 0
    let c := bits w 15 8
    let k := recKey (bits w 25 16) (bits w 57 26)
    if !s.replaying || s.recKind != 3 || s.recEntry 1 != s.recRound then (s, done)
    else if 144 ≤ c || !(s.core c).enabled then (s.diverge, done)
    else if !s.waitsCore k || !s.idleCore c then (s, done)
    else
      let z := s.recGang k
      if z == 1 then (if s.recMatches [w] then State.replayRound (s.place k c [c]) n (k :: done) else (s.diverge, done))
      else match s.readyGroup k, (regions z).find? fun u => (regionCores u).contains c with
        | some ms, some u =>
          let entry := fun (j : Nat) => recPlace ((regionCores u).getD ((s.rec_ j).wid % z) 0) (j / 2 ^ 24) (j % 2 ^ 24)
          if !(regionCores u).all s.idleCore then (s, done)
          else if s.recMatches (ms.map entry) then State.replayRound (s.placeGroup ms z u) n (ms ++ done)
          else (s.diverge, done)
        | _, _ => (s, done)

/-- DISPATCH_ROUND (spec/13 R358, R359, R361): the records of the last round's ends are free, one semaphore of the overflow list is
read, continuations are placed, and then one may be pre-empted. -/
def execDispatchRound (s : State) : Out :=
  let s := ({ s.sweep with ks := { s.sweep.ks with round := (s.ks.round + 1) % 2 ^ 64, mayPreempt := true } }.readOverflow).dropReserved
  let s := if s.recStale then s.diverge else s
  .next (if s.ks.halted then s
    else
      let order := s.queueOrder
      let (s, placed) := if s.replaying then s.replayRound 16 []
        else
          let d := order.foldl Round.step { s := s }
          (d.s, d.placed)
      if placed.isEmpty then s else s.ageRecs (((s.ks.recs.map (·.1)).filter s.isReady).filter fun k => !placed.contains k))

/-! ### Pre-emption (spec/13 R361 to R364) -/

/-- Whether an idle core, or for a gang member an idle region, is there for a waiting record: none that is reserved for others. -/
def State.hasCore (s : State) (k : Nat) : Bool :=
  let z := s.recGang k
  if z == 1 then (upTo 144).any fun c => s.idleCore c && !(s.blocked (2 ^ 128)).contains c && c != (s.rec_ k).notCore
  else (regions z).any fun u => s.regionFits (s.groupId k) (s.recGroup k) z u

/-- Whether a waiting continuation that `p` selects has found no idle core. -/
def State.starved (s : State) (p : ContRec → Bool) : Bool := s.queueOrder.any fun k => p (s.rec_ k) && !s.hasCore k

/-- Whether core `c` runs the victim of lowest priority, and then the longest running, among those with a save slot free that stand at
a boundary. -/
def State.lowestPrio (s : State) (c : Nat) : Bool :=
  let me := (s.core c).cont
  !(s.cores.any fun y => y.2.running
    && (y.2.cont.prio < me.prio || (y.2.cont.prio == me.prio && y.2.cont.since < me.since)) && (s.preempt y.1 false).isSome)

/-- Whether cause `n` of R361 holds for core `c`: 0 priority, 1 quantum (`flag`: its 2 ms have passed), 2 thermal migration,
3 its context has stopped (spec/14 R377), 4 a reset of a core of its group (spec/15 R403). -/
def State.preemptCause (s : State) (c n : Nat) (flag : Bool) : Bool :=
  let x := (s.core c).cont
  match n with
  | 0 => s.starved (fun r => x.prio < r.prio) && s.lowestPrio c
  | 1 => s.ks.tslice && flag && s.starved fun r => r.prio == x.prio
  | 2 => s.dev.migrate.contains c
  | 3 => (s.ctx x.asid).held == 1
  | _ => s.dev.rstBusy && (s.groupCores c).contains s.dev.rstCore

/-- PRE_EMPTION (spec/13 R361, R363, R364): core `core` for cause `code`, once in a round after its placement; under replay, whatever the
cause, the core that the next entry names.  An evacuation for a reset that finds too few slots makes no save (spec/15 R403). -/
def execPreEmption (s : State) : Out :=
  let c := s.cur.core
  let reset := s.preemptCause c 4 false
  let away := s.dev.migrate.contains c || reset
  let cs := s.groupCores c
  let short := (s.freeSlots (s.core c).cont.asid cs.length).length < cs.length
  let once := fun (s : State) => { s with ks := { s.ks with mayPreempt := false } }
  .next (if s.ks.mayPreempt && (s.core c).running && (s.replaying || s.preemptCause c s.inp.code s.inp.flag) then
      (match s.preempt c away with
        | some s => once s
        | none => if reset && short && s.groupWhole c && cs.all (fun g => (s.core g).atBoundary) then once (s.evacuate c) else s)
    else s)

end Sys2Proof.Machine
end

