-- ==== Sys2Proof/Machine/ScalarMem.lean ====
section
/-! DEFINITION. The S stream's loads, stores, atomics, near-memory adds, fences, acquires, releases and bindings
(spec/04 R104 to R121). -/

namespace Sys2Proof.Machine

/-! ### Loads and stores (spec/04 R105 to R107) -/

/-- Size and signedness of an LD (spec/04 R105): `z` 0 to 6. -/
def ldSize (z : Nat) : Nat := if z < 2 then 1 else if z < 4 then 2 else if z < 6 then 4 else 8
def ldSigned (z : Nat) : Bool := z % 2 == 0

/-- LD (spec/04 R105, R107). -/
def execLd (f : LdF) (s : State) : Out :=
  let n := ldSize f.z
  let va := s.srcS f.a + sext 10 f.o * word n
  .next (match s.access va n .read false with
    | .error d => s.finish f.e d.got
    | .ok l =>
      let x := s.loadNum l n
      let r := toS f.d f.w (if ldSigned f.z then BitVec.ofInt 64 (signed (8 * n) x) else word x)
      (s.loaded l n).finish f.e (.done { r with effs := r.effs ++ s.fillOf l }))

/-- The add of a lower position to some of `n` bytes at `key` is in the clause. -/
def State.addPending (s : State) (key n : Nat) : Bool :=
  s.cl.effs.any fun e => match e with
    | .nadd k ty _ _ => k < key + n && key < k + (if ty == 1 then 8 else 4)
    | _ => false

/-- The clause after adds of lower positions to these bytes are performed (spec/04 R112). -/
def State.afterAdds (s : State) (key n : Nat) : State := if s.addPending key n then s.settleAdds else s

/-- ST (spec/04 R106, R107). -/
def execSt (f : StF) (s : State) : Out :=
  let n := 2 ^ f.z
  let va := s.srcS f.a + sext 11 f.o * word n
  .next (match s.access va n .write true with
    | .error d => s.finish f.e d.got
    | .ok l => (s.afterAdds l.key n).finish f.e
        (.done { effs := [.store (cellsAt l.key (bytesOf n (s.srcS f.c).toNat)) va.toNat { grain := 0 }] }))

/-! ### Atomics (spec/04 R109 to R112) -/

/-- Memory with the newest writes to some bytes undone, while `p` selects them. -/
def undo (p : Wr → Bool) (keys : List Nat) : List Wr → Mem → Mem
  | [], m => m
  | r :: rs, m =>
    let hit := r.old.filter fun c => keys.contains c.1
    if hit.isEmpty then undo p keys rs m else if p r then undo p keys rs (Mem.writeCells m hit) else m

/-- The word that an atomic of a scope finds, over the stores of lower positions (spec/04 R112).  An atomic whose scope and this one's
do not each contain the other's issuer, or a plain store from outside its scope, may be missed, and is then overwritten. -/
def State.atomicWord (s : State) (scope key n : Nat) : Nat :=
  if s.hist.isEmpty then s.homeAfter key n
  else
    let keys := (upTo n).map (key + ·)
    let far := fun (r : Wr) => !r.now && !(keys.any fun k => s.sees s.sight true s.agent r k) && match r.scope with
      | none => !scopeHas scope s.agent r.by_
      | some x => !scopesMeet x r.by_ scope s.agent
    ofBytes (Mem.bytes (Mem.after (undo far keys s.hist s.mem) s.cl.effs) key n)

/-- The scope of an atomic of code `code` on memory of a kind: at least HOST on a host's, at least POD on a peer's (spec/04 R112;
spec/10 R298). -/
def atomWidth (code target : Nat) : Nat :=
  if target == 1 then scopeLub (atomScope code) 8 else if target == 2 then scopeLub (atomScope code) 9 else atomScope code

/-- An atomic of `n` bytes with scope code `code` whose new value `g` gives, or none where it writes nothing, and drops what the
sector's read buffer holds of the line (spec/04 R107; spec/11 R304).  Where the word lies in an uncorrectable sector the clause goes
on to the checks of its higher positions, with a result that is free (spec/04 R112). -/
def State.atomic (s : State) (e : Bool) (d : Nat) (w : Bool) (va : Word) (n code : Nat) (g : Nat → Option Nat) : State :=
  match s.access va n .atomic true with
  | .error (.cause c) =>
    if c.code == 13 && c.i2 == 0 then
      (s.onCl fun x => { x with ue := some (x.ue.getD (x.pos, c)) }).finish e (.done (toS d w (word (Config.freeCycles s.free))))
    else s.finish e (.trap c)
  | .error (.busy k) => s.finish e (.again k)
  | .ok l =>
    let s := s.afterAdds l.key n
    let scope := atomWidth code l.target
    let keys := (upTo n).map (l.key + ·)
    let m := s.atomicWord scope l.key n
    let r := { toS d w (word m) with rests := keys }
    match g m with
    | some v => (s.readHome keys).finish e
      (.done { r with effs := r.effs ++ [.store (cellsAt l.key (bytesOf n v)) va.toNat { grain := 0, scope := some scope }] })
    | none => ((s.readHome keys).dropLines (sectorOf s.cur.core) fun k => k == l.key / 256 * 256).finish e (.done r)

/-- CAS (spec/04 R110). -/
def execCas (f : CasF) (s : State) : Out :=
  let n := if f.z then 8 else 4
  .next (s.atomic f.e f.d f.w (s.srcS f.a) n f.s fun m =>
    if m == (s.oldS f.d f.w).toNat % 2 ^ (8 * n) then some ((s.srcS f.b).toNat % 2 ^ (8 * n)) else none)

/-- f(m, v) of AMO on words of `n` bits (spec/04 R111). -/
def amoOp (o n m v : Nat) : Nat :=
  match o with
  | 0 => v
  | 1 => (m + v) % 2 ^ n
  | 2 => m &&& v
  | 3 => m ||| v
  | 4 => m ^^^ v
  | 5 => if signed n v < signed n m then v else m
  | 6 => if signed n m < signed n v then v else m
  | _ => if m < v then v else m

/-- AMO (spec/04 R111). -/
def execAmo (f : AmoF) (s : State) : Out :=
  let n := if f.z then 8 else 4
  .next (s.atomic f.e f.d f.w (s.srcS f.a) n f.s fun m => some (amoOp f.o (8 * n) m ((s.srcS f.b).toNat % 2 ^ (8 * n))))

/-- NADD (spec/04 R113). -/
def execNadd (f : NaddF) (s : State) : Out :=
  let n := if f.t == 1 then 8 else 4
  let va := s.srcS f.a + sext 11 f.o * word n
  .next (s.finish f.e (match s.access va n .nadd true with
    | .error d => d.got
    | .ok l => .done { effs := [.nadd l.key f.t ((s.srcS f.c).toNat % 2 ^ (8 * n)) va.toNat] }))

/-! ### Fences, acquires and releases (spec/04 R114 to R118) -/

/-- FENCE (spec/04 R114; spec/11 R306): its clause issued when every earlier add was accepted; the adds of its own lower positions
are performed now, and a scope not contained in SECTOR empties the sector's read buffer.  What it has seen comes before later
reads, and later writes carry what came before it. -/
def execFence (f : ScopeF) (s : State) : Out :=
  let s := s.settleAdds.fenceAcquire (s.who s.cur.core) f.s
  .next ((if f.s ≤ 3 then s else s.dropLines (sectorOf s.cur.core) fun _ => true).finish f.e
    (.done { effs := [.mark f.s none [(f.s, none)]] }))

/-- Whether a line of the read buffer may hold bytes of [lo, lo + len) through range entry `e`.  A paged entry that
meets the range counts for every line: a line dropped too many is a replacement (spec/10 R288;
notes/assumptions/13.md). -/
def lineUnder (e lo len key : Nat) : Bool :=
  rangeValid e &&
    if bit e 6 then bits e 63 12 * 4096 < lo + len && lo ≤ bits e 127 64
    else
      let a := if key < 2 ^ 39 then (if bit e 7 then key else unstriped key) else key % 2 ^ 64
      let hit := if key < 2 ^ 39 then bits e 10 8 == 0 else bits e 10 8 == key / 2 ^ 64
      let va := (a + 2 ^ 64 - bits e 191 128) % 2 ^ 64
      hit && rangeCovers e va && va < lo + len && lo < va + 256

/-- The range entries of a context. -/
def State.rangeEntries (s : State) (asid : Nat) : List Nat :=
  (upTo 256).map fun i => s.physNow (s.xlBase asid + 32 * i) 32

/-- The ranges an acquire of object `va` covers in form .b (spec/04 R118). -/
def State.covered (s : State) (va : Nat) : List (Nat × Nat) :=
  (s.bindsAt.filter fun e => bindLive e.2 && bits e.2.toNat 63 0 == va).map fun e =>
    (bits e.2.toNat 127 64, bits e.2.toNat 191 128)

/-- The moving stream acquires releases through the object `va` (spec/04 R116; spec/11 R305). -/
def State.acquireFrom (s : State) (scope : Nat) (all : Bool) (va : Nat) (rels : List Rel) : State :=
  if rels.isEmpty then s else s.takeRels (s.who s.cur.core) s.agent (coverOf s.bindsAt scope all va) rels

/-- The read buffer after an acquire of object `va` (spec/04 R116, R118). -/
def State.acquire (s : State) (all : Bool) (va : Nat) : State :=
  let x := sectorOf s.cur.core
  if all then s.dropLines x fun _ => true
  else
    let rs := (va, 8) :: s.covered va
    let es := s.rangeEntries s.me.cont.asid
    s.dropLines x fun k => rs.any fun r => es.any fun e => lineUnder e r.1 r.2 k

/-- LDA (spec/04 R116): it acquires what the write that it reads releases. -/
def execLda (f : LdaF) (s : State) : Out :=
  let va := s.srcS f.a + sext 8 f.o * 8
  .next (match s.access va 8 .read true with
    | .error d => s.finish f.e d.got
    | .ok l => (((s.loaded l 8).acquireFrom f.s f.f va.toNat (s.relsAt l.key)).acquire f.f va.toNat).finish f.e
        (.done (toS f.d f.w (word (s.loadNum l 8)))))

/-- ACQ (spec/04 R116): it acquires what the latest load, CAS or AMO of the object before it has read. -/
def execAcq (f : AcqF) (s : State) : Out :=
  let va := s.srcS f.a + sext 8 f.o * 8
  .next (match s.access va 8 .read true with
    | .error d => s.finish f.e d.got
    | .ok l => ((s.acquireFrom f.s f.f va.toNat (s.relsRead l.key)).acquire f.f va.toNat).finish f.e (.done {}))

/-- STREL (spec/04 R117): every write before it has been performed when its clause issues. -/
def execStrel (f : StrelF) (s : State) : Out :=
  let va := s.srcS f.a + sext 8 f.o * 8
  .next (match s.access va 8 .write true with
    | .error d => s.finish f.e d.got
    | .ok l => s.settleAdds.finish f.e (.done { effs :=
        [.store (cellsAt l.key (bytesOf 8 (s.srcS f.c).toNat)) va.toNat { grain := 0, rel := some (coverOf s.bindsAt f.s f.f va.toNat) }] }))

/-- REL (spec/04 R117). -/
def execRel (f : AcqF) (s : State) : Out :=
  let va := s.srcS f.a + sext 8 f.o * 8
  .next (match s.access va 8 .write true with
    | .error d => s.finish f.e d.got
    | .ok l => s.settleAdds.finish f.e (.done { effs := [.mark f.s (some l.key) (coverOf s.bindsAt f.s f.f va.toNat)] }))

/-! ### Bindings (spec/04 R119 to R121) -/

/-- The binding table with the entries that lower positions of the clause write. -/
def State.bindsNow (s : State) : Tab (BitVec 256) :=
  s.cl.effs.foldl (fun t e => match e with
    | .bind i x => Tab.set t i x
    | _ => t) (s.ctx s.me.cont.asid).binds

/-- What the moving clause answers rests on the binding table as it is (spec/04 R119: BINDs and UNBINDs are serialised). -/
def State.restOnBinds (s : State) : State := s.onCl fun c => { c with table := some (s.ctx s.me.cont.asid).binds }

/-- A binding entry's word. -/
def bindEntry (scope len base obj : Nat) : BitVec 256 :=
  BitVec.ofNat 256 (obj + base * 2 ^ 64 + len * 2 ^ 128 + scope * 2 ^ 192 + 2 ^ 196)

/-- BIND's code and the entry it writes (spec/04 R119): the first outcome of −3, −2, −1.  An entry in force whose LEN is 0
overlaps where its BASE lies strictly inside the new range (DESIGN CHOICE, notes/assumptions/66.md). -/
def bindOutcome (t : Tab (BitVec 256)) (len base obj : Nat) : Word × Option Nat :=
  let live := t.filter fun e => bindLive e.2
  let clash := live.any fun e =>
    let b := bits e.2.toNat 127 64
    bits e.2.toNat 63 0 != obj && b < base + len && base < b + bits e.2.toNat 191 128
  if len == 0 || 2 ^ 56 < base + len then (0 - 3, none)
  else if clash then (0 - 2, none)
  else match (upTo 64).find? fun i => !(live.any fun e => e.1 == i) with
    | some i => (word i, some i)
    | none => (0 - 1, none)

/-- BIND (spec/04 R119): an object that is no multiple of 8 raises ALIGN. -/
def execBind (f : BindF) (s : State) : Out :=
  let a := s.srcS f.a
  let base := (s.vw.sreg f.b).toNat
  let len := (s.vw.sreg (f.b + 1)).toNat
  .next (s.restOnBinds.finish f.e (
    if a.toNat % 8 != 0 then .trap { code := 7, i0 := a }
    else
      let o := bindOutcome s.bindsNow len base a.toNat
      let r := toS f.d f.w o.1
      .done (match o.2 with
        | some i => { r with effs := r.effs ++ [.bind i (bindEntry f.s len base a.toNat)] }
        | none => r)))

/-- UNBIND (spec/04 R120). -/
def execUnbind (f : R1) (s : State) : Out :=
  let a := (s.srcS f.a).toNat
  let hit := s.bindsNow.filter fun e => bindLive e.2 && bits e.2.toNat 63 0 == a
  let r := toS f.d f.w (word hit.length)
  .next (s.restOnBinds.finish f.e (.done { r with effs := r.effs ++ hit.map fun e => .bind e.1 (e.2 &&& ~~~(1 <<< 196 : BitVec 256)) }))

end Sys2Proof.Machine
end

