-- ==== Sys2Proof/Machine/System.lean ====
section
/-! DEFINITION. Launch, edge, suspension, trap-return and system-register instructions of the S stream (spec/08), and
the words that every stream shares: tokens, loops and dictionary pairs (spec/03 R77 to R83). -/

namespace Sys2Proof.Machine

/-! ### Launch records (spec/08 R240, R241; spec/13 R338 to R340) -/

/-- A LAUNCH cause: record index, code, and the failure of an access. -/
def cLaunch (i code sub : Nat) : Cause := { code := 25, i0 := word i, i1 := word code, i2 := word sub }

/-- Whether a record is armed, counting the arms of lower positions. -/
def State.armedNow (s : State) (i : Nat) : Bool :=
  (s.lrec s.me.cont.asid i).state != 0 || s.cl.effs.any fun e => match e with
    | .arm l _ _ => l == i
    | _ => false

/-- A launch record as Keystone reads it for a position of the clause, once: with the stores and patches of lower positions
(spec/13 R340; spec/08 R240). -/
def State.lrNow (s : State) (i : Nat) : Except Nat Nat :=
  let t := s.cl.effs.foldl (fun t e => match e with
    | .store cells _ _ => t.perform cells
    | .patch _ _ _ _ _ => t.apply e
    | _ => t) s
  t.kRead s.me.cont.asid (s.lrAddr s.me.cont.asid i) 128

/-- LRCOUNT of the running context. -/
def State.lrCount (s : State) : Nat := s.ctxWord s.me.cont.asid 0x28

/-- Whether a patch slot is declared by its record (spec/13 R339). -/
def slotDeclared (r slot : Nat) : Bool :=
  let w := bits slot 3 0
  [2, 3, 6, 7, 8, 9, 13, 14, 15].contains w && bits slot 9 4 + bits slot 15 10 + 1 ≤ 64 && !(w == 2 && bit r 4)

/-- The outcome of an LPATCH of value `v` to slot `p` of record `i`: the first that applies (spec/08 R240). -/
def State.lpatch (s : State) (a : Word) (v : Nat) : Except Cause (Option Eff) :=
  let i := field a 11 0
  if field a 63 15 != 0 then .error (cLaunch i 6 0)
  else if s.lrCount ≤ i then .error (cLaunch i 1 0)
  else match s.lrNow i with
    | .error c => .error (cLaunch i 7 c)
    | .ok r =>
      let slot := bits r (704 + 16 * field a 14 12 + 15) (704 + 16 * field a 14 12)
      let width := bits slot 15 10 + 1
      let va := s.lrAddr s.me.cont.asid i + 8 * bits slot 3 0
      if s.armedNow i then .ok none
      else if !slotDeclared r slot then .error (cLaunch i 2 0)
      else if 2 ^ width ≤ v then .error (cLaunch i 3 0)
      else match s.kWrite s.me.cont.asid va (bytesOf 8 0) with
        | .error c => .error (cLaunch i 7 c)
        | .ok _ => .ok (some (.patch i (bits slot 3 0) (bits slot 9 4) width v))

/-- LPATCH (spec/08 R240). -/
def execLpatch (f : RR) (s : State) : Out :=
  .next (s.finish f.e (match s.lpatch (s.srcS f.a) (s.srcS f.b).toNat with
    | .error c => .trap c
    | .ok none => .done (toS f.d f.w 2)
    | .ok (some e) =>
      let r := toS f.d f.w 0
      .done { r with effs := r.effs ++ [e] }))

/-- Whether a tier's pending slots are full, counting the arms of lower positions. -/
def State.tierFullNow (s : State) (tier : Nat) : Bool :=
  256 ≤ (s.ks.pend.filter fun p => p.tier == tier).length + (s.cl.effs.filter fun e => match e with
    | .arm _ t _ => t == tier
    | _ => false).length

/-- What an arm finds once the caller's tier is known to allow it (spec/08 R241): LARM's code, and the record. -/
def State.armOutcome (s : State) (a : Word) : Except Cause (Nat × Nat) :=
  let i := field a 11 0
  if field a 63 12 != 0 then .error (cLaunch i 6 0)
  else if s.lrCount ≤ i then .error (cLaunch i 1 0)
  else match s.lrNow i with
    | .error c => .error (cLaunch i 7 c)
    | .ok r =>
      if s.armedNow i then .ok (2, r)
      else if headerBad r then .error (cLaunch i 4 0)
      else if s.tierFullNow (s.me.cont.tier + 1) then .ok (1, r) else .ok (0, r)

/-- LARM (spec/08 R241). -/
def execLarm (f : R1) (s : State) : Out :=
  let a := s.srcS f.a
  let s := s.settleAdds
  .next (s.finish f.e (
    if s.me.cont.tier == 3 then .done (toS f.d f.w 3)
    else match s.armOutcome a with
      | .error c => .trap c
      | .ok (n, copy) =>
        let r := toS f.d f.w (word n)
        .done (if n == 0 then { r with effs := r.effs ++ [.arm (field a 11 0) (s.me.cont.tier + 1) copy] } else r)))

/-- Whether the running continuation is a gang member: its suspension points always suspend (spec/13 R353). -/
def State.inGang (s : State) : Bool := s.me.cont.ganged

/-- A suspension point: a suspended channel is retried first (spec/05 R148, R154), and adds of lower positions are
performed before it (spec/08 R236). -/
def State.suspPoint (s : State) (e : Bool) (go : State → State) : State :=
  s.withChans e false (upTo 8) fun s => go s.settleAdds

/-- LARMW (spec/08 R241). -/
def execLarmw (f : R1) (s : State) : Out :=
  let a := s.srcS f.a
  let i := field a 11 0
  .next (s.suspPoint f.e fun s => s.finish f.e (
    if s.me.cont.tier == 3 then .trap (cLaunch i 5 0)
    else match s.armOutcome a with
      | .error c => .trap c
      | .ok (n, copy) =>
        if n == 1 || s.inGang then .done { post := .armWait i copy }
        else
          let r := toS f.d f.w (word n)
          .done { r with effs := if n == 0 then r.effs ++ [.arm i (s.me.cont.tier + 1) copy] else r.effs, post := .noSuspend }))

/-! ### Edges (spec/08 R239) -/

def cEdge (port : Word) (code : Nat) : Cause := { code := 24, i0 := port, i1 := word code }

/-- Whether the streaming edge of a port has a free slot, puts of lower positions counted; or the EDGE cause. -/
def State.edgeRoom (s : State) (a : Word) : Except Cause Bool :=
  let x := s.me.cont
  if 15 < a.toNat then .error (cEdge a 1)
  else match s.graph x.asid x.lrec with
    | none => .error (cEdge a 1)
    | some g => match (g.edgeAt x.node a.toNat).bind fun i => g.edges[i]? with
      | none => .error (cEdge a 1)
      | some e =>
        if edgeIsCompletion e.entry then .error (cEdge a 2)
        else .ok (decide (e.items.length + (s.cl.effs.filter fun x => match x with
          | .edgePut p _ => p == a.toNat
          | _ => false).length < edgeSlots e.entry))

/-- EPUT (spec/08 R239). -/
def execEput (f : RR) (s : State) : Out :=
  let a := s.srcS f.a
  let s := s.settleAdds
  .next (s.finish f.e (match s.edgeRoom a with
    | .error c => .trap c
    | .ok room =>
      let r := toS f.d f.w (ofBool (!room))
      .done (if room then { r with effs := r.effs ++ [.edgePut a.toNat (s.srcS f.b)] } else r)))

/-- EPUT.w (spec/08 R239). -/
def execEputW (f : SrcPair) (s : State) : Out :=
  let a := s.srcS f.a
  let b := s.srcS f.b
  .next (s.suspPoint f.e fun s => s.finish f.e (match s.edgeRoom a with
    | .error c => .trap c
    | .ok room =>
      .done (if room && !s.inGang then { effs := [.edgePut a.toNat b], post := .noSuspend }
             else { post := .putWait a.toNat b })))

/-! ### Suspension points (spec/08 R236 to R238) -/

/-- SUSP (spec/08 R237). -/
def execSusp (f : SrcPair) (s : State) : Out :=
  let a := s.srcS f.a
  let b := s.srcS f.b
  .next (s.suspPoint f.e fun s =>
    if a == 0 then s.finish f.e (.done { post := .suspend 1 a b })
    else match s.access a 8 .read true with
      | .error d => s.finish f.e d.got
      | .ok _ => s.finish f.e (.done { post := .suspend 1 a b }))

/-- SUSP.bar (spec/08 R237). -/
def execSuspBar (f : SrcPair) (s : State) : Out :=
  let a := s.srcS f.a
  let b := s.srcS f.b
  .next (s.suspPoint f.e fun s => match s.access a 16 .read true with
    | .error d => s.finish f.e d.got
    | .ok _ => s.finish f.e (.done { post := .suspend 3 a (b &&& 1) }))

/-- SUSP.end (spec/08 R237). -/
def execSuspEnd (f : EndF) (s : State) : Out :=
  .next (s.suspPoint f.e fun s => s.finish f.e (.done { post := .finish }))

/-- Whether a READY continuation of at least this one's priority waits for this core (spec/08 R238); a pre-empted one is READY
again (spec/13 R361). -/
def State.readyWaits (s : State) : Bool :=
  s.ks.recs.any fun p => (p.2.state == 1 || p.2.state == 4) && s.me.cont.prio ≤ p.2.prio && p.2.notCore != s.cur.core
    && (s.ctx (p.1 / 2 ^ 24)).held == 0

/-- YIELD (spec/08 R238). -/
def execYield (f : DstF) (s : State) : Out :=
  .next (s.suspPoint f.e fun s => s.finish f.e (.done (
    if s.readyWaits || s.inGang then { post := .yielded } else { toS f.d f.w 0 with post := .noSuspend })))

/-! ### Work identifier and regions (spec/08 R242, R243) -/

/-- Field `n` of a work identifier under a launch header's widths, counted from 1 at the top (spec/01 R13). -/
def widField (copy wid n : Nat) : Nat :=
  let wd := (upTo 6).map fun i => bits copy (259 + 7 * i + 6) (259 + 7 * i)
  let below := (wd.drop n).foldl (· + ·) 0
  if bits copy 258 256 < n then 0 else wid / 2 ^ below % 2 ^ wd.getD (n - 1) 0

/-- WID (spec/08 R242). -/
def execWid (f : DstNum) (s : State) : Out :=
  let x := s.me.cont
  let v := if f.n == 0 then x.wid else match s.graph x.asid x.lrec with
    | some g => word (widField g.copy x.wid.toNat f.n)
    | none => 0
  .next (s.finish f.e (.done (toS f.d f.w v)))

/-- NPBEGIN (spec/08 R243): ILLEGAL 6 inside a region. -/
def execNpbegin (f : EndF) (s : State) : Out :=
  .next (s.finish f.e (if s.me.np then .trap (cIllegal 6) else .done { effs := [.npBegin] }))

/-- NPEND (spec/08 R243): ILLEGAL 7 outside a region. -/
def execNpend (f : EndF) (s : State) : Out :=
  .next (s.finish f.e (if s.me.np then .done { effs := [.npEnd] } else .trap (cIllegal 7)))

/-! ### Traps and returns (spec/08 R228 to R230, R234) -/

/-- TRAP (spec/08 R234): SYSCALL after its clause commits. -/
def execTrap (f : Imm) (s : State) : Out := .next (s.finish f.e (.done { post := .syscall (word f.i) }))

/-- BRK (spec/08 R234): BREAK, and its clause is discarded. -/
def execBrk (f : Imm) (s : State) : Out := .next (s.finish f.e (.trap { code := 22, i0 := word f.i }))

/-- PRIV with what was refused (spec/08 R226). -/
def cPriv (n : Nat) : Cause := { code := 2, i0 := word n }

/-- ERET (spec/08 R228). -/
def execEret (f : EndF) (s : State) : Out :=
  .next (s.finish f.e (if s.me.trap.super then .done { post := .eret } else .trap (cPriv 0x1000)))

/-- ERET.fail (spec/08 R230). -/
def execEretFail (f : EndF) (s : State) : Out :=
  .next (s.finish f.e (if s.me.trap.super then .done { post := .eretFail } else .trap (cPriv 0x1000)))

/-- The stream a code 1 to 3 names. -/
def strmOf (n : Nat) : Strm := if n == 0 then .s else if n == 1 then .a else if n == 2 then .v else .m

/-- Start a run of `b` clauses of stream `k` from `a` (spec/08 R229). -/
def Core.erunStart (c : Core) (k : Strm) (a : Word) (b : Nat) : Core :=
  let c := { c with trap := { c.trap with erun :=
    { active := true, strm := k, want := b, did := 0, base := a, savedPc := (c.strm k).pc } } }
  c.onStrm k fun t => { t with pc := a, stopped := false }

/-- ERET.run (spec/08 R229): its clause waits at its position until the run has ended. -/
def execEretRun (f : EretRunF) (s : State) : Out :=
  let a := s.srcS f.a
  let b := (s.srcS f.b).toNat
  let k := strmOf f.x
  let done := fun (v : Word) => s.finish f.e (.done (toS f.d f.w v))
  .next (
    if !s.me.trap.super then s.finish f.e (.trap (cPriv 0x1000))
    else match s.me.trap.erun.result with
      | some v => done v
      | none =>
        if s.me.trap.erun.active then s.finish f.e .stay
        else if b == 0 || 64 < b || a.toNat % 4 != 0 then done 1
        else if (s.me.strm k).prog.active then done 3
        else (s.onMe fun c => c.erunStart k a b).finish f.e .stay)

/-! ### System registers (spec/08 R232; spec/01 R31 to R36) -/

/-- User access to a register: 0 none, 1 read, 2 read and write. -/
def userRight (n : Nat) : Nat :=
  if n == 1 || (0x30 ≤ n && n ≤ 0x3B) then 2 else if n ≤ 0xF || n == 0x40 then 1 else 0

/-- NPSTATE's count now: in an open region at user level some cycles after the last time it was read, and below the
limit at which the region closes. -/
def State.npNow (s : State) : State :=
  if s.me.np && !s.me.trap.super then
    { s with free := s.free + 1 }.onMe fun c => { c with npCycles := min (c.npCycles + Config.freeCycles s.free) 65535 }
  else s

/-- What a read of system register `n` returns, in a state whose counters are at this moment. -/
def State.sysRead (s : State) (n : Nat) : Word :=
  let c := s.me
  let t := c.trap
  if n == 0 then c.part
  else if n == 1 then word c.rcap
  else if n == 2 then word s.igen
  else if n == 3 then word c.cont.asid
  else if n == 4 then c.ctxBase
  else if n == 5 then word s.tick
  else if 8 ≤ n && n ≤ 0xF then word ((c.chan (n - 8)).cdone % 2 ^ 48)
  else if n == 0x10 then t.cause
  else if n == 0x11 then t.src
  else if 0x14 ≤ n && n ≤ 0x17 then vget t.pcs (n - 0x14) 0
  else if 0x18 ≤ n && n ≤ 0x1B then vget t.info (n - 0x18) 0
  else if 0x20 ≤ n && n ≤ 0x23 then vget t.kscr (n - 0x20) 0
  else if n == 0x28 then t.waddr
  else if n == 0x29 then t.wctl
  else if 0x30 ≤ n && n ≤ 0x33 then (c.strm (strmOf (n - 0x30))).flags
  else if 0x34 ≤ n && n ≤ 0x37 then (c.strm (strmOf (n - 0x34))).ctl
  else if 0x38 ≤ n && n ≤ 0x3B then (c.strm (strmOf (n - 0x38))).seed
  else if n == 0x40 then (if c.np then word (2 ^ 17 + c.npCycles) else 0)
  else 0

/-- SYSRD (spec/08 R232). -/
def execSysrd (f : DstNum) (s : State) : Out :=
  let s := if f.n == 5 then s.tickNow else if f.n == 0x40 then s.npNow else s
  .next (s.finish f.e (
    if !s.me.trap.super && userRight f.n == 0 then .trap (cPriv f.n) else .done (toS f.d f.w (s.sysRead f.n))))

/-- SYSWR (spec/08 R232): a register the level may only read is left alone, one it may not reach raises PRIV. -/
def execSyswr (f : SyswrF) (s : State) : Out :=
  let v := s.srcS f.c
  .next (s.finish f.e (
    if !s.me.trap.super && userRight f.n == 0 then .trap (cPriv f.n)
    else if !s.me.trap.super && userRight f.n == 1 then .done {}
    else if 0x34 ≤ f.n && f.n ≤ 0x37 && 5 ≤ field v 2 0 then .trap (cIllegal 5)
    else .done { effs := [.sys f.n v] }))

/-! ### Waiting for an event (spec/08 R235) -/

/-- WFE (spec/08 R235): an operand in a latch is waited for here (spec/03 R445). -/
def execWfe (f : RR) (s : State) : Out :=
  let a := s.srcS f.a
  let p := s.cl.pos
  let late := Src.isLatch f.a || Src.isLatch f.b
  .next (if late && !s.passed && s.wfeWaits p a (s.srcS f.b) then (s.watchWord p a).finish f.e .stay
    else match s.access a 8 .read true with
      | .error d => s.finish f.e d.got
      | .ok l => ((s.wfeOver p).pass.readHome ((upTo 8).map (l.key + ·))).finish f.e (.done (toS f.d f.w (word (s.homeNum l.key 8)))))

/-! ### Words of every stream (spec/03 R77 to R83) -/

/-- TKGIVE (spec/03 R77, R78): its tokens are given at the commit. -/
def execTkgive (f : ScopeF) (s : State) : Out := .next (s.finish f.e (.done {}))

/-- TKTAKE (spec/03 R77, R78): its tokens were taken before the clause issued. -/
def execTktake (f : ScopeF) (s : State) : Out := .next (s.finish f.e (.done {}))

/-- A loop over the `len` words after the clause (spec/03 R82, R83). -/
def State.loopTo (s : State) (e : Bool) (n count len : Nat) : State :=
  let start := s.cl.next
  let stop := start + word (4 * len)
  let ls := s.st.loops
  let bad := fun (k : Nat) => s.finish e (.trap { code := 18, i0 := word k })
  if count == 0 then s.finish e (.done { post := .loop { n := n, count := 0, start := start, stop := stop } })
  else if 2 ^ 32 - 1 < count then bad 4
  else if ls.any fun l => l.n == n then bad 1
  else if ls.any fun l => start.toNat < l.start.toNat || l.stop.toNat < stop.toNat then bad 2
  else s.finish e (.done { post := .loop { n := n, count := count, start := start, stop := stop } })

/-- LOOP with an immediate count (spec/03 R82). -/
def execLoopImm (f : LoopImmF) (s : State) : Out := .next (s.loopTo f.e f.n f.c (f.l + 1))

/-- LOOP with a register count (spec/03 R82): a source of the S or A stream, an exchange register in V and M. -/
def execLoopReg (f : LoopRegF) (s : State) : Out :=
  let c := if s.cur.strm == .s then s.srcS f.s else if s.cur.strm == .a then s.srcA f.s else s.srcX f.s
  .next (s.loopTo f.e f.n c.toNat (f.l + 1))

/-- DPAIR (spec/03 R80): the pair becomes the two instructions that its dictionary entries hold in this stream; an
entry that does not decode raises ILLEGAL (spec/03 R81). -/
def execDpair (f : PairF) (s : State) : Out :=
  let k := s.cur.strm
  let here := s.here
  .next (match decode (.stream k) (Tab.get s.me.dict f.i 0), decode (.stream k) (Tab.get s.me.dict f.j 0) with
    | .ok i0, .ok i1 => (s.onCl fun c =>
        { c with slots := c.slots.take c.pos ++ [⟨here, i0⟩, ⟨here, i1⟩] ++ c.slots.drop (c.pos + 1) }).keep true
    | _, _ => s.fault (cIllegal 0))

end Sys2Proof.Machine
end

