-- ==== Sys2Proof/Machine/Xiost.lean ====
section
/-! DEFINITION. Xiost: queue registers, notifies, the scanner, the checks and effects of packets, firmware update and the
record packets (spec/14 R370 to R391). -/

namespace Sys2Proof.Machine

/-! ### Rings and status blocks (spec/14 R370, R371) -/

/-- The key of an address of a queue's ring or status block. -/
def Queue.key (x : Queue) (a : Nat) : Nat := if qLoc x.ctl == 0 then hostKey (qOwner x.ctl) a else striped a

/-- Read `n` bytes of a queue's ring or status block, each where its address lies; none where they cannot be read. -/
def State.ringRead (s : State) (x : Queue) (a n : Nat) : Option Nat :=
  let ks := (upTo n).map fun i => x.key (a + i)
  if (if qLoc x.ctl == 0 then s.down.contains (qOwner x.ctl) else 2 ^ 39 < a + n || ks.any s.unbacked) ||
    ks.any fun k => s.ueAt k 1 || s.refusesFn (qFn x.ctl) k then none
  else some (ofBytes (ks.map (Mem.read (s.sysMem ks))))

/-- The first 32 bytes of a status block. -/
def Queue.status (x : Queue) : List Byte :=
  bytesOf 8 (x.head + x.seq * 2 ^ 32 + x.presult * 2 ^ 48 + x.ecode * 2 ^ 56) ++ bytesOf 8 x.nfail ++ bytesOf 8 x.ehdr ++ bytesOf 8 x.epos

/-- Write the status block of queue `q`. -/
def State.writeStatus (s : State) (q : Nat) : State :=
  let x := s.queue q
  let k := x.key x.sbase
  if (if qLoc x.ctl == 0 then s.down.contains (qOwner x.ctl) else s.unbacked k) then s
  else s.sysStoreFor { asid := qAsid x.ctl, va := x.sbase } (s.sysRel 8) (cellsAt k x.status)

/-- Put a queue into error state (spec/14 R382). -/
def State.queueError (s : State) (q code ehdr : Nat) : State :=
  let x := s.queue q
  let s := (s.setQueue q { x with err := true, ecode := code, ehdr := ehdr, epos := x.head, pend := false, hold := 0, words := [] }).writeStatus q
  s.sendMsix x.ctl

/-- A queue that becomes disabled: its waits are abandoned (spec/14 R370). -/
def Queue.disabled (x : Queue) : Queue := { x with en := false, pend := false, hold := 0, words := [], closing := false }

/-! ### Registers (spec/14 R370, R372; spec/16 R420) -/

/-- QCTL without EN and ERR, reserved bits zero. -/
def ctlFields (v : Nat) : Nat := v &&& 0x0001FFFF7FFB1F00

/-- Whether a queue may be enabled with these registers; `v` is QCTL as written. -/
def State.mayEnable (s : State) (x : Queue) (v : Nat) : Bool :=
  let top := fun (a n : Nat) => qLoc v == 1 && 2 ^ 39 < a + n
  qFn v ≤ 32 && qLoc v < 2 && v &&& 0x0001FFFF7FFB1F03 == v && 4 ≤ qLog v && qLog v ≤ 16 && x.base % 64 == 0 && x.sbase % 64 == 0
    && !top x.base (2 ^ (qLog v + 6)) && !top x.sbase 64
    && s.asidFn (qOwner v) (qAsid v) == qFn v && (qFn v == 0 || (qVec v < 64 && !qPriv v))

/-- Whether an event comes from the physical function of the port that owns queue `q`, on a ready device. -/
def State.ownsQueue (s : State) (q : Nat) : Bool :=
  s.dev.ready && s.inp.fn == 0 && q < 4096 && s.inp.port == qOwner (s.queue q).ctl

/-- A write of `v` to the QCTL of a disabled queue (spec/14 R370).  An enabled queue's status block shows that ERR is clear (R371). -/
def State.writeCtl (s : State) (q v : Nat) : State :=
  let x := { s.queue q with ctl := ctlFields v }
  let s := s.setQueue q x
  if bit v 0 && s.mayEnable x v then
    match s.ringRead x x.sbase 8 with
    | none => s
    | some w => (s.setQueue q { x.disabled with en := true, err := false, ecode := 0, head := bits w 31 0, seq := bits w 47 32 }).writeStatus q
  else s

/-- QUEUE_ENABLE (spec/14 R370, R371): queue `queue`, QCTL := `value`, in which EN = 1. -/
def execQueueEnable (s : State) : Out :=
  let q := s.inp.queue
  .next (if s.ownsQueue q && s.inp.len == 8 && bit s.inp.value 0 && !(s.queue q).en then s.writeCtl q s.inp.value else s)

/-- EN := 0: at once, or after the packet being accepted. -/
def State.disable (s : State) (q : Nat) : State :=
  let x := s.queue q
  s.setQueue q (if !s.xi.now.isEmpty && s.xi.nowQueue == q then { x with closing := true } else x.disabled)

/-- QUEUE_DISABLE (spec/14 R370): QCTL := `value`, in which EN = 0. -/
def execQueueDisable (s : State) : Out :=
  let q := s.inp.queue
  .next (if s.ownsQueue q && s.inp.len == 8 && !bit s.inp.value 0 && (s.queue q).en then s.disable q else s)

/-- QNOTIFY_WRITE (spec/14 R372; spec/16 R419): TAIL := `value`. -/
def execQnotifyWrite (s : State) : Out :=
  let q := s.inp.queue
  let x := s.queue q
  let tail := s.inp.value % 2 ^ 32
  .next (if !s.dev.ready || 4096 ≤ q || s.inp.len != 8 || !x.en || x.err || s.inp.port != qOwner x.ctl
      || (s.inp.fn != 0 && s.inp.fn != qFn x.ctl) then s
    else
      let s := s.setQueue q { x with tail := tail, pend := x.pend || x.hold == 0 }
      if 2 ^ qLog x.ctl < (tail + 2 ^ 32 - x.head) % 2 ^ 32 && !(s.xi.serving && s.xi.nowQueue == q && !s.xi.now.isEmpty) then
        s.queueError q 7 0
      else s)

/-! ### Packet headers (spec/14 R374, R375) -/

/-- CRC-8 with polynomial 0x07. -/
def crc8 (bs : List Byte) : Nat :=
  bs.foldl (fun c b => (upTo 8).foldl (fun x _ => if 128 ≤ x then (x * 2 % 256) ^^^ 7 else x * 2) (c ^^^ b.toNat)) 0

def pkType (w : Nat) : Nat := bits w 7 0
def pkSlots (w : Nat) : Nat := bits w 11 8 + 1
def pkIrq (w : Nat) : Bool := bit w 13
def pkBarr (w : Nat) : Bool := bit w 14
def pkSeq (w : Nat) : Nat := bits w 31 16

/-- The most slots a packet of a type has. -/
def maxSlots (t : Nat) : Nat := if t == 1 then 16 else if t == 2 then 2 else 1

/-- What a serving of queue `q` finds next. -/
inductive Seen where
  /-- The service ends; the pending bit is set again or not. -/
  | stop (again : Bool)
  | bad (code hdr : Nat)
  | hold
  | diverge
  | take (words : List Nat)

/-- The next packet of queue `q`, with the checks of R382 in order.  A port that is down holds its queues (R384); the read of a slot that
was under way when it went down (`flag`) fails. -/
def State.seePacket (s : State) (q : Nat) : Seen :=
  let x := s.queue q
  let avail := (x.tail + 2 ^ 32 - x.head) % 2 ^ 32
  let slot := x.head % 2 ^ qLog x.ctl
  if !x.en || x.err || x.hold != 0 || avail == 0 then .stop false
  else if s.down.contains (qOwner x.ctl) then (if s.inp.flag then .bad 8 0 else .stop true)
  else if 2 ^ qLog x.ctl < avail then .bad 7 0
  else match s.ringRead x (x.base + 64 * slot) 64 with
    | none => .bad 8 0
    | some h =>
      let w := h % 2 ^ 64
      let n := pkSlots w
      if bits w 63 56 != crc8 (bytesOf 7 w) then .bad 1 w
      else if bit w 12 || bit w 15 || bits w 55 32 != 0 then .bad 2 w
      else if pkType w == 0 || 9 < pkType w then .bad 4 w
      else if maxSlots (pkType w) < n then .bad 5 w
      else if pkSeq w != x.seq then .bad 3 w
      else if 2 ^ qLog x.ctl < slot + n then .bad 6 w
      else if avail < n then .stop false
      else if 16 < s.xi.accepted + n then .stop true
      else if pkBarr w && s.xi.open_.any (fun p => p.queue == q) then .hold
      else if s.recFull then .stop true
      else if s.replaying && s.recEntry 0 != recPacket q (pkSeq w) then
        (if s.recKind == 1 && bits (s.recEntry 0) 19 8 == q then .diverge else .stop true)
      else match s.ringRead x (x.base + 64 * slot) (64 * n) with
        | none => .bad 8 0
        | some v => .take ((upTo (8 * n)).map (word64 v))

/-! ### The scanner (spec/14 R373, R384, R391) -/

/-- Whether no packet may be fetched: a checkpoint or an update has stopped acceptance. -/
def State.xiQuiet (s : State) : Bool := s.xi.quiet || s.xi.upst == 3

/-- The service of the present queue ends. -/
def State.endService (s : State) (again : Bool) : State :=
  let q := s.xi.nowQueue
  let x := s.queue q
  let s := s.setQueue q { x with pend := x.pend || again }
  { s with xi := { s.xi with serving := false, scan := (q + 1) % 4096, accepted := 0 } }

/-- The queue the scanner serves next: the first set bit at or after the start position, cyclically; under replay the queue
that the next entry names. -/
def State.nextQueue (s : State) : Option Nat :=
  let l := (s.xi.queues.filter fun q => q.2.pend && !s.down.contains (qOwner q.2.ctl)).map (·.1)
  if s.replaying then l.find? fun q => s.recKind == 1 && bits (s.recEntry 0) 19 8 == q
  else match l.find? fun q => s.xi.scan ≤ q with
    | some q => some q
    | none => l.head?

/-- Begin to serve a queue: its bit is cleared first. -/
def State.beginService (s : State) (q : Nat) : State :=
  let s := s.setQueue q { s.queue q with pend := false }
  { s with xi := { s.xi with serving := true, nowQueue := q, accepted := 0 } }

/-- Fetch the next packet of the queue being served. -/
def State.fetchPacket (s : State) : State :=
  let q := s.xi.nowQueue
  match s.seePacket q with
  | .stop again => s.endService again
  | .bad code h => (s.queueError q code h).endService false
  | .hold => (s.setQueue q { s.queue q with hold := 3 }).endService false
  | .diverge => s.diverge.endService true
  | .take ws => { s with xi := { s.xi with now := ws } }

/-- SCANNER_STEP (spec/14 R373): the scanner fetches and checks the next packet, of the queue it serves or of the next pending
one.  The packet is carried out by its own step. -/
def execScannerStep (s : State) : Out :=
  .next (if !s.xi.now.isEmpty || s.xiQuiet then s
    else if s.xi.serving then s.fetchPacket
    else match s.nextQueue with
      | none => s
      | some q => (s.beginService q).fetchPacket)

/-! ### Acceptance (spec/14 R379 to R381) -/

/-- The packet being carried out, if it has type `t` and the record allows its acceptance. -/
def State.packet (s : State) (t : Nat) : Option (List Nat) :=
  match s.xi.now with
  | [] => none
  | w :: r => if pkType w == t && s.recAllows (recPacket s.xi.nowQueue (pkSeq w)) then some (w :: r) else none

/-- Accept a packet of queue `q` with header `w`: it completes at once, or stays open. -/
def State.accept (s : State) (q w presult : Nat) (open_ : Option Packet) : State :=
  let s := s.recEvent (recPacket q (pkSeq w)) 0 0 0
  let x := s.queue q
  let s := (s.setQueue q { x with
    head := (x.head + pkSlots w) % 2 ^ 32, seq := (pkSeq w + 1) % 2 ^ 16, presult := presult
    nfail := (x.nfail + b2n (presult != 0)) % 2 ^ 64, hold := 0, words := [], pend := x.pend || x.hold != 0 }).writeStatus q
  let s := match open_ with
    | some p => { s with xi := { s.xi with open_ := s.xi.open_ ++ [{ p with queue := q, type := pkType w, irq := pkIrq w }] } }
    | none => if pkIrq w || presult != 0 then s.sendMsix x.ctl else s
  if x.closing then s.setQueue q (s.queue q).disabled else s

/-- Accept the packet being carried out. -/
def State.acceptNow (s : State) (presult : Nat) (open_ : Option Packet) : State :=
  let w := s.xi.now.headD 0
  let s := s.accept s.xi.nowQueue w presult open_
  { s with xi := { s.xi with now := [], accepted := s.xi.accepted + pkSlots w } }

/-- Hold the queue of the packet being carried out: its bit stays clear until the hold ends. -/
def State.holdNow (s : State) (why : Nat) (words : List Nat) : State :=
  let q := s.xi.nowQueue
  let x := s.queue q
  let x := { x with hold := why, words := words, pend := false }
  let s := s.setQueue q (if x.closing then x.disabled else x)
  { s with xi := { s.xi with now := [] } }.endService false

/-- QCTL of the packet's queue. -/
def State.nowCtl (s : State) : Nat := (s.queue s.xi.nowQueue).ctl

/-- Whether the queue is not allowed to send a packet of type `t` whose word 1 is `w1` (spec/14 R375). -/
def notAllowed (ctl t w1 : Nat) : Bool :=
  (7 ≤ t && !qPriv ctl) || (t == 9 && qFn ctl != 0) || ((t == 5 || t == 6) && qFn ctl != 0 && bits w1 9 0 != qAsid ctl)

/-- The bits of payload word `i` that the table names. -/
def namedBits (t slots w1 i : Nat) : Nat :=
  let all := 2 ^ 64 - 1
  let row := fun (l : List Nat) => l.getD (i - 1) 0
  match t with
  | 2 => if i == 1 then (if slots == 1 then 0xFFF else 0xFFFFF) else if 8 ≤ i && bit w1 (12 + i - 8) then all else 0
  | 3 => row [all, all, 0xF1]
  | 4 => row [all, all]
  | 5 => row [0x3FF, all, all]
  | 6 => row [0xFFF, all]
  | 7 => row [3, all, 0x1F]
  | 8 => row [all, all, all]
  | 9 => row [1]
  | _ => all

/-- Whether a payload sets a bit that its row does not name. -/
def unnamed (ws : List Nat) : Bool :=
  let h := ws.headD 0
  (upTo ws.length).any fun i => i != 0 && ws.getD i 0 &&& namedBits (pkType h) (pkSlots h) (ws.getD 1 0) i != ws.getD i 0

/-- PRESULT 5 or 1 of a packet before its own checks; 0 where neither holds. -/
def State.refusal (s : State) (ws : List Nat) (bad : Bool) : Nat :=
  if notAllowed s.nowCtl (pkType (ws.headD 0)) (ws.getD 1 0) then 5 else if unnamed ws || bad then 1 else 0

/-! ### NOP, ARM, SIGNAL, WAIT (spec/14 R376, R378) -/

/-- NOP (spec/14 R375). -/
def execNop (s : State) : Out :=
  .next (match s.packet 1 with
    | none => s
    | some _ => s.acceptNow 0 none)

/-- What an ARM comes to: a PRESULT, a hold, or the record armed. -/
inductive Armed where
  | fails (presult : Nat)
  | full
  | done (s : State)

/-- The checks of ARM in order, and its effect. -/
def State.armPacket (s : State) (ws : List Nat) : Armed :=
  let asid := qAsid s.nowCtl
  let w1 := ws.getD 1 0
  let i := bits w1 11 0
  let slots := (upTo 8).filter fun k => bit w1 (12 + k)
  let a := s.lrAddr asid i
  if s.refusal ws false != 0 then .fails (s.refusal ws false)
  else if (s.ctx asid).held != 0 then .fails 4
  else if s.ctxWord asid 0x28 ≤ i then .fails 2
  else match s.kRead asid a 128 with
    | .error _ => .fails 8
    | .ok r =>
      let slotOf := fun (k : Nat) => bits r (704 + 16 * k + 15) (704 + 16 * k)
      let width := fun (k : Nat) => bits (slotOf k) 15 10 + 1
      let r' := slots.foldl (fun r k =>
        patched r (64 * bits (slotOf k) 3 0 + bits (slotOf k) 9 4) (width k) (ws.getD (8 + k) 0)) r
      let patchWord := fun (s : Except Nat State) (k : Nat) => match s with
        | .error c => .error c
        | .ok s => s.kWrite asid (a + 8 * bits (slotOf k) 3 0) (bytesOf 8 (word64 r' (bits (slotOf k) 3 0)))
      match slots.foldl patchWord (.ok s) with
      | .error _ => .fails 8
      | .ok s' =>
        if (s.lrec asid i).state != 0 then .fails 3
        else if slots.any fun k => !slotDeclared r (slotOf k) || 2 ^ width k ≤ ws.getD (8 + k) 0 then .fails 1
        else if headerBad r' then .fails 6
        else if s.tierFull 0 then .full
        else .done (s'.arm asid i 0 r' (qPriv s.nowCtl))

/-- ARM (spec/14 R376). -/
def execArm (s : State) : Out :=
  .next (match s.packet 2 with
    | none => s
    | some ws => match s.armPacket ws with
      | .fails p => s.acceptNow p none
      | .full => s.holdNow 2 []
      | .done s' => s'.acceptNow 0 (some { asid := qAsid s.nowCtl, lrec := bits (ws.getD 1 0) 11 0 }))

/-- SIGNAL (spec/14 R376): the write or the add, indivisible at the home, with its release at SCOPE of what has been performed for the
package (R380); it waits while an engine owns the row. -/
def execSignal (s : State) : Out :=
  .next (match s.packet 3 with
    | none => s
    | some ws =>
      let asid := qAsid s.nowCtl
      let va := ws.getD 1 0
      let w3 := ws.getD 3 0
      let bad := va % 8 != 0 || bits w3 7 4 < 7 || 10 < bits w3 7 4
      if s.refusal ws bad != 0 then s.acceptNow (s.refusal ws bad) none
      else if (s.ctx asid).held == 2 then s.acceptNow 8 none
      else match s.keysOf (kWho asid) va (if bit w3 0 then .atomic else .write) 8 with
        | .error _ => s.acceptNow 8 none
        | .ok ls =>
          if (bit w3 0 && ls.any fun l => s.readBad l 1) || s.writeBad ls then s.acceptNow 8 none
          else if ls.any fun l => s.owned l.key then s.wantAny (ls.map (·.key))
          else
            let old := ofBytes (ls.map fun l => Mem.read s.mem l.key)
            let v := if bit w3 0 then old + ws.getD 2 0 else ws.getD 2 0
            (s.performFor (s.sysRel (bits w3 7 4)) (ls.zipWith (fun l b => (l.key, b)) (bytesOf 8 v))).acceptNow 0 none)

/-- What a WAIT's read finds: a PRESULT, or that it holds on. -/
def State.waitRead (s : State) (asid : Nat) (ws : List Nat) : Option Nat :=
  if (s.ctx asid).held == 2 then some 8
  else match s.kRead asid (ws.getD 1 0) 8 with
    | .error _ => some 8
    | .ok v => if ws.getD 2 0 ≤ v then some 0 else none

/-- WAIT (spec/14 R378): accepted if its first read finds the word at the threshold, otherwise it holds its queue. -/
def execWait (s : State) : Out :=
  .next (match s.packet 4 with
    | none => s
    | some ws =>
      let bad := ws.getD 1 0 % 8 != 0
      if s.refusal ws bad != 0 then s.acceptNow (s.refusal ws bad) none
      else match s.waitRead (qAsid s.nowCtl) ws with
        | some p => s.acceptNow p none
        | none => s.holdNow 1 ws)

/-- WAIT_POLL (spec/14 R378): the WAIT that holds queue `queue` reads its word again. -/
def execWaitPoll (s : State) : Out :=
  let q := s.inp.queue
  let x := s.queue q
  let w := x.words.headD 0
  .next (if x.hold != 1 || s.xiQuiet || s.down.contains (qOwner x.ctl) || !s.recAllows (recPacket q (pkSeq w)) then s
    else match s.waitRead (qAsid x.ctl) x.words with
      | some p => s.accept q w p none
      | none => s)

/-! ### INVAL and CTX (spec/14 R376, R377) -/

/-- INVAL (spec/14 R376): accepted, and completed when the translations have been dropped. -/
def execInval (s : State) : Out :=
  .next (match s.packet 5 with
    | none => s
    | some ws =>
      let lo := ws.getD 2 0
      let n := ws.getD 3 0
      let bad := lo % 4096 != 0 || n % 4096 != 0 || n < 4096
      if s.refusal ws bad != 0 then s.acceptNow (s.refusal ws bad) none
      else s.acceptNow 0 (some { asid := bits (ws.getD 1 0) 9 0, lo := lo, hi := lo + n }))

/-- The writes of a context that some agent may not see yet: of the cores and the engines that run it. -/
def State.writesOf (s : State) (asid : Nat) : View :=
  let mine := fun (a : Nat) => match agentCore a with
    | some c => (s.core c).running && (s.core c).cont.asid == asid
    | none => 1024 ≤ a && (s.engine (a - 1024)).asid == asid
  { ids := (s.hist.filter fun r => mine r.by_).map fun r => (r.id, r.id + 1) }

/-- INVAL_COMPLETE (spec/14 R376; spec/10 R296): the oldest open INVAL of context `asid` drops its translations, once no add and no
write to a peer that used one is still on its way; the context's writes are performed at DEVICE. -/
def execInvalComplete (s : State) : Out :=
  let a := s.inp.asid
  .next (match s.xi.open_.find? fun p => p.type == 5 && p.asid == a with
    | none => s
    | some p =>
      if s.engines.any fun e => e.2.inbound.any fun x => x.source < 256 && x.asid == a && p.lo ≤ x.va + 7 && x.va < p.hi then s
      else if s.dev.farWrites.any fun w => w.who.asid == a && p.lo < w.who.va + w.cells.length && w.who.va < p.hi then s
      else
        let c := s.ctx a
        let s := s.setCtx a { c with cached := c.cached.filter fun x => x.1 * 4096 + 4096 ≤ p.lo || p.hi ≤ x.1 * 4096 }
        let s := s.deviceRelease 0 (s.writesOf a)
        let first := s.xi.open_.findIdx fun x => x == p
        let s := { s with xi := { s.xi with open_ := s.xi.open_.eraseIdx first } }
        let s := { s with xi := { s.xi with open_ := { p with type := 0x100 } :: s.xi.open_ } }
        s.completePackets fun x => x.type == 0x100)

/-- `n` bytes at a device physical address; none where they cannot be read. -/
def State.physRead (s : State) (pa n : Nat) : Option (List Byte) :=
  if 2 ^ 39 < pa + n then none
  else if (upTo (ceilDiv (pa % 32 + n) 32)).any fun i =>
      let k := striped (pa / 32 * 32 + 32 * i)
      s.unbacked k || s.ueAt k 32 then none
  else some ((upTo n).map fun i => Mem.read s.mem (striped (pa + i)))

/-- The binding table of a context block (spec/04 R121). -/
def bindsOf (bs : List Byte) : Tab (BitVec 256) :=
  ((upTo 64).map fun i => (i, BitVec.ofNat 256 (ofBytes ((bs.drop (32 * i)).take 32)))).filter fun e => e.2 != 0

/-- Whether a context block is refused (spec/14 R377). -/
def blockBad (asid b : Nat) : Bool :=
  let w := word64 b
  bits b 9 0 != asid || w 1 % 4 != 0 || w 5 == 0 || 4096 < w 5 || 4095 < w 7 || w 9 < 4 || 2 ^ 24 < w 9 || w 8 % 64 != 0
    || 2 ^ 39 ≤ w 2 || 2 ^ 39 ≤ w 3

/-- Open a context with a block and a binding table (spec/10 R296; spec/13 R368). -/
def State.openCtx (s : State) (asid base : Nat) (binds : List Byte) (fresh : Bool) : State :=
  let c := s.ctx asid
  let s := { s with ks := { s.ks with rings := Tab.erase s.ks.rings asid } }
  (s.setCtx asid { held := 0, base := base, binds := bindsOf binds, cached := if fresh then [] else c.cached }).setCtxState asid 0

/-- The transition of a CTX packet: its PRESULT, and the state with the context moved. -/
def State.ctxMove (s : State) (asid new base : Nat) : Nat × State :=
  match (s.ctx asid).held, new with
  | 2, 0 =>
    if base % 4096 != 0 then (1, s)
    else match s.physRead base 0x58, s.physRead (base + 0x800) 2048 with
      | some b, some binds => if blockBad asid (ofBytes b) then (1, s) else (0, s.openCtx asid base binds true)
      | _, _ => (8, s)
  | 1, 0 => match s.physRead ((s.ctx asid).base + 0x800) 2048 with
    | some binds => (0, s.openCtx asid (s.ctx asid).base binds false)
    | none => (8, s)
  | 0, 1 => (0, s.setCtxState asid 1)
  | 1, 2 =>
    let s := (s.setCtx asid { s.ctx asid with cached := [] }).setCtxState asid 2
    (0, (s.ks.pend.filter fun p => p.asid == asid).foldl (fun s p => s.refuse p { status := 8 }) s)
  | _, _ => (4, s)

/-- CTX (spec/14 R377).  Pre-emption of a stopped context's continuations is PRE_EMPTION. -/
def execCtx (s : State) : Out :=
  .next (match s.packet 6 with
    | none => s
    | some ws =>
      let asid := bits (ws.getD 1 0) 9 0
      let new := bits (ws.getD 1 0) 11 10
      if s.refusal ws (new == 3) != 0 then s.acceptNow (s.refusal ws (new == 3)) none
      else
        let (p, s') := s.ctxMove asid new (ws.getD 2 0)
        s'.acceptNow p (if p == 0 && new == 1 then some { asid := asid } else none))

/-- Whether nothing of a context runs. -/
def State.ctxQuiet (s : State) (asid : Nat) : Bool :=
  (s.coresOf asid).isEmpty && !s.engines.any fun e => e.2.running && e.2.asid == asid

/-- CTX_STOP_COMPLETE (spec/14 R377): context `asid`. -/
def execCtxStopComplete (s : State) : Out :=
  let a := s.inp.asid
  .next (if s.ctxQuiet a then s.completePackets fun p => p.type == 6 && p.asid == a else s)

/-! ### REC (spec/14 R389) -/

/-- Start a mode in a buffer of the queue's port. -/
def State.startRec (s : State) (mode buf log q : Nat) : State :=
  let s := { s with xi := { s.xi with
    recMode := mode, recBuf := buf, recLog := log, recQueue := q, recPort := qOwner (s.queue q).ctl, recHead := 0
    recBase := s.ks.round } }
  let s := ((s.recWrite 0 (bytesOf 8 0)).recWrite 16 (bytesOf 1 0)).recWrite 24 (bytesOf 8 0)
  if mode == 2 && s.recTail == 0 then s.recStop 3 else s

/-- REC (spec/14 R389): the packet is accepted under the mode that it finds. -/
def execRecPkt (s : State) : Out :=
  .next (match s.packet 7 with
    | none => s
    | some ws =>
      let mode := bits (ws.getD 1 0) 1 0
      let buf := ws.getD 2 0
      let log := ws.getD 3 0
      let bad := mode == 3 || buf % 64 != 0 || log < 8 || 24 < log
      let q := s.xi.nowQueue
      if s.refusal ws bad != 0 then s.acceptNow (s.refusal ws bad) none
      else if mode != 0 && s.xi.recMode != 0 && s.xi.recMode != mode then s.acceptNow 4 none
      else
        let s := s.acceptNow 0 none
        if mode == 0 then { s with xi := { s.xi with recMode := 0 } } else s.startRec mode buf log q)

/-- Whether logged events wait for room: any at all, a group that is to be placed or pre-empted, or the adds that a clause performs at
once. -/
def State.recWaits (s : State) : Bool :=
  let adds := fun (t : StreamSt) => t.clause.waiting && !s.recRoom (t.clause.effs.filter fun e => match e with
    | .addNow _ _ _ _ => true
    | _ => false).length
  !s.recRoom 1 || s.queueOrder.any (fun k => !s.recRoom (s.recGroup k).length)
    || s.cores.any fun c => c.2.running
      && ((c.2.cont.ganged && !s.recRoom (s.groupCores c.1).length) || adds c.2.ss || adds c.2.sa || adds c.2.sv || adds c.2.sm)

/-- RECORD_STALL_TIMEOUT (spec/14 R389): logged events have waited 100 ms. -/
def execRecordStallTimeout (s : State) : Out := .next (if s.recWaits then s.recStop 1 else s)

/-- RECORD_TAIL_ADVANCE (spec/14 R389): the host writes `value` to TAIL of the buffer in use. -/
def execRecordTailAdvance (s : State) : Out :=
  .next (if s.xi.recMode == 0 then s else s.recWrite 8 (bytesOf 8 s.inp.value))

/-! ### UPDATE (spec/14 R386 to R388) -/

/-- The key that firmware images are verified under (spec/17 R438). -/
def State.fwKey (s : State) : List Byte :=
  match s.dev.flash.used with
  | some i => ((s.dev.flash.copies.getD i []).drop 0x30).take 32
  | none => Config.rootKey

/-- The length that an image's header states (spec/17 R438). -/
def imageLength (img : List Byte) : Nat := (Config.imgHeader img).2.2.2

/-- The image running on the active complex. -/
def State.activeImage (s : State) : List Byte := if s.xi.active == 0 then s.dev.flash.imgA else s.dev.flash.imgB

/-- UPDATE (spec/14 R387): refused at once, or accepted with its image taken for verification. -/
def execUpdate (s : State) : Out :=
  .next (match s.packet 8 with
    | none => s
    | some ws =>
      let n := ws.getD 2 0
      let bad := n == 0 || 2 ^ 26 < n
      if s.dev.idfail then s.acceptNow 7 none
      else if s.refusal ws bad != 0 then s.acceptNow (s.refusal ws bad) none
      else if s.xi.sby == 0 || s.xi.sby == 2 || (1 ≤ s.xi.upst && s.xi.upst ≤ 3) then s.acceptNow 7 none
      else match s.physRead (ws.getD 1 0) n, s.physRead (ws.getD 3 0) 64 with
        | some img, some sig =>
          let s := s.acceptNow 0 (some {})
          { s with xi := { s.xi with upst := 1, updQueue := s.xi.nowQueue, updImage := img, updSig := sig } }
        | _, _ => s.acceptNow 8 none)

/-- The update ends without a new firmware: its packet completes with PRESULT 7. -/
def State.abortUpdate (s : State) (upst sby : Nat) : State :=
  let q := s.xi.updQueue
  let x := s.queue q
  let s := (s.setQueue q { x with presult := 7, nfail := (x.nfail + 1) % 2 ^ 64 }).writeStatus q
  let s := { s with xi := { s.xi with upst := upst, sby := sby, updImage := [], updSig := [] } }
  let s := { s with xi := { s.xi with open_ := s.xi.open_.map fun (p : Packet) => if p.type == 8 then { p with irq := true } else p } }
  s.completePackets fun p => p.type == 8

/-- The update aborts after the standby has booted. -/
def State.abortLate (s : State) (upst : Nat) : State :=
  { s with free := s.free + 1 }.abortUpdate upst (if Config.standbyLost s.free then 3 else 1)

/-- UPDATE_SIGNATURE_VERIFIED (spec/14 R387 step 1; spec/17 R438): an image that has not the length of its header does not verify
(notes/assumptions/45.md). -/
def execUpdateSignatureVerified (s : State) : Out :=
  .next (if s.xi.upst != 1 then s
    else if imageLength s.xi.updImage == s.xi.updImage.length
        && Config.ed25519 s.fwKey (Config.sha512 s.xi.updImage) s.xi.updSig then { s with xi := { s.xi with upst := 2, sby := 2 } }
    else s.abortUpdate 8 s.xi.sby)

/-- UPDATE_STANDBY_READY (spec/14 R387 steps 2 and 3). -/
def execUpdateStandbyReady (s : State) : Out :=
  .next (if s.xi.upst == 2 then { s with xi := { s.xi with upst := 3 } } else s)

/-- UPDATE_STANDBY_BOOT_TIMEOUT (spec/14 R387 step 2). -/
def execUpdateStandbyBootTimeout (s : State) : Out := .next (if s.xi.upst == 2 then s.abortUpdate 10 3 else s)

/-- Whether a checkpoint holds the quiescence of an update (spec/15 R411). -/
def State.ckHolds (s : State) : Bool := s.dev.ckStatus == 1 || s.dev.ckStatus == 2

/-- UPDATE_QUIESCE_TIMEOUT (spec/14 R387 step 4; spec/15 R411). -/
def execUpdateQuiesceTimeout (s : State) : Out :=
  .next (if s.xi.upst == 3 && !s.ckHolds then s.abortLate 11 else s)

/-- UPDATE_FLIP (spec/14 R387 steps 4 and 5): the standby imports the state table, or refuses its version. -/
def execUpdateFlip (s : State) : Out :=
  let h := Config.imgHeader s.xi.updImage
  let v := Config.stateVersion s.activeImage
  .next (if s.xi.upst != 3 || !s.xi.now.isEmpty || s.ckHolds then s
    else if v < h.2.1 || h.2.2.1 < v then s.abortLate 9
    else
      let img := s.xi.updImage
      let s := { s with
        xi := { s.xi with
          active := 1 - s.xi.active, gen := (s.xi.gen + 1) % 2 ^ 32, upst := 4, sby := 1, imgver := h.1 % 2 ^ 16
          updImage := [], updSig := [] }
        dev := { s.dev with flash := { s.dev.flash with imgA := img, imgB := img } } }
      s.completePackets fun p => p.type == 8)

/-- XIOST_WATCHDOG_FAILOVER (spec/14 R388; spec/17 R439): the failed complex runs no image. -/
def execXiostWatchdogFailover (s : State) : Out :=
  .next (if s.xi.sby != 1 then s
    else
      let f := s.dev.flash
      let flash := if s.xi.active == 0 then { f with imgA := [] } else { f with imgB := [] }
      let s := { s with
        xi := { s.xi with active := 1 - s.xi.active, gen := (s.xi.gen + 1) % 2 ^ 32, sby := 3 }
        dev := { s.dev with flash := flash } }
      { s with xi := { s.xi with imgver := (Config.imgHeader s.activeImage).1 % 2 ^ 16 } })

/-! ### OWN (spec/14 R385) -/

/-- Take one queue over for port `p`: a ring in the lost host's memory puts it into error state.  Xiost writes the status block and
sends its interrupt only for an enabled queue (spec/14 R371). -/
def State.takeOver (s : State) (q p : Nat) : State :=
  let x := s.queue q
  let moved := fun (x : Queue) => { x with ctl := x.ctl - bits x.ctl 29 29 * 2 ^ 29 + p * 2 ^ 29 }
  if qLoc x.ctl == 0 then
    let s := s.setQueue q { x with err := true, ecode := 9, ehdr := 0, epos := x.head, pend := false, hold := 0, words := [] }
    let s := if x.en then s.writeStatus q else s
    let s := s.setQueue q (moved (s.queue q))
    if x.en then s.sendMsix (moved x).ctl else s
  else s.setQueue q (moved x)

/-- OWN (spec/14 R385): port `w1` of the packet loses its queues to the port of the packet's queue. -/
def execOwn (s : State) : Out :=
  .next (match s.packet 9 with
    | none => s
    | some ws =>
      let old := bits (ws.getD 1 0) 0 0
      let p := qOwner s.nowCtl
      if s.refusal ws (old == p) != 0 then s.acceptNow (s.refusal ws (old == p)) none
      else
        let qs := (upTo 4096).filter fun q => qOwner (s.queue q).ctl == old
        (qs.foldl (fun s q => s.takeOver q p) s).acceptNow 0 none)

/-! ### Host links (spec/14 R384) -/

def State.setLink (s : State) (k : Nat) (l : Link) : State := { s with dev := { s.dev with links := Tab.set s.dev.links k l } }

/-- HOST_LINK_DOWN (spec/14 R384; spec/16 R418): port `port`, for reason `code`. -/
def execHostLinkDown (s : State) : Out :=
  let p := s.inp.port
  .next (if 2 ≤ p then s
    else { s with down := if s.down.contains p then s.down else p :: s.down }.setLink p { reason := s.inp.code % 6 })

/-- HOST_LINK_UP (spec/14 R384; spec/16 R419): port `port` with `value` lanes. -/
def execHostLinkUp (s : State) : Out :=
  let p := s.inp.port
  .next (if 2 ≤ p || !(List.contains [1, 2, 4, 8] s.inp.value) then s
    else { s with down := s.down.filter (· != p) }.setLink p { state := 2, width := s.inp.value })

end Sys2Proof.Machine
end

