-- ==== Sys2Proof/Machine/Ras.lean ====
section
/-! DEFINITION. Error counters and their policy, per-core reset, and checkpoints (spec/15 R394, R395, R402 to R411). -/

namespace Sys2Proof.Machine

/-! ### Per-core reset (spec/15 R402 to R404) -/

/-- A reset of core `c` begins: its continuation is evacuated by PRE_EMPTION or EVACUATION_TIMEOUT. -/
def State.startReset (s : State) (c : Nat) : State := { s with dev := { s.dev with rstBusy := true, rstCore := c } }

/-- A reset of core `c` is asked for: it waits for one that runs, and for a checkpoint's fence and stream (spec/15 R411). -/
def State.requestReset (s : State) (c : Nat) : State :=
  if 144 ≤ c then s
  else if s.dev.rstBusy || (s.ckHolds && !s.dev.ckLater) then { s with dev := { s.dev with rstLater := s.dev.rstLater ++ [c] } }
  else s.startReset c

/-- The oldest reset that waited starts. -/
def State.laterReset (s : State) : State :=
  match s.dev.rstLater with
  | c :: r => { s with dev := { s.dev with rstLater := r } }.startReset c
  | [] => s

/-- CORE_RESET (spec/15 R402): a write of CORERST with GO = 1 by the physical function of a port.  A write while BUSY = 1 is ignored. -/
def execCoreReset (s : State) : Out :=
  let v := s.inp.value
  .next (if s.dev.ready && s.inp.fn == 0 && s.inp.len == 8 && bit v 16 && !s.dev.rstBusy && bits v 7 0 < 144 then
      { s with dev := { s.dev with rstReg := bits v 7 0 } }.requestReset (bits v 7 0)
    else s)

/-- CORE_WATCHDOG_EXPIRY (spec/15 R402). -/
def execCoreWatchdogExpiry (s : State) : Out := .next (if s.dev.ready then s.requestReset s.cur.core else s)

/-- EVACUATION_TIMEOUT (spec/15 R403 step 2): the continuation, with its whole group, is evacuated without a save. -/
def execEvacuationTimeout (s : State) : Out :=
  let c := s.dev.rstCore
  .next (if s.dev.rstBusy && (s.core c).running then (s.evacuate c).keep false else s)

/-! ### Checkpoint: the fence (spec/15 R405, R406) -/

/-- A word of the descriptor in force. -/
def State.ckWord (s : State) (i : Nat) : Nat := s.dev.ckWords.getD i 0

/-- Queue pair number of Ethernet port `k` in a descriptor. -/
def descQp (ws : List Nat) (k : Nat) : Nat :=
  let w := ws.getD (3 + k / 2) 0
  if k % 2 == 0 then bits w 23 0 else bits w 47 24

/-- Entry `n` of the queue-pair table of Ethernet port `k` (spec/16 R428). -/
def State.qpAddr (s : State) (k n : Nat) : Nat := Tab.get s.dev.ethqp k 0 + 128 * n
def State.qpEntry (s : State) (k n : Nat) : Nat := s.physNow (s.qpAddr k n) 128

/-- Whether a queue pair can carry requests: VALID and READY (spec/16 R428). -/
def qpReady (e : Nat) : Bool := bit e 0 && bits e 2 1 == 1

/-- Blocks of 4 KiB that bytes fill. -/
def blocksOf (n : Nat) : Nat := ceilDiv n 4096

/-- First block of each section of an image: HBM, cores, engines, Keystone, Xiost; and the number of data blocks. -/
def State.sections (s : State) : List Nat :=
  let ks := 1 + 2 ^ 27 + 144 * 2048 + 4096
  let xi := ks + blocksOf (Config.packKs s.ks s.ctxs).length
  [1, 1 + 2 ^ 27, 1 + 2 ^ 27 + 144 * 2048, ks, xi, xi + blocksOf (Config.packXi s.xi).length]

/-- Whether an HBM block of an image holds an uncorrectable sector (spec/15 R409). -/
def State.poisoned (s : State) (j : Nat) : Bool := (upTo 16).any fun i => s.ueAt (striped (4096 * j + 256 * i)) 256

/-- Blocks of the poison list. -/
def State.poisonList (s : State) : List Nat := ((upTo (2 ^ 27)).filter s.poisoned).map (· + 1)

/-- Whether the physical function of host port `p` cannot read `n` bytes of host memory at `a`: the port is down, the host refuses a
page, or data arrives poisoned (spec/10 R298; spec/16 R421). -/
def State.hostBad (s : State) (p a n : Nat) : Bool :=
  s.ueAt (hostKey p a) n || (upTo ((n + 4095) / 4096)).any (fun i => s.refusesFn 0 (hostKey p (a + 4096 * i))) || s.refusesFn 0 (hostKey p (a + n - 1))

/-- The descriptor at CKDESC, if it is accepted (spec/15 R405): `room` is the length it must hold. -/
def State.ckDescriptor (s : State) (room : Nat) : Option (List Nat) :=
  if s.dev.ckdesc % 64 != 0 || s.hostBad s.dev.ckport s.dev.ckdesc 64 then none
  else
    let b := ofBytes (Mem.bytes s.mem (hostKey s.dev.ckport s.dev.ckdesc) 64)
    let ws := (upTo 8).map (word64 b)
    let w0 := ws.getD 0 0
    let ports := (upTo 6).filter fun k => bit w0 (8 + k)
    let linked := fun (k : Nat) => descQp ws k < 1024 && qpReady (s.qpEntry k (descQp ws k)) && (Tab.get s.dev.links (20 + k) {}).state == 2
    if bits w0 1 0 == 3 || ws.getD 2 0 < room || ws.getD 7 0 != 0 then none
    else if bits w0 1 0 == 0 && (ports.isEmpty || !ports.all linked) then none
    else some ws

/-- Whether a write of CKCTL comes from a physical function that may control checkpoints. -/
def State.mayCheckpoint (s : State) : Bool :=
  s.dev.ready && s.inp.fn == 0 && s.inp.len == 8 && s.xi.queues.any fun q => q.2.en && qPriv q.2.ctl && qOwner q.2.ctl == s.inp.port

/-- Acceptance and dispatch stop. -/
def State.beginFence (s : State) : State :=
  let s := s.tickNow
  { s with
    ks := { s.ks with halted := true }, xi := { s.xi with quiet := true }
    dev := { s.dev with ckLater := false, ckTick := s.tick } }

/-- Acceptance and dispatch go on. -/
def State.release (s : State) : State :=
  { s with ks := { s.ks with halted := false }, xi := { s.xi with quiet := false } }

/-- Whether everything stands where the fence wants it. -/
def State.fenced (s : State) : Bool :=
  s.xi.now.isEmpty && !s.dev.ckLater && s.ues.isEmpty
    && s.cores.all (fun c => !c.2.running || (s.dev.ckStop && c.2.atBoundary))
    && s.engines.all fun e => !e.2.running || e.2.atBound || e.2.stalled

/-- Streaming starts once the fence is reached. -/
def State.tryStream (s : State) : State :=
  if s.dev.ckStatus == 1 && s.fenced then { s with dev := { s.dev with ckStatus := 2 } } else s

/-- STATUS leaves fencing or streaming: cores and engines go on, and a reset that waited starts. -/
def State.endStream (s : State) (status : Nat) : State :=
  let s := { s with dev := { s.dev with ckStatus := status, ckStop := false } }
  (if s.dev.ckHold then s else s.release).laterReset

/-- HOLD and OP of a write of CKCTL; a write with OP 2 or 3 is refused (spec/15 R405). -/
def State.writeCk (s : State) (v : Nat) : State :=
  if 2 ≤ bits v 2 1 then s else { s with dev := { s.dev with ckHold := bit v 3, ckOp := bits v 2 1 } }

/-- Whether CKCTL ignores GO. -/
def State.ckBusy (s : State) : Bool := s.dev.ckStatus == 1 || s.dev.ckStatus == 2 || s.dev.ckStatus == 6

/-- CHECKPOINT_SAVE (spec/15 R405, R406, R411): CKCTL := `value` with GO = 1 and OP = 0. -/
def execCheckpointSave (s : State) : Out :=
  let v := s.inp.value
  .next (if !s.mayCheckpoint || !bit v 0 || bits v 2 1 != 0 then s
    else if s.ckBusy then s.writeCk v
    else
      let s := s.writeCk v
      let n := s.sections.getD 5 0
      match s.ckDescriptor (4104 * n + 8 * s.poisonList.length) with
      | none => { s with dev := { s.dev with ckStatus := 5 } }
      | some ws =>
        let s := { s with dev := { s.dev with
          ckStatus := 1, ckWords := ws, ckPorts := bits (ws.getD 0 0) 13 8, ckLost := []
          ckLater := s.dev.rstBusy, ckStop := false } }
        if s.dev.rstBusy then s else s.beginFence.tryStream)

/-- CHECKPOINT_FENCE_TIMEOUT (spec/15 R406): the 10 ms have passed; streaming starts when every stream stands at a boundary. -/
def execCheckpointFenceTimeout (s : State) : Out :=
  .next (if s.dev.ckStatus == 1 && !s.dev.ckLater then { s with dev := { s.dev with ckStop := true } }.tryStream else s)

/-! ### The image (spec/15 R407) -/

/-- Bytes filled up with zeros to whole blocks. -/
def padded (bs : List Byte) : List Byte := bs ++ List.replicate (4096 * blocksOf bs.length - bs.length) 0

/-- The header block. -/
def State.imageHeader (s : State) : List Byte :=
  let secs := s.sections
  let n := secs.getD 5 0
  let cores := (s.cores.filter fun c => c.2.enabled).foldl (fun a c => a + 2 ^ c.1) 0
  padded (bytesOf 8 1 ++ bytesOf 8 n ++ bytesOf 8 s.dev.ckTick ++ bytesOf 8 s.igen ++ bytesOf 32 cores
    ++ (upTo 8).flatMap (fun i => bytesOf 8 (vget s.live i 0).toNat ++ bytesOf 8 (vget s.lost i 0).toNat)
    ++ (secs.take 5).flatMap (bytesOf 8)
    ++ bytesOf 8 (4096 * n) ++ bytesOf 8 (4104 * n + s.poisonList.length * 2 ^ 40))

/-- The image of core `c`: zeros for a disabled one, ASID 0x3FF where it holds no continuation. -/
def State.coreImage (s : State) (c : Nat) : List Byte :=
  let x := (s.core c).kept
  let y := x.cont
  let body := slotBody { core := x, scr := s.scratchOf c }
  if !x.enabled then List.replicate (2 ^ 23) 0
  else slotHeader (if x.running then y.asid else 0x3FF) y.lrec y.node c y.wid.toNat s.dev.ckTick (crc64 body).toNat x.part.toNat ++ body

/-- The image of engine `n`. -/
def State.engineImage (s : State) (n : Nat) : List Byte :=
  (bytesOf 8 (b2n (s.engine n).running) ++ Config.packEngine (s.engine n) ++ List.replicate 8192 0).take 8192

/-- The data blocks of the image. -/
def State.imageData (s : State) : List Byte :=
  s.imageHeader
    ++ (upTo (2 ^ 39)).map (fun pa => if s.unbacked (striped pa) then 0 else Mem.read s.mem (striped pa))
    ++ (upTo 144).flatMap s.coreImage ++ (upTo 2048).flatMap s.engineImage
    ++ padded (Config.packKs s.ks s.ctxs) ++ padded (Config.packXi s.xi)

/-- The CRC of block `j` of an image. -/
def blockCrc (img : List Byte) (j : Nat) : Nat := (crc64 ((img.drop (4096 * j)).take 4096)).toNat

/-- The whole image: data, sidecar, poison list. -/
def State.image (s : State) : List Byte :=
  let d := s.imageData
  d ++ (upTo (s.sections.getD 5 0)).flatMap (fun j => bytesOf 8 (blockCrc d j)) ++ s.poisonList.flatMap (bytesOf 8)

/-- The Ethernet port that carries block `j`: the j-th used one, cyclically; for a port lost before the block was sent, the j-th of
those that are left (spec/15 R408, R409; notes/assumptions/21.md). -/
def State.blockPort (s : State) (j : Nat) : Nat :=
  let used := (upTo 6).filter fun k => bit (s.ckWord 0) (8 + k)
  let gone := (s.dev.ckLost.filter fun x => x.1 ≤ j).map (·.2)
  let p := used.getD (j % used.length) 0
  let left := used.filter fun k => !gone.contains k
  if gone.contains p then left.getD (j % left.length) 0 else p

/-- The RDMA writes that carry an image over Ethernet: port, queue pair, remote address, remote key, bytes. -/
def State.ethBlocks (s : State) (img : List Byte) : List (List Nat) :=
  (chunks 4096 img.length img).zipIdx.map fun x =>
    let p := s.blockPort x.2
    [1, p, descQp s.dev.ckWords p, s.ckWord 1 + 4096 * x.2, bits (s.ckWord 6) 31 0] ++ x.1.map (·.toNat)

/-- CHECKPOINT_STREAM_DONE (spec/15 R408): the image stands at its base in a host's memory, or has gone out over Ethernet. -/
def execCheckpointStreamDone (s : State) : Out :=
  let t := bits (s.ckWord 0) 1 0
  .next (if s.dev.ckStatus != 2 || (t != 0 && s.down.contains (t - 1)) then s
    else
      let s := { s with dev := { s.dev with npoison := s.poisonList.length % 2 ^ 32 } }
      let s := if t == 0 then { s with dev := { s.dev with out := (s.ethBlocks s.image).reverse ++ s.dev.out } }
        else s.perform (cellsAt (hostKey (t - 1) (s.ckWord 1)) s.image)
      s.endStream 3)

/-- CHECKPOINT_PORT_LOST (spec/15 R409): Ethernet port `port`, or the PCI Express port of the image, is lost after `value` blocks. -/
def execCheckpointPortLost (s : State) : Out :=
  let t := bits (s.ckWord 0) 1 0
  let left := s.dev.ckPorts &&& (63 - 2 ^ (s.inp.port % 6))
  .next (if s.dev.ckStatus != 2 then s
    else if t == 0 then
      (let s := { s with dev := { s.dev with ckPorts := left, ckLost := s.dev.ckLost ++ [(s.inp.value, s.inp.port % 6)] } }
       if left == 0 then s.endStream 4 else s)
    else if s.inp.port == t - 1 then s.endStream 4 else s)

/-- CHECKPOINT_RESUME (spec/15 R405, R408): a write of CKCTL with RESUME = 1 releases a held dispatch. -/
def execCheckpointResume (s : State) : Out :=
  .next (if !s.mayCheckpoint || !bit s.inp.value 4 || 2 ≤ bits s.inp.value 2 1 then s
    else if s.ckBusy then s.writeCk s.inp.value
    else (s.writeCk s.inp.value).release)

/-! ### Restore (spec/15 R410) -/

/-- Byte `o` of the image that a restore reads: from the host's memory, or as the remote side answers. -/
def State.srcByte (s : State) (o : Nat) : Byte :=
  let t := bits (s.ckWord 0) 1 0
  if t == 0 then s.inp.bytes.getD o 0 else Mem.read s.mem (hostKey (t - 1) (s.ckWord 1 + o))

/-- A number in that image, and a range of its bytes. -/
def State.srcNum (s : State) (o n : Nat) : Nat := ofBytes ((upTo n).map fun i => s.srcByte (o + i))
def State.srcBytes (s : State) (o n : Nat) : List Byte := (upTo n).map fun i => s.srcByte (o + i)

/-- Whether bytes of that image cannot be read. -/
def State.srcBad (s : State) (o n : Nat) : Bool :=
  let t := bits (s.ckWord 0) 1 0
  t != 0 && s.hostBad (t - 1) (s.ckWord 1 + o) n

/-- First block of section `i` of the image: 0 HBM, 1 cores, 2 engines, 3 Keystone, 4 Xiost, 5 the end. -/
def State.srcSection (s : State) (i : Nat) : Nat := if i == 5 then s.srcNum 8 8 else s.srcNum (192 + 8 * i) 8

/-- Keystone's and Xiost's sections. -/
def State.srcKs (s : State) : Option (Keystone × Tab Ctx) :=
  Config.unpackKs (s.srcBytes (4096 * s.srcSection 3) (4096 * (s.srcSection 4 - s.srcSection 3)))
def State.srcXi (s : State) : Option Xiost :=
  Config.unpackXi (s.srcBytes (4096 * s.srcSection 4) (4096 * (s.srcSection 5 - s.srcSection 4)))

/-- Whether the image is refused before any block is written. -/
def State.restoreRefused (s : State) : Bool :=
  s.ctxs.any (fun c => c.2.held == 0) || s.srcNum 0 8 % 2 ^ 16 != 1 || s.srcKs.isNone || s.srcXi.isNone
    || (upTo 512).any fun i => !bit (s.srcNum (64 + 16 * (i / 64) + 8) 8) (i % 64) && s.pcLost i

/-- CHECKPOINT_RESTORE (spec/15 R405, R410): CKCTL := `value` with GO = 1 and OP = 1.  A header block that cannot be read stops the
restore as any block does, once it has begun. -/
def execCheckpointRestore (s : State) : Out :=
  let v := s.inp.value
  .next (if !s.mayCheckpoint || !bit v 0 || bits v 2 1 != 1 then s
    else if s.ckBusy then s.writeCk v
    else
      let s := s.writeCk v
      match s.ckDescriptor 0 with
      | none => { s with dev := { s.dev with ckStatus := 5 } }
      | some ws =>
        let s := { s with dev := { s.dev with ckWords := ws, ckPorts := bits (ws.getD 0 0) 13 8 } }
        if s.srcBad 0 4096 then { s with dev := { s.dev with ckStatus := 6 } }
        else if ws.getD 2 0 < 4104 * s.srcSection 5 + 8 * bits (s.srcNum 240 8) 63 40 then { s with dev := { s.dev with ckStatus := 5 } }
        else if s.restoreRefused then { s with dev := { s.dev with ckStatus := 7 } }
        else { s with dev := { s.dev with ckStatus := 6 } })

/-- The first block whose CRC differs, or that cannot be read. -/
def State.badBlock (s : State) : Nat :=
  let n := s.srcSection 5
  if s.srcBad 0 4096 then 0
  else ((upTo n).find? fun j =>
    s.srcBad (4096 * j) 4096 || s.srcBad (s.srcNum 232 8 + 8 * j) 8
      || (crc64 (s.srcBytes (4096 * j) 4096)).toNat != s.srcNum (s.srcNum 232 8 + 8 * j) 8).getD n

/-- Blocks of the image's poison list. -/
def State.srcPoison (s : State) : List Nat :=
  let w := s.srcNum 240 8
  (upTo (bits w 63 40)).map fun i => s.srcNum (bits w 39 0 + 8 * i) 8

/-- Write HBM block `j` of the image: its sectors become correct, or uncorrectable if the image lists it. -/
def State.restoreBlock (s : State) (poison : List Nat) (j : Nat) : State :=
  let pa := 4096 * (j - s.srcSection 0)
  let live := (upTo 4096).filter fun i => !s.unbacked (striped (pa + i))
  let cells := live.map fun i => (striped (pa + i), s.srcByte (4096 * j + i))
  let secs := (cells.map fun c => c.1 / 32).eraseDups
  let ue := s.ue.filter fun u => !secs.contains u
  { s with mem := Mem.writeCells s.mem cells, hist := [], fences := [], ue := if poison.contains j then ue ++ secs else ue }

/-- The blocks of HBM below block `n`. -/
def State.restoreHbm (s : State) (n : Nat) : State :=
  let poison := s.srcPoison
  ((upTo n).filter fun j => s.srcSection 0 ≤ j && j < s.srcSection 1).foldl (fun s j => s.restoreBlock poison j) s

/-- Every context that the image holds becomes STOPPED. -/
def State.stopAll (s : State) : State :=
  s.ctxs.foldl (fun s c => if c.2.held == 2 then s else s.setCtxState c.1 1) s

/-- Engine `n` of the image: one whose pseudo-channel is not LIVE reports its instance STOPPED. -/
def State.restoreEngine (s : State) (n : Nat) : State :=
  let o := 4096 * (s.srcSection 2 + 2 * n)
  match (if s.srcNum o 8 == 1 then Config.unpackEngine (s.srcBytes o 8192) else none) with
  | none => s.setEngine n Engine.init
  | some e =>
    let s := s.setEngine n { e with running := true }
    if s.engLive n then s else s.engEnd n 8 0 0 0

/-- Core `c` of the image, in its place: the continuation whose record Keystone holds for it, or none. -/
def State.restoreFrom (s : State) (c : Nat) : State :=
  let o := 4096 * (s.srcSection 1 + 2048 * c)
  let bs := s.srcBytes o (2 ^ 23)
  let asid := slotNum bs 2 2 % 1024
  let k := (s.ks.recs.find? fun p => p.1 / 2 ^ 24 == asid && p.2.state == 2 && p.2.core == c).map (·.1)
  if slotNum bs 0 2 != 1 || asid == 0x3FF then s.freeCore c
  else match k.bind fun k => (s.graph asid (s.rec_ k).lrec).map fun g => (k, g) with
    | none => s.freeCore c
    | some (k, g) =>
      let own := (Config.unpackOwn bs).getD Core.init
      let gang := (s.recGroup k).map fun j => (s.rec_ j).core
      let x := slotCore bs own (s.contOf k (s.rec_ k) g gang) fun k => (own.strm k).pc
      let x := { x with copy := { x.copy with schedAddr := bits g.copy 375 320, schedCount := bits g.copy 382 376 } }
      s.restoreCore c x (slotScratch bs x) []

/-- The continuations that a restore puts on cores that are not enabled are evacuated without a save. -/
def State.evacDisabled (s : State) : State :=
  ((upTo 144).filter fun c => !(s.core c).enabled).foldl (fun s c => if (s.core c).running then s.evacuate c else s) s

/-- CHECKPOINT_RESTORE_DONE (spec/15 R410). -/
def execCheckpointRestoreDone (s : State) : Out :=
  .next (if s.dev.ckStatus != 6 then s
    else
      let n := s.badBlock
      let s := s.restoreHbm n
      let fail := { s with dev := { s.dev with ckStatus := 4 } }
      if s.srcBad 0 4096 || n < s.srcSection 5 then fail
      else match s.srcKs, s.srcXi with
        | some (ks, ctxs), some xi =>
          let s := { s with
            ks := { ks with halted := false }, xi := { xi with quiet := false, now := [], serving := false }
            ctxs := ctxs.map fun c => (c.1, { c.2 with cached := [] }) }
          let s := (upTo 2048).foldl State.restoreEngine s
          let s := ((upTo 144).foldl State.restoreFrom s.stopAll).evacDisabled
          { s with dev := { s.dev with ckStatus := 3 } }
        | _, _ => fail)

/-! ### The end of a reset -/

/-- CORE_RESET_DONE (spec/15 R403 steps 3 to 5): the core and its bank are initialised; `flag` where its dowel or bank fails
self-test, `value` the courses that fail. -/
def execCoreResetDone (s : State) : Out :=
  let c := s.dev.rstCore
  let x := s.core c
  .next (if !s.dev.rstBusy || x.running then s
    else
      let ok := x.enabled && !s.inp.flag
      let s := s.setCore c { Core.init with
        enabled := ok, mat := { Core.init.mat with heat := x.mat.heat, failing := s.inp.value % 16, glitch := x.mat.glitch } }
      let s := { (s.mendCore c).forget fun k => bankKey k == bankKey (scratchKey c 0) with
        mem := Mem.clear s.mem (scratchKey c 0) (scratchKey c (2 ^ 23)) }
      let s := s.fenceCourses c (s.inp.value % 16)
      let s := { s with dev := { s.dev with rstBusy := false, rstRes := if ok then 1 else 2 } }
      if s.dev.ckLater then s.beginFence.tryStream else if s.ckHolds then s else s.laterReset)

/-! ### Counters and policy (spec/15 R394, R395) -/

/-- BAR0 offsets of the counters of core `c` and pseudo-channel `i`. -/
def poolOff (c : Nat) : Nat := 0x2000 + 4 * c
def pchOff (i : Nat) : Nat := 0x2800 + 4 * i
def ueOff (i : Nat) : Nat := 0x3000 + 4 * i

def State.counter (s : State) (off : Nat) : Nat := Tab.get s.dev.counters off 0

/-- The storage of a core that an event names: part `code`, number or offset `n`.  Which register's data a word of the run pool or of
the accumulator region holds is not defined (spec/10 R285), and is free (notes/assumptions/2.md). -/
def State.storeOf (s : State) (c code n : Nat) : Store :=
  let w := n / 8 * 8
  let rf := field (s.core c).part 6 0
  match code with
  | 0 => .s (n % 32)
  | 1 => .a (n % 32)
  | 2 => .x (n % 8)
  | 3 => .d (n % 16)
  | 4 => .q (n % 16)
  | 5 => .dict (n % 1024)
  | 6 => .run (Config.freeCycles s.free % 40) (2 ^ 20 + w % ((rf - 16) * 65536))
  | 7 => .acc (Config.freeCycles s.free % 8) (rf * 65536 + w % (s.core c).accBytes)
  | 8 => .tile (n / 65536 % 16) (w % 65536)
  | 9 => .scratch (w % (s.core c).scrBytes)
  | 10 => .plane (n % 2)
  | _ => .staging

/-- Storage that has become uncorrectable (spec/15 R392): the sector of location `addr`, or host data there that a link delivers
poisoned, until a write covers it or, for a host, `flag` is clear; or part `code` of core `core`. -/
def State.decay (s : State) : State :=
  let u := s.inp.addr / 32
  let c := s.cur.core
  if s.inp.fn == 4 then
    (if hostSector u then { s with ue := if s.inp.flag then u :: s.ue.filter (· != u) else s.ue.filter (· != u) }
     else if isHbm s.inp.addr && !s.unbacked s.inp.addr then { s with ue := u :: s.ue.filter (· != u) }
     else s)
  else if 144 ≤ c then s
  else { s with flaws := s.flaws ++ [{ core := c, store := s.storeOf c s.inp.code s.inp.ident }] }

/-- RAS_POLICY_TRIGGER (spec/15 R392, R394, R395): `value` more errors of kind `fn` are counted (1 symbol corrections of the
pseudo-channel, 2 corrections of the pool of core `core`); kind 0 is the sector at `addr` that Keystone or Xiost met, 3 none; `len` is the growth within the last
hour.  A threshold retires or resets where RASPOL says so.  Kinds 4 and 5 are errors as they arise in memory and in a core. -/
def execRasPolicyTrigger (s : State) : Out :=
  let i := s.inpPc
  let c := s.cur.core
  let grown := fun (s : State) (off n : Nat) => n ≤ s.inp.len && n ≤ s.counter off
  .next (if !s.dev.ready then s
    else match s.inp.fn with
    | 0 =>
      let s := s.meet s.inp.addr
      if i < 512 && s.dev.autopc && 16 ≤ s.counter (ueOff i) then s.retirePc i else s
    | 1 =>
      if 512 ≤ i then s
      else
        let s := s.count (pchOff i) s.inp.value
        if s.dev.autopc && grown s (pchOff i) (2 ^ 20) then s.retirePc i else s
    | 2 =>
      if 144 ≤ c then s
      else
        let s := s.count (poolOff c) s.inp.value
        if s.dev.autocore && grown s (poolOff c) (2 ^ 16) then s.requestReset c else s
    | 3 => if s.dev.autocore && 2 ≤ popCount 4 (s.core c).mat.fenced then s.requestReset c else s
    | _ => s.decay)

end Sys2Proof.Machine
end

