-- ==== Sys2Proof/Machine/Fabric.lean ====
section
/-! DEFINITION. What hosts and peers do to the package: BAR0 and BAR2, Function Level Resets, links, Vomel flits and accesses
from peers (spec/15 R394; spec/16 R415 to R426). -/

namespace Sys2Proof.Machine

/-- Something leaves the package: a tag and what it carries. -/
def State.send (s : State) (l : List Nat) : State := { s with dev := { s.dev with out := l :: s.dev.out } }

/-! ### BAR0 reads (spec/16 R417, R418) -/

/-- Two 4-byte counters as one aligned 8-byte word. -/
def State.twoCounters (s : State) (o : Nat) : Nat := s.counter o + s.counter (o + 4) * 2 ^ 32

/-- DEVSTAT (spec/17 R433), XIOST_ACTIVE (spec/14 R386), CORERST (spec/15 R402), CKCTL (R405). -/
def State.devstat (s : State) : Nat :=
  let d := s.dev
  d.phase + b2n d.idfail * 8 + b2n d.recok * 16 + b2n d.therm * 32 + b2n d.ready * 64 + d.failCode * 2 ^ 16 + d.ncores * 2 ^ 24
def State.xiostActive (s : State) : Nat :=
  let x := s.xi
  x.active + x.sby * 2 ^ 4 + x.upst * 2 ^ 8 + x.imgver * 2 ^ 16 + x.gen * 2 ^ 32
def State.corerst (s : State) : Nat := s.dev.rstReg + b2n s.dev.rstBusy * 2 ^ 17 + s.dev.rstRes * 2 ^ 18
def State.ckctl (s : State) : Nat :=
  s.dev.ckOp * 2 + b2n s.dev.ckHold * 8 + s.dev.ckStatus * 2 ^ 5 + s.dev.npoison * 2 ^ 8

/-- CORESTAT (spec/16 R415). -/
def State.corestat (s : State) : Nat := (s.cores.filter fun c => c.2.enabled && c.1 < 144).foldl (fun a c => a + 2 ^ c.1) 0

/-- QCTL as it reads (spec/14 R370). -/
def Queue.qctl (x : Queue) : Nat := x.ctl + b2n x.err * 2 + b2n x.en

/-- ILVCTL and ILVSTK (spec/12 R337), at an aligned offset from 0x1010. -/
def State.ilvWord (s : State) (o : Nat) : Nat :=
  if o == 0x1010 then s.igen + b2n s.migrating * 2 ^ 16
  else if (o - 0x1020) % 16 == 0 then (vget s.live ((o - 0x1020) / 16) 0).toNat
  else (vget s.lost ((o - 0x1020) / 16) 0).toNat

/-- Half `h` of a window as it reads: reserved bits are zero (spec/01 R5; spec/16 R426). -/
def vinRead (w h : Nat) : Nat := if h == 0 then word64 w 0 % 2 ^ 50 else word64 w 1 % 2 ^ 39

/-- The 8-byte word of BAR0 at an aligned offset, as a physical function of port `p` reads it. -/
def State.barWord (s : State) (p o : Nat) : Nat :=
  let within := fun (lo n : Nat) => lo ≤ o && o < lo + n
  if o == 0 then s.devstat
  else if o == 0x1010 || within 0x1020 128 then s.ilvWord o
  else if within 0x1200 32 then word64 s.corestat ((o - 0x1200) / 8)
  else if !s.dev.ready then
    (if o == 0x1000 then s.xi.imgver * 2 ^ 16 else if o == 0x1108 then 3 else if o == 0x1220 then 0xFF else if within 0x4000 2048 then 2 ^ 64 - 1 else 0)
  else if o == 0x1000 then s.xiostActive
  else if o == 0x1008 then b2n s.ks.tslice
  else if o == 0x1100 then s.corerst
  else if o == 0x1108 then b2n s.dev.autocore + 2 * b2n s.dev.autopc
  else if o == 0x1110 then s.dev.ckdesc
  else if o == 0x1118 then s.ckctl
  else if o == 0x1220 then s.dev.vself
  else if within 0x1300 208 then
    (let l := Tab.get s.dev.links ((o - 0x1300) / 8) {}
     l.state + l.width * 16 + l.reason * 256)
  else if within 0x1400 256 then vinRead (Tab.get s.dev.vinwin ((o - 0x1400) / 16) 0) ((o - 0x1400) / 8 % 2)
  else if within 0x1500 48 then Tab.get s.dev.ethqp ((o - 0x1500) / 8) 0
  else if within 0x2000 0x1850 then s.twoCounters o
  else if within 0x4000 2048 then
    (if (o - 0x4000) / 1024 == p then ofBytes ((upTo 8).map fun i => BitVec.ofNat 8 (s.asidFn p ((o - 0x4000) % 1024 + i))) else 0)
  else if within 0x8000 8192 then
    (let r := s.ring ((o - 0x8000) / 8)
     b2n r.bad + r.lost * 2 ^ 32)
  else if within 0x100000 0x20000 then
    (let x := s.queue ((o - 0x100000) / 32)
     let i := (o - 0x100000) % 32
     if i == 0 then x.base / 64 * 64 else if i == 8 then x.sbase / 64 * 64 else if i == 16 then x.qctl else 0)
  else 0

/-- A read of `n` bytes of BAR0. -/
def State.barRead (s : State) (p o n : Nat) : Nat :=
  ofBytes ((upTo n).map fun i => BitVec.ofNat 8 (s.barWord p ((o + i) / 8 * 8) / 256 ^ ((o + i) % 8)))

/-! ### BAR0 writes (spec/16 R417) -/

/-- A write of QCTL (spec/14 R370): enabled queues take only EN := 0. -/
def State.qctlWrite (s : State) (q v : Nat) : State :=
  if !(s.queue q).en then s.writeCtl q v else if bit v 0 then s else s.disable q

/-- Replace one 8-byte half of a 16-byte register. -/
def setHalf (old i v : Nat) : Nat := if i == 0 then old / 2 ^ 64 * 2 ^ 64 + v else old % 2 ^ 64 + v * 2 ^ 64

/-- An 8-byte write at offset `o` by the physical function of port `p`. -/
def State.barWrite (s : State) (p o v : Nat) : State :=
  let v := v % 2 ^ 64
  let within := fun (lo n : Nat) => lo ≤ o && o < lo + n
  if o == 0x1008 then { s with ks := { s.ks with tslice := bit v 0 } }
  else if o == 0x1100 then (if s.dev.rstBusy || 143 < bits v 7 0 then s else { s with dev := { s.dev with rstReg := bits v 7 0 } })
  else if o == 0x1108 then { s with dev := { s.dev with autopc := bit v 1, autocore := bit v 0 } }
  else if o == 0x1110 then (if s.mayCheckpoint then { s with dev := { s.dev with ckdesc := v, ckport := p } } else s)
  else if o == 0x1118 then (if s.mayCheckpoint then s.writeCk v else s)
  else if within 0x1400 256 then
    (let k := (o - 0x1400) / 16
     { s with dev := { s.dev with vinwin := Tab.set s.dev.vinwin k (setHalf (Tab.get s.dev.vinwin k 0) ((o - 0x1400) / 8 % 2) v) } })
  else if within 0x1500 48 then { s with dev := { s.dev with ethqp := Tab.set s.dev.ethqp ((o - 0x1500) / 8) v } }
  else if within 0x100000 0x20000 then
    (let q := (o - 0x100000) / 32
     let x := s.queue q
     let i := (o - 0x100000) % 32
     if p != qOwner x.ctl then s
     else if i == 16 then s.qctlWrite q v
     else if x.en then s
     else if i == 0 then s.setQueue q { x with base := v }
     else if i == 8 then s.setQueue q { x with sbase := v }
     else s)
  else s

/-- Whether a register event comes from the physical function of a port of a ready device. -/
def State.pfWrite (s : State) : Bool := s.dev.ready && s.inp.fn == 0 && s.inp.port < 2

/-- REGISTER_WRITE (spec/16 R417; spec/13 R362; spec/14 R370; spec/15 R395, R405): `len` bytes at offset `addr`. -/
def execRegisterWrite (s : State) : Out :=
  .next (if s.pfWrite && s.inp.len == 8 && s.inp.addr % 8 == 0 then s.barWrite s.inp.port s.inp.addr s.inp.value else s)

/-- RASCNT_CLEAR (spec/15 R394): a 4-byte write of 0 to the counter at offset `addr`. -/
def execRascntClear (s : State) : Out :=
  let o := s.inp.addr
  .next (if s.pfWrite && s.inp.len == 4 && o % 4 == 0 && s.inp.value == 0 && 0x2000 ≤ o && o < 0x3850 then
      { s with dev := { s.dev with counters := Tab.erase s.dev.counters o } }
    else s)

/-- ASIDFN_WRITE (spec/16 R420): the byte of ASID `asid` of the writing port. -/
def execAsidfnWrite (s : State) : Out :=
  let v := s.inp.value % 256
  .next (if s.pfWrite && s.inp.len == 1 && s.inp.asid < 1024 then
      { s with dev := { s.dev with asidfn := Tab.set s.dev.asidfn (s.inp.port * 1024 + s.inp.asid) (if 33 ≤ v then 0xFF else v) } }
    else s)

/-- VSELF_WRITE (spec/16 R424). -/
def execVselfWrite (s : State) : Out :=
  .next (if s.pfWrite && s.inp.len == 8 then { s with dev := { s.dev with vself := s.inp.value % 256 } } else s)

/-! ### Function Level Reset (spec/16 R422; spec/17 R434) -/

/-- Disable the queues that `p` selects. -/
def State.disableQueues (s : State) (p : Queue → Bool) : State :=
  ((s.xi.queues.filter fun q => q.2.en && p q.2).map (·.1)).foldl State.disable s

/-- OPEN contexts whose ASID belongs to function `f` of a port move to STOPPED. -/
def State.stopFunction (s : State) (port f : Nat) : State :=
  let as := (s.ctxs.filter fun c => c.2.held == 0 && s.asidFn port c.1 == f).map (·.1)
  let s := as.foldl (fun s a => s.setCtxState a 1) s
  { s with dev := { s.dev with flr := s.dev.flr ++ as.map fun a => (port * 64 + f, a) } }

/-- The configuration of a function after a reset. -/
def State.clearConfig (s : State) (port f : Nat) : State :=
  { s with dev := { s.dev with config := Tab.erase s.dev.config (port * 64 + f), atc := s.dev.atc.filter fun x => x.1 != port * 64 + f } }

/-- The reset of one virtual function. -/
def State.resetVf (s : State) (port f : Nat) : State :=
  ((s.disableQueues fun x => qOwner x.ctl == port && qFn x.ctl == f).stopFunction port f).clearConfig port f

/-- FLR_VF (spec/16 R422): virtual function `fn` of port `port`. -/
def execFlrVf (s : State) : Out :=
  .next (if s.dev.ready && s.inp.port < 2 && 1 ≤ s.inp.fn && s.inp.fn ≤ 32 then s.resetVf s.inp.port s.inp.fn else s)

/-- The reset of a physical function: every function of the port, every queue of the port, and ASIDFN (spec/16 R420). -/
def State.resetPf (s : State) (port : Nat) : State :=
  let s := (upTo 33).foldl (fun s f => s.resetVf port f) s
  let s := s.disableQueues fun x => qOwner x.ctl == port
  { s with dev := { s.dev with asidfn := s.dev.asidfn.filter fun x => x.1 / 1024 != port } }

/-- FLR_PF (spec/16 R422). -/
def execFlrPf (s : State) : Out := .next (if s.dev.ready && s.inp.port < 2 then s.resetPf s.inp.port else s)

/-- PORT_FUNDAMENTAL_RESET (spec/17 R434): the port trains again. -/
def execPortFundamentalReset (s : State) : Out :=
  let p := s.inp.port
  .next (if 2 ≤ p then s
    else
      let s := if s.dev.ready then s.resetPf p else s
      { s with down := if s.down.contains p then s.down else p :: s.down }.setLink p { state := 1 })

/-- Stop every engine node of a context (spec/09 R283). -/
def State.stopNodes (s : State) (asid : Nat) : State :=
  (s.ks.graphs.filter fun g => g.asid == asid).foldl (fun s g =>
    ((upTo g.nodes.length).filter fun i => nodeIsEngine (g.node i)).foldl (fun s i => s.stopNode asid g.lrec i) s) s

/-- FLR_TIMEOUT (spec/16 R422 step 3): at 90 ms of a reset of function `fn` of port `port`, or of every function where `flag`,
running continuations end as ERET.fail does and engine nodes stop. -/
def execFlrTimeout (s : State) : Out :=
  let mine := fun (x : Nat × Nat) => x.1 / 64 == s.inp.port && (s.inp.flag || x.1 % 64 == s.inp.fn)
  let s' := ((s.dev.flr.filter mine).map (·.2)).eraseDups.foldl (fun s a =>
    ((s.coresOf a).foldl (fun s c =>
      let t := (s.core c).trap
      s.endFailed c 1 t.cause.toNat (vget t.info 0 0).toNat (vget t.info 1 0).toNat) s).stopNodes a) s
  .next { s' with dev := { s'.dev with flr := s'.dev.flr.filter fun x => !mine x } }

/-! ### PCI Express (spec/16 R419, R421; spec/17 R434) -/

/-- The configuration of a function (notes/assumptions/22.md for the BAR2 size before a host sets it). -/
def State.cfg (s : State) (port f : Nat) : Nat × Bool × Bool := Tab.get s.dev.config (port * 64 + f) (39, false, false)

/-- The lanes a port runs on, of `n` that train (spec/16 R419). -/
def pcieWidth (n : Nat) : Nat := if 8 ≤ n then 8 else if 4 ≤ n then 4 else if 2 ≤ n then 2 else n

/-- A far side (link × 64 + function) starts or ceases to refuse a unit (spec/10 R298; spec/16 R421).  A port whose function uses
Address Translation Services may hold the unit's translation, and then goes on using it until the host invalidates it. -/
def State.farRefuse (s : State) (f u : Nat) (on : Bool) : State :=
  let rest := s.dev.refused.filter (· != (f, u))
  let ats := f < 128 && (Tab.get s.dev.config f (39, false, false)).2.1
  let held := s.dev.atc.filter (· != (f, u))
  { s with dev := { s.dev with
      refused := if on then (f, u) :: rest else rest
      atc := if on && ats && Config.atcHolds s.free u then (f, u) :: held else held } }

/-- A function's cached translations of some pages are dropped (spec/16 R421). -/
def State.atcDrop (s : State) (f : Nat) (p : Nat → Bool) : State :=
  { s with dev := { s.dev with atc := s.dev.atc.filter fun x => !(x.1 == f && p x.2) } }

/-- SPDM request codes that have an event of their own (spec/17 R439). -/
def spdmKnown : List Nat := [0x81, 0x82, 0x84, 0xE0, 0xE1, 0xE3]

/-- What the physical function of port `p` answers beside its configuration: for item 3 a read of `len` bytes of BAR0 at `addr`
(spec/16 R417; spec/17 R434), for item 4 an SPDM request of code `value` that the package does not support, over the mailbox in its
configuration space (R439). -/
def State.functionAsk (s : State) (p : Nat) : State :=
  if s.inp.fn != 0 then s
  else if s.inp.code == 3 then s.send [12, p, s.inp.addr, s.barRead p s.inp.addr s.inp.len]
  else if s.dev.ready && !spdmKnown.contains (s.inp.value % 256) then s.send [11, p, 0x7F, s.inp.value % 256]
  else s

/-- PCIE_CONFIGURATION_REQUEST (spec/16 R419, R421; spec/17 R434): once phase 3 has begun, function `fn` of port `port` answers; item
`code` is 0 the BAR2 size (its log2), 1 ATS enable, 2 virtual-function enable; `flag` for a write of `value`. -/
def execPcieConfigurationRequest (s : State) : Out :=
  let p := s.inp.port
  let f := s.inp.fn
  let (size, ats, vf) := s.cfg p f
  let v := s.inp.value
  .next (if 2 ≤ p || 32 < f || !s.dev.phy then s
    else if 3 ≤ s.inp.code then s.functionAsk p
    else
      let new := match s.inp.code with
        | 0 => if f == 0 && 30 ≤ v && v ≤ 39 then (v, ats, vf) else (size, ats, vf)
        | 1 => (size, bit v 0, vf)
        | _ => if f == 0 then (size, ats, bit v 0) else (size, ats, vf)
      let s := if s.inp.flag then { s with dev := { s.dev with config := Tab.set s.dev.config (p * 64 + f) new } } else s
      let s := if (s.cfg p f).2.1 then s else s.atcDrop (p * 64 + f) fun _ => true
      let c := s.cfg p f
      s.send [2, p, f, s.inp.code, match s.inp.code with
        | 0 => c.1
        | 1 => b2n c.2.1
        | _ => b2n c.2.2])

/-- PCIE_LANE_RETRAIN (spec/16 R419): port `port` keeps `value` usable lanes, or goes down. -/
def execPcieLaneRetrain (s : State) : Out :=
  let p := s.inp.port
  let n := min s.inp.value (Tab.get s.dev.links p {}).width
  .next (if 2 ≤ p || (Tab.get s.dev.links p {}).state != 2 then s
    else if n == 0 then
      { s with down := if s.down.contains p then s.down else p :: s.down }.setLink p { reason := 3 }
    else s.setLink p { state := 2, width := pcieWidth n })

/-- PCIE_FLIT_RECEIVE (spec/15 R392, R394; spec/16 R421): a flit whose CRC fails (`flag`) is replayed and counted; another may bring
refusals: with `nums`, the host answers requests of function `fn` to the page of an address with Unsupported Request, Completer
Abort or a refused translation, or (second number 0) no longer does. -/
def execPcieFlitReceive (s : State) : Out :=
  let p := s.inp.port
  .next (if 2 ≤ p then s
    else if s.inp.flag then s.count (0x3848 + 4 * p) 1
    else match s.inp.nums with
      | a :: on :: _ => s.farRefuse (p * 64 + s.inp.fn % 64) (farUnit (hostKey p (a % 2 ^ 64))) (on != 0)
      | _ => s)

/-- ATS_INVALIDATION (spec/16 R421): the translation of address `addr` is dropped.  Accesses are performed when they are made, so
the invalidation of a function that uses ATS completes at once. -/
def execAtsInvalidation (s : State) : Out :=
  let f := s.inp.port * 64 + s.inp.fn
  .next (if (s.cfg s.inp.port s.inp.fn).2.1 then
      (s.atcDrop f (· == farUnit (hostKey s.inp.port s.inp.addr))).send [3, s.inp.port, s.inp.fn, s.inp.addr]
    else s)

/-! ### BAR2 (spec/10 R298; spec/12 R331, R334; spec/16 R419; spec/17 R434) -/

/-- Keys of `n` bytes at a device physical address, striped. -/
def physKeys (pa n : Nat) : List Nat := (upTo n).map fun i => striped (pa + i)

/-- Whether a BAR2 access completes with Unsupported Request. -/
def State.bar2Refused (s : State) : Bool :=
  let a := s.inp.addr
  let n := s.inp.len
  !s.dev.ready || s.inp.fn != 0 || 2 ≤ s.inp.port || 2 ^ (s.cfg s.inp.port 0).1 < a + n || (physKeys a n).any s.unbacked

/-- The uncorrectable sectors among some bytes are met. -/
def State.meetAll (s : State) (ks : List Nat) : State := ks.foldl State.meet s

/-- HOST_BAR2_READ (spec/10 R298; spec/12 R331): `len` bytes at offset `addr`; an uncorrectable sector poisons the completion.  It
waits while an engine owns a row. -/
def execHostBar2Read (s : State) : Out :=
  let ks := physKeys s.inp.addr s.inp.len
  .next (if s.bar2Refused then s.send [4, s.inp.port, 1]
    else if ks.any s.owned then s.wantAny ks
    else if ks.any fun k => s.ueAt k 1 then (s.meetAll ks).send [4, s.inp.port, 2]
    else s.send ([4, s.inp.port, 0] ++ ks.map fun k => (Mem.read s.mem k).toNat))

/-- Whether a write from outside meets an uncorrectable sector of which it covers a part. -/
def State.badSector (s : State) (asid : Nat) (cells : List Host.Cell) : Bool := (cellBlocks 32 cells).any (s.badCells asid)

/-- A write from outside, sector by sector: one that covers a part of an uncorrectable sector is not performed there (spec/12
R331). -/
def State.sectorStore (s : State) (asid : Nat) (cells : List Host.Cell) : State :=
  s.perform ((cellBlocks 32 cells).filter fun b => !s.badCells asid b).flatten

/-- HOST_BAR2_WRITE (spec/10 R298; spec/11 R315; spec/12 R331): `bytes` at offset `addr`.  A write of part of an uncorrectable
sector is not performed there. -/
def execHostBar2Write (s : State) : Out :=
  let s := { s with inp := { s.inp with len := s.inp.bytes.length } }
  let ks := physKeys s.inp.addr s.inp.len
  let cells := ks.zip s.inp.bytes
  .next (if s.bar2Refused then s.send [5, s.inp.port, 1]
    else if ks.any s.owned then s.wantAny ks
    else if s.badSector 0 cells then ((s.meetAll ks).sectorStore 0 cells).send [5, s.inp.port, 2]
    else s.perform cells)

/-! ### Vomel ports (spec/16 R423 to R425) -/

/-- Peers can be reached while any port is up. -/
def State.reroute (s : State) : State :=
  let hosts := s.down.filter (· < 16)
  { s with down := if s.livePorts.isEmpty then hosts ++ (upTo 144).map (· + 16) else hosts }

/-- Vomel port `k` goes down: the accesses that it has not had acknowledged fail (spec/16 R425; spec/10 R298), writes here and a read
that the next step makes there. -/
def State.vomelDown (s : State) (k reason : Nat) : State :=
  let s := s.setLink (k + 2) { reason := reason }
  let lost := (s.dev.farWrites.filter fun w => w.port == k).map (·.who)
  { s with
    ues := s.ues ++ lost
    dev := { s.dev with
      vports := Tab.erase s.dev.vports k, farWrites := s.dev.farWrites.filter fun w => w.port != k, farCut := (k, s.free) } }.reroute

/-- VOMEL_PORT_UP (spec/16 R424): port `port` has trained `value` lanes; `flag` where its plane serves this index already. -/
def execVomelPortUp (s : State) : Out :=
  let k := s.inp.port
  let n := s.inp.value
  .next (if 18 ≤ k || !s.dev.ready then s
    else if 143 < s.dev.vself then s.vomelDown k 5
    else if s.inp.flag then s.vomelDown k 4
    else if n < 2 then s.vomelDown k 3
    else (s.setLink (k + 2) { state := 2, width := if 8 ≤ n then 8 else if 4 ≤ n then 4 else 2 }).reroute)

/-- VOMEL_PORT_DOWN (spec/16 R425): port `port`, for reason `code`. -/
def execVomelPortDown (s : State) : Out :=
  .next (if 18 ≤ s.inp.port then s else s.vomelDown s.inp.port (s.inp.code % 6))

/-- VOMEL_LANE_RETRAIN (spec/16 R423): after 16 consecutive replays, `value` lanes remain. -/
def execVomelLaneRetrain (s : State) : Out :=
  let k := s.inp.port
  let n := min s.inp.value (Tab.get s.dev.links (k + 2) {}).width
  let v := Tab.get s.dev.vports k {}
  .next (if 18 ≤ k || v.replays < 16 then s
    else if n < 2 then s.vomelDown k 3
    else
      let s := s.setLink (k + 2) { state := 2, width := if 8 ≤ n then 8 else if 4 ≤ n then 4 else 2 }
      { s with dev := { s.dev with vports := Tab.set s.dev.vports k { v with replays := 0 } } })

/-- The peer acknowledges the oldest writes of port `k`: they have been performed there (spec/16 R425). -/
def State.farAck (s : State) (k : Nat) : Nat → State
  | 0 => s
  | n + 1 =>
    match s.dev.farWrites.find? fun w => w.port == k with
    | none => s
    | some w => State.farAck ({ s with dev := { s.dev with farWrites := s.dev.farWrites.erase w } }.performRels w.agent w.how w.rels none false w.cells) k n

/-- VOMEL_FLIT_RECEIVE (spec/16 R423, R425, R426): `bytes` on port `port`, `flag` where they are a replay.  A flit whose CRC fails,
and every later one until the replay, is discarded; a replay that fails counts as one too.  One in order delivers its payload: its
accesses come as PEER_INBOUND_ACCESS, it acknowledges the `value` oldest writes of the port, and with `nums` peer `ident` refuses
accesses to the block of a physical address, or (second number 0) no longer does. -/
def execVomelFlitReceive (s : State) : Out :=
  let k := s.inp.port
  let b := s.inp.bytes
  let v := Tab.get s.dev.vports k {}
  let put := fun (s : State) (v : VPort) => { s with dev := { s.dev with vports := Tab.set s.dev.vports k v } }
  let replayed := fun (s : State) => s.count (0x3800 + 4 * k) 1
  let far := fun (s : State) => match s.inp.nums with
    | pa :: on :: _ => s.farRefuse ((16 + s.inp.ident) * 64) (farUnit (peerKey s.inp.ident (dramOf false pa))) (on != 0)
    | _ => s
  .next (if 18 ≤ k || (Tab.get s.dev.links (k + 2) {}).state != 2 || b.length != 256 then s
    else if (crc64 (b.take 248)).toNat != ofBytes (b.drop 248) then
      (if v.discarding && s.inp.flag then replayed (put s { v with replays := v.replays + 1 }) else put s { v with discarding := true })
    else if bits (ofBytes (b.take 8)) 11 0 != v.expect then s
    else
      let s := if v.discarding then replayed s else s
      (far ((put s { expect := (v.expect + 1) % 4096, replays := if v.discarding then v.replays + 1 else 0 }).farAck k s.inp.value)).send
        ([6, k] ++ ((b.drop 8).take 240).map (·.toNat)))

/-! ### Accesses from peers (spec/16 R426) -/

/-- Whether an inbound window admits an access of peer `p` to bytes [lo, hi]. -/
def windowAdmits (w p lo hi : Nat) (needR needW : Bool) : Bool :=
  let peer := bits w 49 42
  bit w 0 && bits w 127 103 == 0 && bits w 63 50 == 0 && (peer < 144 || peer == 255) && bits w 41 3 ≤ bits w 102 64
    && (peer == p || peer == 255) && bits w 41 3 ≤ lo && hi ≤ bits w 102 64 && (!needR || bit w 1) && (!needW || bit w 2)

/-- The access an event brings: 0 read, 1 write, 2 AMO, 3 CAS, 4 near-memory add. -/
def State.peerAdmitted (s : State) (n : Nat) : Bool :=
  let x := s.inp
  (upTo 16).any fun i => windowAdmits (Tab.get s.dev.vinwin i 0) x.ident x.addr (x.addr + n - 1) (x.code != 1) (x.code != 0)

/-- PEER_INBOUND_ACCESS (spec/16 R426; spec/09 R271, R272): peer `ident` on port `port` accesses physical address `addr`, under
the bank-local map where `flag`.  A write carries `bytes`; an atomic on `len` bytes its operation, operand and expected value
in `nums`; an add its type, value, work identifier, sequence, ASID, launch record, node, and whether that node collects its adds.  One that no window admits is
refused; others wait while an engine owns the row. -/
def execPeerInboundAccess (s : State) : Out :=
  let x := s.inp
  let num := fun (i : Nat) => x.nums.getD i 0
  let n := max 1 (if x.code == 1 then x.bytes.length else if x.code == 4 then (if num 0 == 1 then 8 else 4) else x.len)
  let ks := (upTo n).map fun i => dramOf x.flag (x.addr + i)
  let reply := fun (s : State) (l : List Nat) => s.send ([7, x.port, x.ident] ++ l)
  let old := ofBytes (ks.map (Mem.read s.mem))
  let write := fun (s : State) (v : Nat) => s.perform (ks.zip (bytesOf n v))
  .next (if !s.dev.ready || 18 ≤ x.port || !s.peerAdmitted n || 2 ^ 39 < x.addr + n || ks.any s.unbacked then reply s [1]
    else if x.code == 4 then
      s.onEngine (engineOf (ks.headD 0)) fun e => { e with inbound := e.inbound ++
        [{ key := ks.headD 0, ty := num 0, value := num 1, wid := num 2, seqNo := num 3, asid := num 4, lrec := num 5, node := num 6
           source := 256 + x.port, va := x.addr, order := s.ks.order, det := num 7 != 0 }] }
    else if ks.any s.owned then s.wantAny ks
    else if x.code != 1 && ks.any fun k => s.ueAt k 1 then reply (s.meetAll ks) [2]
    else if x.code == 0 then reply s (0 :: ks.map fun k => (Mem.read s.mem k).toNat)
    else if x.code == 1 then (if s.badSector 0 (ks.zip x.bytes) then reply ((s.meetAll ks).sectorStore 0 (ks.zip x.bytes)) [2]
      else reply (s.perform (ks.zip x.bytes)) [0])
    else if x.code == 2 then reply (write s (amoOp (num 0) (8 * n) old (num 1 % 2 ^ (8 * n)))) [0, old]
    else reply (if old == num 2 % 2 ^ (8 * n) then write s (num 1) else s) [0, old])

end Sys2Proof.Machine
end

