-- ==== Sys2Proof/Machine/Ether.lean ====
section
/-! DEFINITION. The Ethernet ports: queue pairs, work requests, and what arrives from the remote side (spec/16 R427 to R431). -/

namespace Sys2Proof.Machine

/-! ### Queue pairs (spec/16 R428) -/

/-- Key of a queue pair: its port and number. -/
def qpKey (k n : Nat) : Nat := k * 1024 + n

/-- Fields of an entry. -/
def qpSqHead (e : Nat) : Nat := bits e 223 192
def qpRqHead (e : Nat) : Nat := bits e 255 224
def qpAsid (e : Nat) : Nat := bits e 17 8
def qpRkey (e : Nat) : Nat := bits e 63 32

/-- Bytes written by a port into an entry. -/
def State.qpWrite (s : State) (k n off : Nat) (bs : List Byte) : State :=
  s.sysStore { asid := qpAsid (s.qpEntry k n), va := s.qpAddr k n + off } ((upTo bs.length).zipWith (fun i b => (striped (s.qpAddr k n + off + i), b)) bs)

/-- The requests a queue pair has in flight. -/
def State.fly (s : State) (k n : Nat) : List Nat := Tab.get s.dev.ethFly (qpKey k n) []
def State.setFly (s : State) (k n : Nat) (l : List Nat) : State :=
  { s with dev := { s.dev with ethFly := Tab.set s.dev.ethFly (qpKey k n) l } }

/-- Put a queue pair into ERROR (spec/16 R429): no later request runs. -/
def State.qpError (s : State) (k n code : Nat) : State :=
  let e := s.qpEntry k n
  let t := (s.qpWrite k n 0 (bytesOf 1 (bits e 0 0 + 2 * 2 + code * 8))).setFly k n []
  { t with dev := { t.dev with ethRetry := Tab.erase t.dev.ethRetry (qpKey k n) } }

/-- Whether the queue pair carries only the checkpoint's writes now (spec/16 R431). -/
def State.qpHeld (s : State) (k n : Nat) : Bool :=
  s.dev.ckStatus == 2 && bits (s.ckWord 0) 1 0 == 0 && bit (bits (s.ckWord 0) 13 8) k && descQp s.dev.ckWords k == n

/-- Whether port `k` is up. -/
def State.ethUp (s : State) (k : Nat) : Bool := (Tab.get s.dev.links (20 + k) {}).state == 2

/-- Whether an event names a queue pair that runs: a port that is up, an entry VALID and READY. -/
def State.qpRuns (s : State) (k n : Nat) : Bool := s.dev.ready && k < 6 && n < 1024 && s.ethUp k && qpReady (s.qpEntry k n)

/-- Whether it takes what comes from the remote side. -/
def State.qpTakes (s : State) (k n : Nat) : Bool := s.qpRuns k n && !s.qpHeld k n

/-- Bytes that a queue pair writes, sector by sector, which others see by a release (spec/16 R430): one that covers a part of an
uncorrectable sector is not performed there, and is reported (spec/12 R331). -/
def State.ethStore (s : State) (k n asid va : Nat) (cells : List Host.Cell) : State :=
  let bs := cellBlocks 32 cells
  let s := if bs.any (s.badCells asid) then { s with ues := s.ues ++ [({ asid := asid, va := va } : Add)] } else s
  s.performBy (ethAgent k n) {} [] none false (bs.filter fun b => !s.badCells asid b).flatten

/-- Write bytes of a queue pair at a virtual address: the state after, or 8, 9 or 13 with nothing written. -/
def State.ethWrite (s : State) (k n asid va : Nat) (bs : List Byte) : Except Nat State :=
  match s.keysOf (kWho asid) va .write bs.length with
  | .error c => .error c.code
  | .ok ls => if s.writeBad ls then .error 13 else .ok (s.ethStore k n asid va (ls.zipWith (fun l b => (l.key, b)) bs))

/-- What a queue pair has written is released at DEVICE scope. -/
def State.ethRels (s : State) (k n : Nat) : List Rel :=
  match (s.hist.filter fun r => r.by_ == ethAgent k n).map (·.id) with
  | [] => []
  | ids => [{ by_ := ethAgent k n, scope := 7, view := ids.foldl View.learn {} }]

/-! ### Work requests (spec/16 R429) -/

def wrOp (r : Nat) : Nat := bits r 7 0
def wrLen (r : Nat) : Nat := bits r 63 32

/-- Whether a work request is malformed. -/
def wrBad (r : Nat) : Bool :=
  wrOp r == 0 || 3 < wrOp r || bits r 31 9 != 0 || wrLen r == 0 || 2 ^ 31 < wrLen r
    || (wrOp r == 3 && (4088 < wrLen r || word64 r 2 != 0))
    || bits r 255 224 != 0 || word64 r 4 % 8 != 0 || word64 r 6 != 0 || word64 r 7 != 0

/-- Issue the request at count `i` of the send ring: it goes out with its local bytes, or the queue pair ends in ERROR. -/
def State.issueWr (s : State) (k n i : Nat) : State :=
  let e := s.qpEntry k n
  let asid := qpAsid e
  match s.kRead asid (bits e 127 64 + 64 * (i % 2 ^ bits e 21 18)) 64 with
  | .error _ => s.qpError k n 2
  | .ok r =>
    if wrBad r then s.qpError k n 1
    else if wrOp r == 2 then
      match s.keysOf (kWho asid) (word64 r 1) .write (wrLen r) with
      | .error _ => s.qpError k n 2
      | .ok _ => (s.setFly k n (s.fly k n ++ [r])).send [8, k, n, 2, word64 r 2, bits r 223 192, wrLen r]
    else match s.kRead asid (word64 r 1) (wrLen r) with
      | .error _ => s.qpError k n 2
      | .ok v => (s.setFly k n (s.fly k n ++ [r])).send ([8, k, n, wrOp r, word64 r 2, bits r 223 192, wrLen r] ++ (bytesOf (wrLen r) v).map (·.toNat))

/-- Issue the posted requests in ring order while at most 64 are in flight; at most `fuel` of them. -/
def State.issueWrs (s : State) (k n : Nat) : Nat → State
  | 0 => s
  | fuel + 1 =>
    let e := s.qpEntry k n
    let fly := (s.fly k n).length
    match s.kRead (qpAsid e) (bits e 191 128) 8 with
    | .error _ => s.qpError k n 2
    | .ok tail =>
      let next := (qpSqHead e + fly) % 2 ^ 32
      if !qpReady e || s.qpHeld k n || 64 ≤ fly || next == tail % 2 ^ 32 then s
      else State.issueWrs (s.issueWr k n next) k n fuel

/-- ETH_TAIL_NOTIFY (spec/16 R429): queue pair `ident` of port `port` reads its tail word and runs what is posted. -/
def execEthTailNotify (s : State) : Out :=
  .next (if s.qpRuns s.inp.port s.inp.ident then s.issueWrs s.inp.port s.inp.ident 64 else s)

/-- An indivisible add of `v` to the 8-byte word at `va` (DEVICE scope), which releases what the queue pair has written, where it can be
made. -/
def State.semAdd (s : State) (k n asid va v : Nat) : Option State :=
  match s.keysOf (kWho asid) va .atomic 8 with
  | .error _ => none
  | .ok ls =>
    if (ls.any fun l => s.readBad l 1) || s.writeBad ls then none
    else
      let old := ofBytes (ls.map fun l => Mem.read s.mem l.key)
      some (s.performRels (ethAgent k n) { grain := 0, scope := some 7 } (s.ethRels k n) none false
        (ls.zipWith (fun l b => (l.key, b)) (bytesOf 8 (old + v))))

/-- Keys of `n` bytes that a port accesses. -/
def State.ethKeys (s : State) (asid va n : Nat) : List Nat :=
  match s.keysOf (kWho asid) va .read n with
  | .error _ => []
  | .ok ls => ls.map (·.key)

/-- Whether an access of a port to `n` bytes must wait: an engine owns a row. -/
def State.ethOwned (s : State) (asid va n : Nat) : Bool := (s.ethKeys asid va n).any s.owned

/-- ETH_WORK_REQUEST_COMPLETE (spec/16 R429): the oldest request in flight of queue pair `ident` has been acknowledged; a READ
brings `bytes`.  SQHEAD advances, and with SIG the semaphore is added to. -/
def execEthWorkRequestComplete (s : State) : Out :=
  let k := s.inp.port
  let n := s.inp.ident
  let e := s.qpEntry k n
  let asid := qpAsid e
  .next (if !s.qpRuns k n then s
    else match s.fly k n with
      | [] => s
      | r :: rest =>
        let data := (upTo (wrLen r)).map fun i => s.inp.bytes.getD i 0
        if wrOp r == 2 && s.ethOwned asid (word64 r 1) (wrLen r) then s.wantAny (s.ethKeys asid (word64 r 1) (wrLen r))
        else if bit r 8 && s.ethOwned asid (word64 r 4) 8 then s.wantAny (s.ethKeys asid (word64 r 4) 8)
        else match (if wrOp r == 2 then s.ethWrite k n asid (word64 r 1) data else .ok s) with
          | .error _ => s.qpError k n 2
          | .ok s1 => match (if bit r 8 then s1.semAdd k n asid (word64 r 4) (word64 r 5) else some s1) with
            | none => s1.qpError k n 2
            | some s2 =>
              let s3 := (s2.setFly k n rest).qpWrite k n 24 (bytesOf 4 (qpSqHead e + 1))
              { s3 with dev := { s3.dev with ethRetry := Tab.erase s3.dev.ethRetry (qpKey k n) } }.issueWrs k n 64)

/-- Ethernet port `k` goes down: every queue pair of it that is VALID and READY ends in ERROR (spec/16 R429). -/
def State.ethDown (s : State) (k : Nat) : State :=
  ((upTo 1024).filter fun n => qpReady (s.qpEntry k n)).foldl (fun t n => t.qpError k n 5) (s.setLink (20 + k) { reason := 1 })

/-- ETH_QP_ERROR (spec/16 R429): a remote access error (`code` 3) ends queue pair `ident`; the port going down (5) ends every one
of its queue pairs. -/
def execEthQpError (s : State) : Out :=
  let k := s.inp.port
  let n := s.inp.ident
  .next (if !s.dev.ready || 6 ≤ k then s
    else if s.inp.code == 5 then s.ethDown k
    else if n < 1024 && qpReady (s.qpEntry k n) && s.inp.code == 3 && !(s.fly k n).isEmpty then s.qpError k n 3
    else s)

/-- ETH_RETRANSMISSION_TIMEOUT (spec/16 R429): the requests in flight of queue pair `ident` are sent again; when seven
retransmissions have gone unacknowledged the queue pair ends in ERROR. -/
def execEthRetransmissionTimeout (s : State) : Out :=
  let k := s.inp.port
  let n := s.inp.ident
  let c := Tab.get s.dev.ethRetry (qpKey k n) 0
  .next (if !s.qpRuns k n || (s.fly k n).isEmpty then s
    else if 7 ≤ c then s.qpError k n 4
    else { s with dev := { s.dev with ethRetry := Tab.set s.dev.ethRetry (qpKey k n) (c + 1) } }.send [9, k, n, c + 1])

/-- ETH_CONGESTION_NOTIFICATION (spec/16 R427): the port lowers its send rate by a step. -/
def execEthCongestionNotification (s : State) : Out :=
  let k := s.inp.port
  .next (if k < 6 then { s with dev := { s.dev with ethRate := Tab.set s.dev.ethRate k (Tab.get s.dev.ethRate k 0 + 1) } } else s)

/-! ### Incoming requests (spec/16 R427, R430) -/

/-- Answers: 0 done, 1 NAK of remote access error, 2 NAK of invalid request, 3 receiver not ready. -/
def State.ethAnswer (s : State) (code : Nat) (data : List Byte) : State :=
  s.send ([10, s.inp.port, s.inp.ident, code] ++ data.map (·.toNat))

/-- ETH_INCOMING_WRITE (spec/16 R430): `bytes` to address `addr` under key `value`; `flag` where the packet uses an unsupported
operation. -/
def execEthIncomingWrite (s : State) : Out :=
  let x := s.inp
  let e := s.qpEntry x.port x.ident
  .next (if !s.qpTakes x.port x.ident then s
    else if x.flag then s.ethAnswer 2 []
    else if x.value != qpRkey e then s.ethAnswer 1 []
    else match s.keysOf (kWho (qpAsid e)) x.addr .write x.bytes.length with
      | .error _ => s.ethAnswer 1 []
      | .ok ls =>
        if ls.any fun l => s.owned l.key then s.wantAny (ls.map (·.key))
        else
          (s.ethStore x.port x.ident (qpAsid e) x.addr (ls.zipWith (fun l b => (l.key, b)) x.bytes)).ethAnswer 0 [])

/-- ETH_INCOMING_READ (spec/16 R430): `len` bytes at address `addr` under key `value`. -/
def execEthIncomingRead (s : State) : Out :=
  let x := s.inp
  let e := s.qpEntry x.port x.ident
  .next (if !s.qpTakes x.port x.ident then s
    else if x.flag then s.ethAnswer 2 []
    else if x.value != qpRkey e then s.ethAnswer 1 []
    else if s.ethOwned (qpAsid e) x.addr x.len then s.wantAny (s.ethKeys (qpAsid e) x.addr x.len)
    else match s.kRead (qpAsid e) x.addr x.len with
      | .error _ => s.ethAnswer 1 []
      | .ok v => s.ethAnswer 0 (bytesOf x.len v))

/-- ETH_INCOMING_SEND (spec/16 R430): `bytes` go into the next slot of the receive ring, if it is free. -/
def execEthIncomingSend (s : State) : Out :=
  let x := s.inp
  let k := x.port
  let n := x.ident
  let e := s.qpEntry k n
  let asid := qpAsid e
  let slot := bits e 319 256 + 4096 * (qpRqHead e % 2 ^ bits e 25 22)
  let len := x.bytes.length
  .next (if !s.qpTakes k n then s
    else if x.flag || 4088 < len || bits e 25 22 == 0 then s.ethAnswer 2 []
    else if s.ethOwned asid slot (8 + len) then s.wantAny (s.ethKeys asid slot (8 + len))
    else if s.ethOwned asid (bits e 383 320) 8 then s.wantAny (s.ethKeys asid (bits e 383 320) 8)
    else match s.kRead asid slot 8 with
      | .error _ => s.ethAnswer 1 []
      | .ok w =>
        if bit w 63 then s.ethAnswer 3 []
        else match s.ethWrite k n asid (slot + 8) x.bytes with
          | .error _ => s.ethAnswer 1 []
          | .ok s1 => match s1.ethWrite k n asid slot (bytesOf 8 (2 ^ 63 + len)) with
            | .error _ => s1.ethAnswer 1 []
            | .ok s2 =>
              let s3 := s2.qpWrite k n 28 (bytesOf 4 (qpRqHead e + 1))
              match s3.semAdd k n asid (bits e 383 320) 1 with
              | none => (s3.qpError k n 2).ethAnswer 0 []
              | some s4 => s4.ethAnswer 0 [])

end Sys2Proof.Machine
end

