-- ==== Sys2Proof/Machine/Bringup.lean ====
section
/-! DEFINITION. Power-up, the configuration record, identity and attestation, and the operating limits (spec/17 R432 to
R443). -/

namespace Sys2Proof.Machine

/-! ### The configuration record (spec/17 R435, R436) -/

/-- A number in a list of bytes. -/
def numIn (bs : List Byte) (o n : Nat) : Nat := ofBytes ((bs.drop o).take n)

/-- ASCII "NB4CFG" with VERSION 1. -/
def recMagic : Nat := 0x00014746_4334424E

/-- Whether a record copy is valid under the derived identity key. -/
def recordValid (ident c : List Byte) : Bool :=
  c.length == 4096 && numIn c 0 8 == recMagic && Config.ed25519 ident (c.take 0xFC0) (c.drop 0xFC0)

/-- SEQ, IDPUB, IGEN and the interleave state of a copy. -/
def recordSeq (c : List Byte) : Nat := numIn c 8 8
def recordIgen (c : List Byte) : Nat := numIn c 0x50 2

/-- What a copy holds whose rewriting was cut short: it is not valid (spec/17 R436). -/
def tornCopy : List Byte := [0]

/-- The valid copy with the larger SEQ. -/
def pickCopy (ident : List Byte) (copies : List (List Byte)) : Option Nat :=
  let a := copies.getD 0 []
  let b := copies.getD 1 []
  match recordValid ident a, recordValid ident b with
  | true, true => some (if recordSeq a < recordSeq b then 1 else 0)
  | true, false => some 0
  | false, true => some 1
  | false, false => none

/-- The bytes of ILVSTK: LIVE and LOST of each stack. -/
def State.ilvBytes (s : State) : List Byte :=
  (upTo 8).flatMap fun i => bytesOf 8 (vget s.live i 0).toNat ++ bytesOf 8 (vget s.lost i 0).toNat

/-- FENCEMAP: 4 bits per core. -/
def State.fenceMap (s : State) : Nat := s.cores.foldl (fun a c => a + c.2.mat.fenced % 16 * 2 ^ (4 * c.1)) 0

/-- A record of what this power-up found, signed with the identity key. -/
def State.newRecord (s : State) (seq : Nat) (fwKey : List Byte) : List Byte :=
  let body := bytesOf 8 recMagic ++ bytesOf 8 seq ++ s.dev.flash.ident ++ fwKey ++ bytesOf 8 s.igen ++ s.ilvBytes
    ++ bytesOf 32 s.corestat ++ bytesOf 72 s.fenceMap ++ s.dev.found
  body ++ Config.sign s.dev.flash.ident body

/-! ### The phases (spec/17 R432, R433) -/

/-- Power-up ends in failure. -/
def State.upFail (s : State) (code : Nat) : State := { s with dev := { s.dev with phase := 7, failCode := code } }

/-- The next phase begins. -/
def State.upNext (s : State) : State := { s with dev := { s.dev with phase := s.dev.phase + 1 } }

/-- The image in a flash slot, of the length its header states. -/
def slotImage (slot : List Byte) : List Byte := slot.take (imageLength slot)

/-- Whether a flash image verifies: its signature follows it (spec/17 R438). -/
def imageOk (key slot : List Byte) : Bool :=
  let n := imageLength slot
  n != 0 && n + 64 ≤ slot.length && Config.ed25519 key (Config.sha512 (slotImage slot)) ((slot.drop n).take 64)

/-- What the external flash holds is the machine's to find: part `code` of it (0 and 1 the record copies, 2 and 3 the images, 4 the
helper data, 5 the certificate chain), as long as nothing is known of that part (notes/assumptions/10.md). -/
def State.learnFlash (s : State) : State :=
  let f := s.dev.flash
  let x := s.inp.bytes
  let put := fun (g : Flash) => { s with dev := { s.dev with flash := g } }
  let set := fun (l : List (List Byte)) (i : Nat) => if l.getD i [] == [] then l.set i x else l
  match s.inp.code with
  | 0 => put { f with copies := set f.copies 0 }
  | 1 => put { f with copies := set f.copies 1 }
  | 2 => put { f with images := set f.images 0 }
  | 3 => put { f with images := set f.images 1 }
  | 4 => put { f with helper := if f.helper == [] then x else f.helper }
  | _ => put { f with chain := if f.chain == [] then x else f.chain }

/-- The public identity key: the seed comes from the response of the security engine's SRAM and the helper data (spec/17 R437). -/
def identity (response helper : List Byte) : List Byte := bytesOf 32 (Config.publicKey (Config.seed response helper)).toNat

/-- Phase 0: `bytes` is the response of the security engine's SRAM, from which the identity follows under which record copies verify;
`value` the complexes that run. -/
def State.phase0 (s : State) : State :=
  let f := s.dev.flash
  let ident := identity s.inp.bytes f.helper
  let key := match pickCopy ident f.copies with
    | some i => ((f.copies.getD i []).drop 0x30).take 32
    | none => Config.rootKey
  let ver := fun (i : List Byte) => (Config.imgHeader i).1
  let up := s.inp.value % 4
  match f.images.filter (imageOk key) with
  | [] => s.upFail 1
  | i :: r =>
    let slot := r.foldl (fun a b => if ver a < ver b then b else a) i
    let runs := fun (k : Nat) => if bit up k then slotImage slot else []
    if up == 0 then s.upFail 2
    else
      { s with
        xi := { s.xi with active := if bit up 0 then 0 else 1, sby := if up == 3 then 1 else 3, imgver := ver slot % 2 ^ 16 }
        dev := { s.dev with flash := { f with imgA := runs 0, imgB := runs 1, ident := ident } } }.upNext

/-- Phase 1: the identity against the record copies (spec/17 R437). -/
def State.phase1 (s : State) : State :=
  let f := s.dev.flash
  let bad := f.copies.any fun c => recordValid f.ident c && (c.drop 0x10).take 32 != f.ident
  { s with dev := { s.dev with idfail := bad } }.upNext

/-- Phase 2: the record. -/
def State.phase2 (s : State) : State :=
  let f := s.dev.flash
  let u := pickCopy f.ident f.copies
  { s with dev := { s.dev with recok := u.isSome, phy := true, flash := { f with used := u } } }.upNext

/-- LANEMAP: 8 bits for each of the 26 links, in 32 bytes. -/
def laneMap (lanes : List Nat) : List Byte := (upTo 32).map fun k => BitVec.ofNat 8 (if k < 26 then lanes.getD k 0 else 0)

/-- Phase 3: `nums` holds the usable lanes of each link, a bit each, and `bytes` the training parameters; `flag` where a stack port or
base die is unusable.  No Vomel port trains before VSELF is written (spec/16 R424). -/
def State.phase3 (s : State) : State :=
  if s.inp.flag then s.upFail 3
  else
    let link := fun (k : Nat) =>
      let w := popCount 8 (s.inp.nums.getD k 0)
      if 2 ≤ k && k < 20 then ({ reason := 5 } : Link)
      else if w == 0 then { reason := 2 }
      else { state := 2, width := if k < 2 then pcieWidth w else w }
    let down := (upTo 2).filter fun k => popCount 8 (s.inp.nums.getD k 0) == 0
    { s with down := down, dev := { s.dev with
        links := (upTo 26).map fun k => (k, link k)
        found := laneMap s.inp.nums ++ (upTo 3680).map fun i => s.inp.bytes.getD i 0 } }.reroute.upNext

/-- Core `n` as self-test finds it: `w` has bit 0 where it works and its failing courses from bit 1 on. -/
def testedCore (w : Nat) : Core :=
  { Core.init with enabled := bit w 0, mat := { Core.init.mat with failing := bits w 4 1, fenced := bits w 4 1 } }

/-- LIVE and LOST of a stack: beyond four, pseudo-channels that failed are lost (spec/12 R332). -/
def stackState (live lost : Nat) : Word × Word :=
  let bad := (upTo 64).filter fun i => !bit live i && !bit lost i
  let lost' := word lost ||| ((bad.drop 4).foldl (fun a i => a ||| word (2 ^ i)) 0)
  (word live &&& ~~~lost', lost')

/-- The interleave generation of a power-up (spec/12 R335). -/
def State.upIgen (s : State) : Nat :=
  match s.dev.flash.used with
  | none => 1 + Config.firstIgen % 65535
  | some i =>
    let c := s.dev.flash.copies.getD i []
    if (c.drop 0x58).take 128 == s.ilvBytes then recordIgen c else nextIgen (recordIgen c)

/-- Phase 4: `nums` holds a word per core, then LIVE and LOST of each stack. -/
def State.phase4 (s : State) : State :=
  let num := fun (i : Nat) => s.inp.nums.getD i 0
  let cores := (upTo 144).map fun c => (c, testedCore (num c))
  let n := (cores.filter fun c => c.2.enabled).length
  let st := fun (i : Nat) => stackState (num (144 + 2 * i)) (num (145 + 2 * i))
  let s := { s with
    cores := cores, live := Vector.ofFn fun i => (st i.val).1, lost := Vector.ofFn fun i => (st i.val).2
    dev := { s.dev with ncores := n } }
  let s := cores.foldl (fun s c => s.count (0x2400 + 4 * c.1) (popCount 4 c.2.mat.fenced)) s
  let s := { s with igen := s.upIgen }
  if n < 136 then s.upFail 4 else s.upNext

/-- The memory of hosts and peers, which is theirs: the package's power does not touch it. -/
def State.farMem (s : State) : Mem := s.mem.filter fun c => (linkOfKey c.1).isSome
def State.farUe (s : State) : List Nat := s.ue.filter fun u => (linkOfKey (32 * u)).isSome

/-- Phase 5: the package's memory is zero and correct, and every register holds its Reset value: what lasts is what the phases before
it have found, what runs on the Xiost complexes, and the state of ports, hosts, peers and sensors. -/
def State.phase5 (s : State) : State :=
  let d := s.dev
  { State.reset with
    turns := s.turns, cur := s.cur, moving := s.moving, inp := s.inp, free := s.free, cores := s.cores, igen := s.igen
    live := s.live, lost := s.lost, down := s.down, mem := s.farMem, ue := s.farUe
    xi := { active := s.xi.active, sby := s.xi.sby, imgver := s.xi.imgver }
    dev := {
      phase := d.phase, recok := d.recok, idfail := d.idfail, ncores := d.ncores, phy := d.phy, found := d.found
      links := d.links, config := d.config, refused := d.refused, atc := d.atc, clocks := d.clocks, slowed := d.slowed
      long := d.long, powerSteps := d.powerSteps, dieHold := d.dieHold, dieSlow := d.dieSlow, migrate := d.migrate
      flash := d.flash, out := d.out
      counters := d.counters.filter fun c => 0x2400 ≤ c.1 && c.1 < 0x2640 } }.upNext

/-- Phase 6: the record is rewritten if what phases 3 and 4 found differs from it; TICK starts. -/
def State.phase6 (s : State) : State :=
  let f := s.dev.flash
  let old := match f.used with
    | some i => f.copies.getD i []
    | none => []
  let key := if f.used.isSome then (old.drop 0x30).take 32 else Config.rootKey
  let same := s.newRecord (recordSeq old) key
  let writing := if f.used.isSome && (same.take 0xFC0).drop 0x50 == (old.take 0xFC0).drop 0x50 then none
    else some ((match f.used with
      | some i => 1 - i
      | none => 0), s.newRecord (recordSeq old + 1) key)
  let copies := match writing with
    | some (i, _) => f.copies.set i tornCopy
    | none => f.copies
  { s with tick := 0, dev := { s.dev with ready := true, flash := { f with writing := writing, copies := copies } } }

/-- The machine with its supplies back: everything at reset but the flash, the memory of hosts and peers, and what the outside will
do. -/
def State.repowered (s : State) : State :=
  { State.reset with
    turns := s.turns, free := s.free, mem := s.farMem, ue := s.farUe, dev := { flash := s.dev.flash, refused := s.dev.refused } }

/-- POWER_UP (spec/17 R432 to R438): the supplies come into range, what the flash holds is found (phase 0 with `flag`), or the
next phase runs. -/
def execPowerUp (s : State) : Out :=
  .next (if !s.dev.supply then s.repowered
    else if s.dev.ready || s.dev.halted then s
    else match s.dev.phase with
      | 0 => if s.inp.flag then s.learnFlash else s.phase0
      | 1 => s.phase1
      | 2 => s.phase2
      | 3 => s.phase3
      | 4 => s.phase4
      | 5 => s.phase5
      | 6 => s.phase6
      | _ => s)

/-- POWER_UP_PHASE_TIMEOUT (spec/17 R432): the present phase overruns; in phase 0 because no image verifies, or where `flag`
because neither complex runs. -/
def execPowerUpPhaseTimeout (s : State) : Out :=
  .next (if s.dev.ready || 6 < s.dev.phase then s
    else s.upFail (match s.dev.phase with
      | 0 => if s.inp.flag then 2 else 1
      | 3 => 3
      | 4 => 4
      | _ => 0))

/-- RECORD_REWRITE_DONE (spec/17 R436): the copy that was being written is whole. -/
def execRecordRewriteDone (s : State) : Out :=
  let f := s.dev.flash
  .next (match f.writing with
    | none => s
    | some (i, bs) => { s with dev := { s.dev with flash := { f with writing := none, copies := f.copies.set i bs } } })

/-- SUPPLIES_REMOVED (spec/17 R432, R436, R442): all of the package but its flash is lost, the memory of hosts and peers is not; a
copy being written stays invalid. -/
def execSuppliesRemoved (s : State) : Out :=
  let f := s.dev.flash
  let copies := match f.writing with
    | some (i, _) => f.copies.set i tornCopy
    | none => f.copies
  .next { State.reset with
    turns := s.turns, free := s.free, mem := s.farMem, ue := s.farUe
    dev := { supply := false, refused := s.dev.refused, flash := { copies := copies, images := f.images, helper := f.helper, chain := f.chain } } }

/-! ### Attestation (spec/17 R437, R439) -/

/-- Answer an SPDM request of port `port` with code `req`, in negotiation state `need` or later; state becomes `next`. -/
def State.spdmAnswer (s : State) (req need next : Nat) (body : List Nat) : State :=
  let p := s.inp.port
  if 2 ≤ p || !s.dev.ready then s
  else if s.dev.idfail || Tab.get s.dev.spdm p 0 < need then s.send [11, p, 0x7F, req]
  else { s with dev := { s.dev with spdm := Tab.set s.dev.spdm p next } }.send ([11, p, req] ++ body)

/-- The negotiation state of the requesting port. -/
def State.spdmState (s : State) : Nat := Tab.get s.dev.spdm s.inp.port 0

/-- GET_VERSION (spec/17 R439): SPDM 1.2. -/
def execGetVersion (s : State) : Out := .next (s.spdmAnswer 0x84 0 1 [0x12])

/-- GET_CAPABILITIES (spec/17 R439). -/
def execGetCapabilities (s : State) : Out := .next (s.spdmAnswer 0xE1 1 2 [])

/-- NEGOTIATE_ALGORITHMS (spec/17 R439): Ed25519 and SHA-512. -/
def execNegotiateAlgorithms (s : State) : Out := .next (s.spdmAnswer 0xE3 2 3 [25519, 512])

/-- GET_DIGESTS (spec/17 R439). -/
def execGetDigests (s : State) : Out :=
  .next (s.spdmAnswer 0x81 3 s.spdmState ((Config.sha512 s.dev.flash.chain).map (·.toNat)))

/-- GET_CERTIFICATE (spec/17 R439): the chain of slot 0; another slot `code` is an unsupported request. -/
def execGetCertificate (s : State) : Out :=
  .next (if s.inp.code == 0 then s.spdmAnswer 0x82 3 s.spdmState (s.dev.flash.chain.map (·.toNat))
    else s.spdmAnswer 0x7F 0 s.spdmState [0x82])

/-- Measurement block `i` (spec/17 R439). -/
def State.measurement (s : State) (i : Nat) : List Byte :=
  let f := s.dev.flash
  Config.sha512 (match i with
    | 1 => Config.bootRom
    | 2 => f.imgA
    | 3 => f.imgB
    | 4 => (match f.used with
      | some k => (f.copies.getD k []).take 0xFC0
      | none => [])
    | _ => f.helper)

/-- GET_MEASUREMENTS (spec/17 R439): block `code`, or all five for 255, signed with the nonce `bytes` where `flag`. -/
def execGetMeasurements (s : State) : Out :=
  let is := if s.inp.code == 255 then [1, 2, 3, 4, 5] else [s.inp.code]
  let ms := is.flatMap s.measurement
  .next (if s.inp.code == 255 || (1 ≤ s.inp.code && s.inp.code ≤ 5) then
      s.spdmAnswer 0xE0 3 s.spdmState ((ms ++ if s.inp.flag then Config.sign s.dev.flash.ident (ms ++ s.inp.bytes) else []).map (·.toNat))
    else s.spdmAnswer 0x7F 0 s.spdmState [0xE0])

/-! ### Operating limits (spec/17 R441 to R443) -/

/-- A heat step of a core's clock: 2,400, 1,800, 1,200 MHz. -/
def State.heatClock (s : State) (c : Nat) (up : Bool) : State :=
  let f := Tab.get s.dev.clocks c 2400
  let f := if up then min 2400 (f + 600) else max 1200 (f - 600)
  { s with dev := { s.dev with clocks := Tab.set s.dev.clocks c f } }

/-- The clock of a core in MHz: the lower of what heat and power allow. -/
def State.coreClock (s : State) (c : Nat) : Nat := min (Tab.get s.dev.clocks c 2400) (2400 - 300 * s.dev.powerSteps)

/-- The courses in heat skip of core `c`. -/
def State.setHeat (s : State) (c v : Nat) : State := s.onCore c fun x => { x with mat := { x.mat with heat := v } }

/-- `x` with bit `i` as `on` says. -/
def setBit (x i : Nat) (on : Bool) : Nat := x / 2 ^ (i + 1) * 2 ^ (i + 1) + (if on then 2 ^ i else 0) + x % 2 ^ i

/-- Course `i` of core `c` has stepped its clock down, or no longer keeps it down. -/
def State.setSlowed (s : State) (c i : Nat) (on : Bool) : State :=
  { s with dev := { s.dev with slowed := Tab.set s.dev.slowed c (setBit (Tab.get s.dev.slowed c 0) i on) } }

/-- Course `i` of core `c` asks for a migration, or no longer does: the core asks while one of its courses does. -/
def State.setLong (s : State) (c i : Nat) (on : Bool) : State :=
  let m := setBit (Tab.get s.dev.long c 0) i on
  let rest := s.dev.migrate.filter (· != c)
  { s with dev := { s.dev with
      long := Tab.set s.dev.long c m, migrate := if m != 0 && (s.core c).running then c :: rest else rest } }

/-- A course sample of core `c`: course `i` at `t` degrees, in its band for `ms` milliseconds (spec/17 R441).  A fenced course, or one
beside which another is left to P, is skipped; else the clock steps down, and up again when no course keeps it down. -/
def State.courseSample (s : State) (c i t ms : Nat) : State :=
  let m := (s.core c).mat
  if 95 ≤ t then
    let skips := bit m.fenced i || (upTo 4).any fun j => j != i && !bit m.fenced j && !bit m.heat j
    let s := if skips then s.setHeat c (m.heat ||| 2 ^ i)
      else if 1 ≤ ms then (s.setSlowed c i true).heatClock c false else s
    if 2 ≤ ms then s.setLong c i true else s
  else if t < 90 && 1 ≤ ms then
    let s := ((s.setHeat c (m.heat &&& (15 - 2 ^ i))).setSlowed c i false).setLong c i false
    if Tab.get s.dev.slowed c 0 == 0 && !bit m.fenced i then s.heatClock c true else s
  else s

/-- SENSOR_SAMPLE (spec/17 R441): `code` 0 is course `ident` of core `core` at `value` degrees for `len` ms, 1 the base die of
stack `ident`. -/
def execSensorSample (s : State) : Out :=
  let t := s.inp.value
  let i := s.inp.ident
  let h := s.dev.dieHold
  let w := s.dev.dieSlow
  .next (if s.inp.code == 0 then (if i < 4 && s.cur.core < 144 then s.courseSample s.cur.core i t s.inp.len else s)
    else if 8 ≤ i then s
    else { s with dev := { s.dev with
      dieHold := if 85 ≤ t then h ||| 2 ^ i else if t < 80 then h &&& (255 - 2 ^ i) else h
      dieSlow := if 80 ≤ t then w ||| 2 ^ i else w &&& (255 - 2 ^ i) } })

/-- POWER_THROTTLE (spec/17 R443): a mean is at its limit (`flag`), or each is at least 5 % below. -/
def execPowerThrottle (s : State) : Out :=
  .next { s with dev := { s.dev with powerSteps := if s.inp.flag then min 4 (s.dev.powerSteps + 1) else s.dev.powerSteps - 1 } }

/-- THERMAL_SHUTDOWN (spec/17 R442): a course at 115 degrees (`code` 0), a base die at 105 (1), or the core supply outside 640 to
720 mV (2): every clock stops. -/
def execThermalShutdown (s : State) : Out :=
  let v := s.inp.value
  let out : Bool := match s.inp.code with
    | 0 => decide (115 ≤ v)
    | 1 => decide (105 ≤ v)
    | _ => decide (v < 640) || decide (720 < v)
  .next (if out then { s with dev := { s.dev with halted := true, therm := true, failCode := 5, phase := 7 } } else s)

end Sys2Proof.Machine
end

