-- ==== Sys2Proof/Machine/VecShape.lean ====
section
/-! DEFINITION. The V stream's reshaping, counts and exchanges, scratch access and mask instructions (spec/06 R178 to
R189). -/

namespace Sys2Proof.Machine

/-! ### Reshaping (spec/06 R178 to R183) -/

/-- A v source whose tag must be valid in v. -/
def vTagged (pos : Nat) (a : VReg) (g : Got) : Got := if vTag a.tag then g else .trap (cFormat pos 0)

/-- Segments that one step of VCOMPRESS consumes (DESIGN CHOICE, notes/assumptions/16.md). -/
def compressStep : Nat := 64

/-- VCOMPRESS (spec/06 R178): its progress is the segments consumed and the runs built; RUN_CAP is checked on the finished
result. -/
def execVcompress (f : VTwo) (s : State) : Out :=
  let pos := s.cl.pos
  let m := s.srcM f.b
  .next (match s.vOps [] ([], {}) [f.a] with
    | .error g => s.finish f.e g
    | .ok (vs, base) =>
      let a := vs.getD 0 {}
      if !vTag a.tag || m.tag != 11 then s.finish f.e (.trap (cFormat pos 0))
      else if m.len != a.len && m.len != 1 then s.finish f.e (.trap (cVlen pos a.len m.len))
      else
        let p := s.prog
        let segs := segments [a.runs, m.over a.len] (a.n + m.n + 1)
        let kept := ((segs.drop p.step).take compressStep).filter fun g => g.1.getD 1 0 == 1
        let runs := p.runs ++ kept.map fun g => { val := g.1.getD 0 0, cnt := g.2 }
        if p.step + compressStep < segs.length then
          s.boundary { p with active := true, step := p.step + compressStep, runs := runs }
        else s.finish f.e (s.vResult f.d f.w f.c a.tag runs (base.also (markV f.l f.a ++ markM f.k f.b))))

/-- The runs of VEXPAND, along the mask's runs. -/
def expandRuns (a : List Run) : List Run → List Run
  | [] => []
  | r :: rs =>
    if r.val == 1 then sliceRuns 0 r.cnt a ++ expandRuns (sliceRuns r.cnt 65536 a) rs
    else { val := 0, cnt := r.cnt } :: expandRuns a rs

/-- Elements that are 1 in a mask. -/
def VReg.ones (m : VReg) : Nat := m.runs.foldl (fun n r => if r.val == 1 then n + r.cnt else n) 0

/-- VEXPAND (spec/06 R179). -/
def execVexpand (f : VTwo) (s : State) : Out :=
  let pos := s.cl.pos
  let m := s.srcM f.b
  .next (s.finish f.e (s.vOp1 f.a fun a base =>
    if !vTag a.tag || m.tag != 11 then .trap (cFormat pos 0)
    else if a.len != m.ones then .trap (cVlen pos a.len m.ones)
    else s.vResult f.d f.w f.c a.tag (expandRuns a.runs m.runs) (base.also (markV f.l f.a ++ markM f.k f.b))))

/-- VSLICE (spec/06 R180). -/
def execVslice (f : VTwoX) (s : State) : Out :=
  let pos := s.cl.pos
  let x := s.srcX f.b
  let lo := field x 15 0
  let n := field x 31 16
  .next (s.finish f.e (s.vOp1 f.a fun a base =>
    vTagged pos a (
      if field x 63 32 != 0 || a.len < lo + n then .trap (cVlen pos a.len (lo + n))
      else s.vResult f.d f.w f.c a.tag (sliceRuns lo n a.runs) (base.also (markV f.l f.a)))))

/-- VCAT (spec/06 R180). -/
def execVcat (f : VTwo) (s : State) : Out :=
  let pos := s.cl.pos
  .next (s.finish f.e (s.vOp2 f.a f.b fun a b base =>
    vTagged pos a (
      if a.tag != b.tag then .trap (cFormat pos 0)
      else if 65535 < a.len + b.len then .trap (cVlen pos a.len (a.len + b.len))
      else s.vResult f.d f.w f.c a.tag (a.runs ++ b.runs) (base.also (markV f.l f.a ++ markV f.k f.b)))))

/-- A run image (spec/06 R181). -/
def imgTag (x : Word) : Nat := field x 52 48
def imgCnt (x : Word) : Nat := field x 47 32
def imgVal (x : Word) : Nat := field x 31 0

/-- The run of an image, if its count is not 0. -/
def imgRuns (x : Word) : List Run := if imgCnt x == 0 then [] else [{ val := imgVal x, cnt := imgCnt x }]

/-- VEXTEND (spec/06 R181). -/
def execVextend (f : VTwoX) (s : State) : Out :=
  let pos := s.cl.pos
  let x := s.srcX f.b
  .next (s.finish f.e (s.vOp1 f.a fun a base =>
    vTagged pos a (
      if field x 63 53 != 0 || (imgTag x != 0 && imgTag x != a.tag) || 2 ^ tagBits a.tag ≤ imgVal x then .trap (cFormat pos 4)
      else if 65535 < a.len + imgCnt x then .trap (cVlen pos a.len (a.len + imgCnt x))
      else s.vResult f.d f.w f.c a.tag (a.runs ++ imgRuns x) (base.also (markV f.l f.a)))))

/-- VCOAL (spec/06 R182). -/
def execVcoal (f : VOne) (s : State) : Out :=
  .next (s.finish f.e (s.vOp1 f.a fun a base =>
    vTagged s.cl.pos a (s.vResult f.d f.w true a.tag a.runs (base.also (markV f.l f.a)))))

/-- VBCAST (spec/06 R183). -/
def execVbcast (f : VbcastF) (s : State) : Out :=
  let pos := s.cl.pos
  .next (s.finish f.e (s.vOp2 f.a f.b fun a b base =>
    vTagged pos a (
      match a.runs with
      | [] => .trap (cVlen pos 0 0)
      | r :: _ => s.vResult f.d f.w false a.tag (if b.len == 0 then [] else [{ val := r.val, cnt := b.len }])
          (base.also (markV f.l f.a ++ markV f.k f.b)))))

/-- VIOTA (spec/06 R183). -/
def execViota (f : VOne) (s : State) : Out :=
  .next (s.finish f.e (s.vOp1 f.a fun a base =>
    s.vResult f.d f.w false 4 ((upTo a.len).map fun i => { val := i, cnt := 1 }) (base.also (markV f.l f.a))))

/-! ### Counts and exchanges (spec/06 R184) -/

/-- The register VRUNS and VLEN read. -/
def State.vOrM (s : State) (f : VlenF) : VReg :=
  if f.b then s.srcM f.a
  else match f.a with
    | .reg n => s.vw.vreg n
    | .latch k => s.latchVec k
    | .queue _ => {}

/-- VRUNS. -/
def execVruns (f : VlenF) (s : State) : Out := .next (s.finish f.e (.done (toX f.d f.w (word (s.vOrM f).n))))

/-- VLEN. -/
def execVlen (f : VlenF) (s : State) : Out :=
  let r := s.vOrM f
  .next (s.finish f.e (.done (toX f.d f.w (word (r.len + r.tag * 2 ^ 16)))))

/-- VMOVX into v. -/
def execVmovxToV (f : R1) (s : State) : Out :=
  let x := s.srcX f.a
  .next (s.finish f.e (
    if field x 63 53 != 0 || !vTag (imgTag x) || 2 ^ tagBits (imgTag x) ≤ imgVal x then .trap (cFormat s.cl.pos 4)
    else s.vResult f.d f.w false (imgTag x) (imgRuns x) {}))

/-- VMOVX into x: the image of the first run. -/
def execVmovxToX (f : R1) (s : State) : Out :=
  .next (s.finish f.e (s.vOp1 f.a fun a _ =>
    let r := a.runs.headD { val := 0, cnt := 0 }
    .done (toX f.d f.w (word (r.val + r.cnt * 2 ^ 32 + a.tag * 2 ^ 48)))))

/-! ### Scratch access (spec/06 R185 to R188) -/

/-- Fields of the scratch operand word. -/
def scrOff (x : Word) : Nat := field x 23 0
def scrLen (x : Word) : Nat := field x 39 24
def scrFmt (x : Word) : Nat := field x 44 40
def scrRs (x : Word) : Bool := wbit x 45

/-- FORMAT code 2, ALIGN and PROT carry the offset. -/
def cScr (code : Nat) (x : Word) : Cause := { code := code, i0 := word (scrOff x), i1 := if code == 3 then 2 else 0 }

/-- Whether an operand word breaks R185: `rs` and `len` say whether RS and LEN may be set, `fmt` whether FMT is an element
tag or must be 0. -/
def scrBad (x : Word) (rs len fmt : Bool) : Bool :=
  field x 63 46 != 0 || (!rs && scrRs x) || (!(len && !scrRs x) && scrLen x != 0)
    || (if fmt then !vTag (scrFmt x) else scrFmt x != 0)

/-- Whether `n` bytes from offset `off` leave the core's scratch. -/
def State.scrOut (s : State) (off n : Nat) : Bool := n != 0 && s.me.scrBytes < off + n

/-- `n` bytes of the core's scratch as the moving stream sees them. -/
def State.scrBytesAt (s : State) (off n : Nat) : List Byte := (upTo n).map fun i => s.look s.agent (scratchKey s.cur.core (off + i))

/-- `n` bytes of the core's scratch, or REG_UE where an uncorrectable word lies in them (spec/10 R285; after the checks of the
operand word: DESIGN CHOICE, notes/assumptions/66.md). -/
def State.scrRead (s : State) (off n : Nat) : Except Cause (List Byte) :=
  match s.scratchFlaw off n with
  | some c => .error c
  | none => .ok (s.scrBytesAt off n)

/-- A write to the core's scratch. -/
def State.scrStore (s : State) (off : Nat) (bs : List Byte) : List Eff :=
  if bs.isEmpty then [] else [.store (cellsAt (scratchKey s.cur.core off) bs) off]

/-- A run word (spec/05 R140). -/
def runWord (r : Run) : Nat := r.val + r.cnt * 2 ^ 32

/-- Run words as runs, or none where one breaks R140 for values of `w` bits. -/
def runWords (w : Nat) (bs : List Byte) : Option (List Run) :=
  let ws := (chunks 8 bs.length bs).map ofBytes
  if ws.any fun x => bits x 47 32 == 0 || bits x 63 48 != 0 || 2 ^ w ≤ x % 2 ^ 32 then none
  else some (ws.map fun x => { val := x % 2 ^ 32, cnt := bits x 47 32 })

/-- EXPAND of VLDS. -/
def cScrExpand (x : Word) (reason : Nat) : Cause := cExpand (scrOff x) reason

/-- VLDS in the run-stream format (spec/06 R159, R186). -/
def State.vldsRuns (s : State) (f : VldsF) (x : Word) : Got :=
  let off := scrOff x
  if off % 8 != 0 then .trap (cScr 7 x)
  else if s.scrOut off 8 then .trap (cScr 9 x)
  else match s.scrRead off 8 with
  | .error c => .trap c
  | .ok hb =>
    let h := ofBytes hb
    let dcount := bits h 23 0
    let elen := bits h 47 24
    if 65535 < dcount then .trap (cVlen s.cl.pos dcount 0)
    else if dcount == 0 || 65536 < elen then .trap (cScrExpand x 3)
    else if s.scrOut (off + 8) elen then .trap (cScr 9 x)
    else match s.scrRead (off + 8) elen with
    | .error c => .trap c
    | .ok bs => match (if bits h 63 48 != 0 || elen % 8 != 0 then none else runWords (tagBits (scrFmt x)) bs) with
      | none => .trap (cScrExpand x 2)
      | some rs => if runsLen rs != dcount then .trap (cScrExpand x 2) else s.vResult f.d f.w f.c (scrFmt x) rs {}

/-- VLDS (spec/06 R186). -/
def execVlds (f : VldsF) (s : State) : Out :=
  let x := s.srcX f.b
  let t := scrFmt x
  .next (s.finish f.e (
    if scrBad x true true true then .trap (cScr 3 x)
    else if scrRs x then s.vldsRuns f x
    else
      let n := packedBytes t (scrLen x)
      if scrOff x % elemBytes t != 0 then .trap (cScr 7 x)
      else if s.scrOut (scrOff x) n then .trap (cScr 9 x)
      else match s.scrRead (scrOff x) n with
        | .error c => .trap c
        | .ok bs => s.vResult f.d f.w true t ((upTo (scrLen x)).map fun j => { val := elemOf t bs j, cnt := 1 }) {}))

/-- Packed bytes of codes; the upper nibble of a last byte that holds one element stays. -/
def State.scrPacked (s : State) (t off : Nat) (codes : List Nat) : List Byte :=
  let bs := packElems t codes
  if tagBits t == 4 && codes.length % 2 == 1 then
    let old := (s.byteAfter (scratchKey s.cur.core (off + bs.length - 1))).toNat
    bs.set (bs.length - 1) (BitVec.ofNat 8 (codes.getLastD 0 % 16 + old / 16 * 16))
  else bs

/-- VSTS (spec/06 R186). -/
def execVsts (f : VstF) (s : State) : Out :=
  let x := s.srcX f.b
  let t := scrFmt x
  .next (s.finish f.e (s.vOp1 f.a fun a base =>
    if scrBad x true false true then .trap (cScr 3 x)
    else if a.tag != t then .trap (cFormat s.cl.pos 0)
    else if scrOff x % (if scrRs x then 8 else elemBytes t) != 0 then .trap (cScr 7 x)
    else if s.scrOut (scrOff x) (if a.len == 0 then 0 else if scrRs x then 8 + 8 * a.n else packedBytes t a.len) then .trap (cScr 9 x)
    else
      let bs := if a.len == 0 then []
        else if scrRs x then bytesOf 8 (a.len + 8 * a.n * 2 ^ 24) ++ a.runs.flatMap fun r => bytesOf 8 (runWord r)
        else s.scrPacked t (scrOff x) a.codes
      .done { base.also (s.scrStore (scrOff x) bs ++ markV f.l f.a) with
        rests := if scrRs x then [] else nibbleKeys t ((upTo bs.length).map fun i => scratchKey s.cur.core (scrOff x + i)) }))

/-- VSPILL (spec/06 R187). -/
def execVspill (f : VstF) (s : State) : Out :=
  let x := s.srcX f.b
  .next (s.finish f.e (s.vOp1 f.a fun a base =>
    if scrBad x false false false then .trap (cScr 3 x)
    else if scrOff x % 8 != 0 then .trap (cScr 7 x)
    else if s.scrOut (scrOff x) (8 + 8 * a.n) then .trap (cScr 9 x)
    else
      let bs := bytesOf 8 (a.len + a.n * 2 ^ 16 + a.tag * 2 ^ 32) ++ a.runs.flatMap fun r => bytesOf 8 (runWord r)
      .done (base.also (s.scrStore (scrOff x) bs ++ markV f.l f.a))))

/-- VFILL (spec/06 R159, R187).  A value under TAG NONE has no bits: a run of another value than 0 is refused (DESIGN CHOICE,
notes/assumptions/70.md). -/
def execVfill (f : VfillF) (s : State) : Out :=
  let x := s.srcX f.b
  let off := scrOff x
  let pos := s.cl.pos
  .next (s.finish f.e (
    if scrBad x false false false then .trap (cScr 3 x)
    else if off % 8 != 0 then .trap (cScr 7 x)
    else if s.scrOut off 8 then .trap (cScr 9 x)
    else match s.scrRead off 8 with
    | .error c => .trap c
    | .ok hb =>
      let h := ofBytes hb
      let tag := bits h 36 32
      let n := bits h 31 16
      if bits h 63 37 != 0 || (tag != 0 && !vTag tag) || 8192 < n then .trap (cFormat pos 3)
      else if s.scrOut (off + 8) (8 * n) then .trap (cScr 9 x)
      else match s.scrRead (off + 8) (8 * n) with
      | .error c => .trap c
      | .ok bs => match runWords (if tag == 0 then 0 else tagBits tag) bs with
        | none => .trap (cFormat pos 3)
        | some rs => if runsLen rs != bits h 15 0 then .trap (cFormat pos 3) else s.vResult f.d f.w false tag rs {}))

/-- The scratch offset of the element of index `i` (spec/06 R188). -/
def idxOff (x : Word) (i : Int) : Int :=
  (scrOff x : Int) + (if tagBits (scrFmt x) == 4 then i / 2 else i * elemBytes (scrFmt x))

/-- PROT of an index, and REG_UE where its element is read. -/
def State.idxCheck (s : State) (x : Word) (reads : Bool) (code : Nat) : Option Cause :=
  let i := signed 32 code
  if i < 0 || ((s.me.scrBytes : Nat) : Int) < idxOff x i + elemBytes (scrFmt x) then
    some { code := 9, i0 := BitVec.ofInt 64 (idxOff x i) }
  else if reads then s.scratchFlaw (idxOff x i).toNat (elemBytes (scrFmt x)) else none

/-- The element of index code `i`. -/
def State.idxRead (s : State) (x : Word) (i : Nat) : Nat :=
  let v := ofBytes (s.scrBytesAt (idxOff x i).toNat (elemBytes (scrFmt x)))
  if tagBits (scrFmt x) == 4 then v / 16 ^ (i % 2) % 16 else v

/-- VGATHER (spec/06 R188). -/
def execVgather (f : VgatherF) (s : State) : Out :=
  let x := s.srcX f.b
  .next (s.finish f.e (s.vOp1 f.a fun a base =>
    if scrBad x false false true then .trap (cScr 3 x)
    else
      let el : Elt := { vs := [a], old := s.vw.vreg f.d, mask := f.m, z := f.z, base := base }
      s.eltwise el (if a.tag == 4 then some (scrFmt x) else none) false (fun v => s.idxCheck x true (v.getD 0 0))
        (fun _ _ v => (s.idxRead x (v.getD 0 0), 0)) fun t raw r =>
          s.vResult f.d f.w f.c t raw (r.also (markV f.l f.a))))

/-- One element written by VSCATTER over the cells so far, newest first. -/
def State.scatter1 (s : State) (x : Word) (done : List Host.Cell) (i code : Nat) : List Host.Cell :=
  let t := scrFmt x
  let k := scratchKey s.cur.core (idxOff x i).toNat
  if tagBits t == 4 then
    let old := (match done.find? fun (c : Host.Cell) => c.1 == k with
      | some c => c.2
      | none => s.byteAfter k).toNat
    (k, BitVec.ofNat 8 (if i % 2 == 1 then old % 16 + 16 * (code % 16) else old / 16 * 16 + code % 16)) :: done
  else (cellsAt k (bytesOf (elemBytes t) code)).reverse ++ done

/-- VSCATTER (spec/06 R188): positions in rising order, so the elements of a segment all write the same place. -/
def execVscatter (f : VscatterF) (s : State) : Out :=
  let x := s.srcX f.b
  let pos := s.cl.pos
  .next (s.finish f.e (s.vOp1 f.a fun a base =>
    let d := s.vw.vreg f.d
    let m := s.vw.mreg f.m
    if scrBad x false false true then .trap (cScr 3 x)
    else if a.tag != 4 || d.tag != scrFmt x || (f.m != 0 && m.tag != 11) then .trap (cFormat pos 0)
    else if d.len != a.len && d.len != 1 then .trap (cVlen pos a.len d.len)
    else
      let ops := [a, d] ++ (if f.m != 0 then [m] else [])
      match lenRule pos ops with
      | .error c => .trap c
      | .ok len =>
        let segs := (segsOf len ops).filter fun g => f.m == 0 || g.1.getD 2 0 == 1
        match segs.findSome? fun g => s.idxCheck x false (g.1.getD 0 0) with
        | some c => .trap c
        | none =>
          let cells := segs.foldl (fun done g => s.scatter1 x done (g.1.getD 0 0) (g.1.getD 1 0)) []
          .done { base.also ((if cells.isEmpty then [] else [.store cells.reverse (scrOff x)]) ++ markV f.l f.a) with
            rests := nibbleKeys (scrFmt x) (cells.map (·.1)) }))

/-! ### Mask instructions (spec/06 R189) -/

/-- A mask instruction on m sources. -/
def State.mOp (s : State) (e : Bool) (d : Nat) (w : Bool) (ms : List VReg) (fn : List Nat → Bool) : Out :=
  let pos := s.cl.pos
  .next (s.finish e (
    if ms.any fun m => m.tag != 11 then .trap (cFormat pos 0)
    else match lenRule pos ms with
      | .error c => .trap c
      | .ok len => s.mResult d w ((segsOf len ms).map fun g => { val := b2n (fn g.1), cnt := g.2 }) {}))

/-- MAND. -/
def execMand (f : RR) (s : State) : Out := s.mOp f.e f.d f.w [s.srcM f.a, s.srcM f.b] fun v => v.all (· == 1)

/-- MOR. -/
def execMor (f : RR) (s : State) : Out := s.mOp f.e f.d f.w [s.srcM f.a, s.srcM f.b] fun v => v.any (· == 1)

/-- MXOR. -/
def execMxor (f : RR) (s : State) : Out := s.mOp f.e f.d f.w [s.srcM f.a, s.srcM f.b] fun v => v.getD 0 0 != v.getD 1 0

/-- MNOT. -/
def execMnot (f : R1) (s : State) : Out := s.mOp f.e f.d f.w [s.srcM f.a] fun v => v.getD 0 0 == 0

/-- MPOPC. -/
def execMpopc (f : R1) (s : State) : Out :=
  let m := s.srcM f.a
  .next (s.finish f.e (if m.tag != 11 then .trap (cFormat s.cl.pos 0) else .done (toX f.d f.w (word m.ones))))

end Sys2Proof.Machine
end

