-- ==== Sys2Proof/Machine/Dispatch.lean ====
section
/-! DEFINITION. The meaning of every instruction and event: one arm per constructor. -/

namespace Sys2Proof.Machine

/-- The meaning of an instruction or event in a state. -/
def exec (i : Instr) (s : State) : Host.Outcome State Fault Refusal :=
  match i with
  | .add f => Sys2Proof.Machine.execAdd f s
  | .sub f => Sys2Proof.Machine.execSub f s
  | .mul f => Sys2Proof.Machine.execMul f s
  | .mulh f => Sys2Proof.Machine.execMulh f s
  | .div f => Sys2Proof.Machine.execDiv f s
  | .rem f => Sys2Proof.Machine.execRem f s
  | .and f => Sys2Proof.Machine.execAnd f s
  | .or f => Sys2Proof.Machine.execOr f s
  | .xor f => Sys2Proof.Machine.execXor f s
  | .andn f => Sys2Proof.Machine.execAndn f s
  | .shl f => Sys2Proof.Machine.execShl f s
  | .shr f => Sys2Proof.Machine.execShr f s
  | .shra f => Sys2Proof.Machine.execShra f s
  | .rot f => Sys2Proof.Machine.execRot f s
  | .min f => Sys2Proof.Machine.execMin f s
  | .max f => Sys2Proof.Machine.execMax f s
  | .seteq f => Sys2Proof.Machine.execSeteq f s
  | .setlt f => Sys2Proof.Machine.execSetlt f s
  | .setltu f => Sys2Proof.Machine.execSetltu f s
  | .popc f => Sys2Proof.Machine.execPopc f s
  | .clz f => Sys2Proof.Machine.execClz f s
  | .ctz f => Sys2Proof.Machine.execCtz f s
  | .brev f => Sys2Proof.Machine.execBrev f s
  | .bext f => Sys2Proof.Machine.execBext f s
  | .bextu f => Sys2Proof.Machine.execBextu f s
  | .bins f => Sys2Proof.Machine.execBins f s
  | .fshl f => Sys2Proof.Machine.execFshl f s
  | .fshr f => Sys2Proof.Machine.execFshr f s
  | .addi f => Sys2Proof.Machine.execAddi f s
  | .andi f => Sys2Proof.Machine.execAndi f s
  | .ori f => Sys2Proof.Machine.execOri f s
  | .xori f => Sys2Proof.Machine.execXori f s
  | .shli f => Sys2Proof.Machine.execShli f s
  | .shri f => Sys2Proof.Machine.execShri f s
  | .shrai f => Sys2Proof.Machine.execShrai f s
  | .roti f => Sys2Proof.Machine.execRoti f s
  | .mini f => Sys2Proof.Machine.execMini f s
  | .maxi f => Sys2Proof.Machine.execMaxi f s
  | .seteqi f => Sys2Proof.Machine.execSeteqi f s
  | .setlti f => Sys2Proof.Machine.execSetlti f s
  | .setltui f => Sys2Proof.Machine.execSetltui f s
  | .movhi f => Sys2Proof.Machine.execMovhi f s
  | .beq f => Sys2Proof.Machine.execBeq f s
  | .bne f => Sys2Proof.Machine.execBne f s
  | .blt f => Sys2Proof.Machine.execBlt f s
  | .bge f => Sys2Proof.Machine.execBge f s
  | .bltu f => Sys2Proof.Machine.execBltu f s
  | .bgeu f => Sys2Proof.Machine.execBgeu f s
  | .jmp f => Sys2Proof.Machine.execJmp f s
  | .jal f => Sys2Proof.Machine.execJal f s
  | .jr f => Sys2Proof.Machine.execJr f s
  | .xmovXToS f => Sys2Proof.Machine.execXmovXToS f s
  | .xmovSToX f => Sys2Proof.Machine.execXmovSToX f s
  | .ld f => Sys2Proof.Machine.execLd f s
  | .st f => Sys2Proof.Machine.execSt f s
  | .lda f => Sys2Proof.Machine.execLda f s
  | .strel f => Sys2Proof.Machine.execStrel f s
  | .cas f => Sys2Proof.Machine.execCas f s
  | .amo f => Sys2Proof.Machine.execAmo f s
  | .nadd f => Sys2Proof.Machine.execNadd f s
  | .fence f => Sys2Proof.Machine.execFence f s
  | .bind f => Sys2Proof.Machine.execBind f s
  | .unbind f => Sys2Proof.Machine.execUnbind f s
  | .acq f => Sys2Proof.Machine.execAcq f s
  | .rel f => Sys2Proof.Machine.execRel f s
  | .lpatch f => Sys2Proof.Machine.execLpatch f s
  | .larm f => Sys2Proof.Machine.execLarm f s
  | .larmw f => Sys2Proof.Machine.execLarmw f s
  | .eput f => Sys2Proof.Machine.execEput f s
  | .eputW f => Sys2Proof.Machine.execEputW f s
  | .susp f => Sys2Proof.Machine.execSusp f s
  | .suspBar f => Sys2Proof.Machine.execSuspBar f s
  | .suspEnd f => Sys2Proof.Machine.execSuspEnd f s
  | .yield f => Sys2Proof.Machine.execYield f s
  | .wid f => Sys2Proof.Machine.execWid f s
  | .npbegin f => Sys2Proof.Machine.execNpbegin f s
  | .npend f => Sys2Proof.Machine.execNpend f s
  | .trap f => Sys2Proof.Machine.execTrap f s
  | .eret f => Sys2Proof.Machine.execEret f s
  | .eretRun f => Sys2Proof.Machine.execEretRun f s
  | .eretFail f => Sys2Proof.Machine.execEretFail f s
  | .sysrd f => Sys2Proof.Machine.execSysrd f s
  | .syswr f => Sys2Proof.Machine.execSyswr f s
  | .brk f => Sys2Proof.Machine.execBrk f s
  | .wfe f => Sys2Proof.Machine.execWfe f s
  | .tkgive f => Sys2Proof.Machine.execTkgive f s
  | .tktake f => Sys2Proof.Machine.execTktake f s
  | .loopImm f => Sys2Proof.Machine.execLoopImm f s
  | .loopReg f => Sys2Proof.Machine.execLoopReg f s
  | .dpair f => Sys2Proof.Machine.execDpair f s
  | .aadd f => Sys2Proof.Machine.execAadd f s
  | .asub f => Sys2Proof.Machine.execAsub f s
  | .amul f => Sys2Proof.Machine.execAmul f s
  | .ashl f => Sys2Proof.Machine.execAshl f s
  | .ashr f => Sys2Proof.Machine.execAshr f s
  | .aand f => Sys2Proof.Machine.execAand f s
  | .aor f => Sys2Proof.Machine.execAor f s
  | .amin f => Sys2Proof.Machine.execAmin f s
  | .amax f => Sys2Proof.Machine.execAmax f s
  | .aaddi f => Sys2Proof.Machine.execAaddi f s
  | .amuli f => Sys2Proof.Machine.execAmuli f s
  | .ashli f => Sys2Proof.Machine.execAshli f s
  | .ashri f => Sys2Proof.Machine.execAshri f s
  | .aandi f => Sys2Proof.Machine.execAandi f s
  | .aori f => Sys2Proof.Machine.execAori f s
  | .amini f => Sys2Proof.Machine.execAmini f s
  | .amaxi f => Sys2Proof.Machine.execAmaxi f s
  | .abr f => Sys2Proof.Machine.execAbr f s
  | .xmovXToA f => Sys2Proof.Machine.execXmovXToA f s
  | .xmovAToX f => Sys2Proof.Machine.execXmovAToX f s
  | .tdmake f => Sys2Proof.Machine.execTdmake f s
  | .tdinfo f => Sys2Proof.Machine.execTdinfo f s
  | .tld f => Sys2Proof.Machine.execTld f s
  | .tst f => Sys2Proof.Machine.execTst f s
  | .vld f => Sys2Proof.Machine.execVld f s
  | .vst f => Sys2Proof.Machine.execVst f s
  | .qbind f => Sys2Proof.Machine.execQbind f s
  | .qunbind f => Sys2Proof.Machine.execQunbind f s
  | .qpos f => Sys2Proof.Machine.execQpos f s
  | .tcopy f => Sys2Proof.Machine.execTcopy f s
  | .tcopyTile f => Sys2Proof.Machine.execTcopyTile f s
  | .cwait f => Sys2Proof.Machine.execCwait f s
  | .cresume f => Sys2Proof.Machine.execCresume f s
  | .cresumeAbort f => Sys2Proof.Machine.execCresumeAbort f s
  | .cstage f => Sys2Proof.Machine.execCstage f s
  | .barinit f => Sys2Proof.Machine.execBarinit f s
  | .bararrive f => Sys2Proof.Machine.execBararrive f s
  | .barwait f => Sys2Proof.Machine.execBarwait f s
  | .crcget f => Sys2Proof.Machine.execCrcget f s
  | .vadd f => Sys2Proof.Machine.execVadd f s
  | .vsub f => Sys2Proof.Machine.execVsub f s
  | .vmul f => Sys2Proof.Machine.execVmul f s
  | .vfma f => Sys2Proof.Machine.execVfma f s
  | .vdiv f => Sys2Proof.Machine.execVdiv f s
  | .vmin f => Sys2Proof.Machine.execVmin f s
  | .vmax f => Sys2Proof.Machine.execVmax f s
  | .vand f => Sys2Proof.Machine.execVand f s
  | .vor f => Sys2Proof.Machine.execVor f s
  | .vxor f => Sys2Proof.Machine.execVxor f s
  | .vshl f => Sys2Proof.Machine.execVshl f s
  | .vshr f => Sys2Proof.Machine.execVshr f s
  | .vcmp f => Sys2Proof.Machine.execVcmp f s
  | .vsel f => Sys2Proof.Machine.execVsel f s
  | .vmov f => Sys2Proof.Machine.execVmov f s
  | .vneg f => Sys2Proof.Machine.execVneg f s
  | .vabs f => Sys2Proof.Machine.execVabs f s
  | .vsqrt f => Sys2Proof.Machine.execVsqrt f s
  | .vexp2 f => Sys2Proof.Machine.execVexp2 f s
  | .vlog2 f => Sys2Proof.Machine.execVlog2 f s
  | .vrcp f => Sys2Proof.Machine.execVrcp f s
  | .vrsqrt f => Sys2Proof.Machine.execVrsqrt f s
  | .vtanh f => Sys2Proof.Machine.execVtanh f s
  | .vsigm f => Sys2Proof.Machine.execVsigm f s
  | .vcvt f => Sys2Proof.Machine.execVcvt f s
  | .vquant f => Sys2Proof.Machine.execVquant f s
  | .vbcast f => Sys2Proof.Machine.execVbcast f s
  | .viota f => Sys2Proof.Machine.execViota f s
  | .vrsum f => Sys2Proof.Machine.execVrsum f s
  | .vrmax f => Sys2Proof.Machine.execVrmax f s
  | .vrmin f => Sys2Proof.Machine.execVrmin f s
  | .vcompress f => Sys2Proof.Machine.execVcompress f s
  | .vexpand f => Sys2Proof.Machine.execVexpand f s
  | .vslice f => Sys2Proof.Machine.execVslice f s
  | .vcat f => Sys2Proof.Machine.execVcat f s
  | .vextend f => Sys2Proof.Machine.execVextend f s
  | .vcoal f => Sys2Proof.Machine.execVcoal f s
  | .vruns f => Sys2Proof.Machine.execVruns f s
  | .vlen f => Sys2Proof.Machine.execVlen f s
  | .vspill f => Sys2Proof.Machine.execVspill f s
  | .vfill f => Sys2Proof.Machine.execVfill f s
  | .vlds f => Sys2Proof.Machine.execVlds f s
  | .vsts f => Sys2Proof.Machine.execVsts f s
  | .vgather f => Sys2Proof.Machine.execVgather f s
  | .vscatter f => Sys2Proof.Machine.execVscatter f s
  | .vmovxToV f => Sys2Proof.Machine.execVmovxToV f s
  | .vmovxToX f => Sys2Proof.Machine.execVmovxToX f s
  | .mand f => Sys2Proof.Machine.execMand f s
  | .mor f => Sys2Proof.Machine.execMor f s
  | .mxor f => Sys2Proof.Machine.execMxor f s
  | .mnot f => Sys2Proof.Machine.execMnot f s
  | .mpopc f => Sys2Proof.Machine.execMpopc f s
  | .mshape f => Sys2Proof.Machine.execMshape f s
  | .cshape f => Sys2Proof.Machine.execCshape f s
  | .mzeroC f => Sys2Proof.Machine.execMzeroC f s
  | .mzeroT f => Sys2Proof.Machine.execMzeroT f s
  | .mlds f => Sys2Proof.Machine.execMlds f s
  | .mldsSp f => Sys2Proof.Machine.execMldsSp f s
  | .mswap f => Sys2Proof.Machine.execMswap f s
  | .mma f => Sys2Proof.Machine.execMma f s
  | .mnest f => Sys2Proof.Machine.execMnest f s
  | .mgo f => Sys2Proof.Machine.execMgo f s
  | .mwait f => Sys2Proof.Machine.execMwait f s
  | .mrpt f => Sys2Proof.Machine.execMrpt f s
  | .mmode f => Sys2Proof.Machine.execMmode f s
  | .maccCvt f => Sys2Proof.Machine.execMaccCvt f s
  | .maccRelu f => Sys2Proof.Machine.execMaccRelu f s
  | .maccAdd f => Sys2Proof.Machine.execMaccAdd f s
  | .maccScl f => Sys2Proof.Machine.execMaccScl f s
  | .maccLd f => Sys2Proof.Machine.execMaccLd f s
  | .mtest f => Sys2Proof.Machine.execMtest f s
  | .act k r imd => Sys2Proof.Machine.execAct k r imd s
  | .pre k => Sys2Proof.Machine.execPre k s
  | .ref k => Sys2Proof.Machine.execRef k s
  | .rd k => Sys2Proof.Machine.execRd k s
  | .wr k src => Sys2Proof.Machine.execWr k src s
  | .cmp o src n => Sys2Proof.Machine.execCmp o src n s
  | .awr d => Sys2Proof.Machine.execAwr d s
  | .ttp x y z t => Sys2Proof.Machine.execTtp x y z t s
  | .ttpT x y t => Sys2Proof.Machine.execTtpT x y t s
  | .tand x n => Sys2Proof.Machine.execTand x n s
  | .tor x n => Sys2Proof.Machine.execTor x n s
  | .tcnt d => Sys2Proof.Machine.execTcnt d s
  | .setk src => Sys2Proof.Machine.execSetk src s
  | .setm src => Sys2Proof.Machine.execSetm src s
  | .movi d imd => Sys2Proof.Machine.execMovi d imd s
  | .moviAdd d imd => Sys2Proof.Machine.execMoviAdd d imd s
  | .moviSh d imd => Sys2Proof.Machine.execMoviSh d imd s
  | .vlde f o => Sys2Proof.Machine.execVlde f o s
  | .mv a f l => Sys2Proof.Machine.execMv a f l s
  | .sadd a j imd => Sys2Proof.Machine.execSadd a j imd s
  | .redAdd d src => Sys2Proof.Machine.execRedAdd d src s
  | .redMax d src => Sys2Proof.Machine.execRedMax d src s
  | .redSum src e => Sys2Proof.Machine.execRedSum src e s
  | .accz a => Sys2Proof.Machine.execAccz a s
  | .acczW a => Sys2Proof.Machine.execAcczW a s
  | .accst a f => Sys2Proof.Machine.execAccst a f s
  | .mcast k src r => Sys2Proof.Machine.execMcast k src r s
  | .bgcopy src e d f => Sys2Proof.Machine.execBgcopy src e d f s
  | .naddx d => Sys2Proof.Machine.execNaddx d s
  | .sig l c v => Sys2Proof.Machine.execSig l c v s
  | .waits l c v => Sys2Proof.Machine.execWaits l c v s
  | .idmasJmp t => Sys2Proof.Machine.execIdmasJmp t s
  | .bnz e d t => Sys2Proof.Machine.execBnz e d t s
  | .idmasLoop n c l => Sys2Proof.Machine.execIdmasLoop n c l s
  | .idmasLoopReg n src l => Sys2Proof.Machine.execIdmasLoopReg n src l s
  | .halt c => Sys2Proof.Machine.execHalt c s
  | .wfeTimeout => Sys2Proof.Machine.execWfeTimeout s
  | .streamFetch => Sys2Proof.Machine.execStreamFetch s
  | .transferComplete => Sys2Proof.Machine.execTransferComplete s
  | .copyFault => Sys2Proof.Machine.execCopyFault s
  | .mldsReadDone => Sys2Proof.Machine.execMldsReadDone s
  | .courseSelfTest => Sys2Proof.Machine.execCourseSelfTest s
  | .token => Sys2Proof.Machine.execToken s
  | .nprOverrun => Sys2Proof.Machine.execNprOverrun s
  | .handlerLimitExpiry => Sys2Proof.Machine.execHandlerLimitExpiry s
  | .trapEntry => Sys2Proof.Machine.execTrapEntry s
  | .srbEviction => Sys2Proof.Machine.execSrbEviction s
  | .preAll => Sys2Proof.Machine.execPreAll s
  | .rdLanding => Sys2Proof.Machine.execRdLanding s
  | .rowend => Sys2Proof.Machine.execRowend s
  | .tnot => Sys2Proof.Machine.execTnot s
  | .engineInstanceStart => Sys2Proof.Machine.execEngineInstanceStart s
  | .engineStop => Sys2Proof.Machine.execEngineStop s
  | .refreshDeadline => Sys2Proof.Machine.execRefreshDeadline s
  | .rowIntervalExpiry => Sys2Proof.Machine.execRowIntervalExpiry s
  | .mainDieRequest => Sys2Proof.Machine.execMainDieRequest s
  | .arbitrationWindow => Sys2Proof.Machine.execArbitrationWindow s
  | .nearMemoryAddAccept => Sys2Proof.Machine.execNearMemoryAddAccept s
  | .detFlush => Sys2Proof.Machine.execDetFlush s
  | .pseudoChannelRetire => Sys2Proof.Machine.execPseudoChannelRetire s
  | .migrationRowCopy => Sys2Proof.Machine.execMigrationRowCopy s
  | .pseudoChannelLoss => Sys2Proof.Machine.execPseudoChannelLoss s
  | .rasPolicyTrigger => Sys2Proof.Machine.execRasPolicyTrigger s
  | .keystoneStorageUe => Sys2Proof.Machine.execKeystoneStorageUe s
  | .admission => Sys2Proof.Machine.execAdmission s
  | .instanceCreate => Sys2Proof.Machine.execInstanceCreate s
  | .semaphoreMonitorRead => Sys2Proof.Machine.execSemaphoreMonitorRead s
  | .dispatchRound => Sys2Proof.Machine.execDispatchRound s
  | .preEmption => Sys2Proof.Machine.execPreEmption s
  | .asyncMemUe => Sys2Proof.Machine.execAsyncMemUe s
  | .coreReset => Sys2Proof.Machine.execCoreReset s
  | .coreWatchdogExpiry => Sys2Proof.Machine.execCoreWatchdogExpiry s
  | .evacuationTimeout => Sys2Proof.Machine.execEvacuationTimeout s
  | .coreResetDone => Sys2Proof.Machine.execCoreResetDone s
  | .checkpointSave => Sys2Proof.Machine.execCheckpointSave s
  | .checkpointRestore => Sys2Proof.Machine.execCheckpointRestore s
  | .checkpointResume => Sys2Proof.Machine.execCheckpointResume s
  | .checkpointFenceTimeout => Sys2Proof.Machine.execCheckpointFenceTimeout s
  | .checkpointStreamDone => Sys2Proof.Machine.execCheckpointStreamDone s
  | .checkpointPortLost => Sys2Proof.Machine.execCheckpointPortLost s
  | .qnotifyWrite => Sys2Proof.Machine.execQnotifyWrite s
  | .queueEnable => Sys2Proof.Machine.execQueueEnable s
  | .queueDisable => Sys2Proof.Machine.execQueueDisable s
  | .scannerStep => Sys2Proof.Machine.execScannerStep s
  | .nop => Sys2Proof.Machine.execNop s
  | .arm => Sys2Proof.Machine.execArm s
  | .signal => Sys2Proof.Machine.execSignal s
  | .wait => Sys2Proof.Machine.execWait s
  | .waitPoll => Sys2Proof.Machine.execWaitPoll s
  | .inval => Sys2Proof.Machine.execInval s
  | .invalComplete => Sys2Proof.Machine.execInvalComplete s
  | .ctx => Sys2Proof.Machine.execCtx s
  | .ctxStopComplete => Sys2Proof.Machine.execCtxStopComplete s
  | .recPkt => Sys2Proof.Machine.execRecPkt s
  | .recordStallTimeout => Sys2Proof.Machine.execRecordStallTimeout s
  | .update => Sys2Proof.Machine.execUpdate s
  | .updateStandbyReady => Sys2Proof.Machine.execUpdateStandbyReady s
  | .updateStandbyBootTimeout => Sys2Proof.Machine.execUpdateStandbyBootTimeout s
  | .updateQuiesceTimeout => Sys2Proof.Machine.execUpdateQuiesceTimeout s
  | .updateFlip => Sys2Proof.Machine.execUpdateFlip s
  | .xiostWatchdogFailover => Sys2Proof.Machine.execXiostWatchdogFailover s
  | .own => Sys2Proof.Machine.execOwn s
  | .hostLinkDown => Sys2Proof.Machine.execHostLinkDown s
  | .hostLinkUp => Sys2Proof.Machine.execHostLinkUp s
  | .pcieLaneRetrain => Sys2Proof.Machine.execPcieLaneRetrain s
  | .portFundamentalReset => Sys2Proof.Machine.execPortFundamentalReset s
  | .flrVf => Sys2Proof.Machine.execFlrVf s
  | .flrPf => Sys2Proof.Machine.execFlrPf s
  | .flrTimeout => Sys2Proof.Machine.execFlrTimeout s
  | .atsInvalidation => Sys2Proof.Machine.execAtsInvalidation s
  | .hostBar2Read => Sys2Proof.Machine.execHostBar2Read s
  | .hostBar2Write => Sys2Proof.Machine.execHostBar2Write s
  | .registerWrite => Sys2Proof.Machine.execRegisterWrite s
  | .rascntClear => Sys2Proof.Machine.execRascntClear s
  | .asidfnWrite => Sys2Proof.Machine.execAsidfnWrite s
  | .vselfWrite => Sys2Proof.Machine.execVselfWrite s
  | .vomelFlitReceive => Sys2Proof.Machine.execVomelFlitReceive s
  | .vomelLaneRetrain => Sys2Proof.Machine.execVomelLaneRetrain s
  | .vomelPortDown => Sys2Proof.Machine.execVomelPortDown s
  | .peerInboundAccess => Sys2Proof.Machine.execPeerInboundAccess s
  | .ethTailNotify => Sys2Proof.Machine.execEthTailNotify s
  | .ethWorkRequestComplete => Sys2Proof.Machine.execEthWorkRequestComplete s
  | .ethQpError => Sys2Proof.Machine.execEthQpError s
  | .ethIncomingWrite => Sys2Proof.Machine.execEthIncomingWrite s
  | .ethIncomingRead => Sys2Proof.Machine.execEthIncomingRead s
  | .ethIncomingSend => Sys2Proof.Machine.execEthIncomingSend s
  | .getVersion => Sys2Proof.Machine.execGetVersion s
  | .getCapabilities => Sys2Proof.Machine.execGetCapabilities s
  | .negotiateAlgorithms => Sys2Proof.Machine.execNegotiateAlgorithms s
  | .getDigests => Sys2Proof.Machine.execGetDigests s
  | .getCertificate => Sys2Proof.Machine.execGetCertificate s
  | .getMeasurements => Sys2Proof.Machine.execGetMeasurements s
  | .powerUp => Sys2Proof.Machine.execPowerUp s
  | .powerUpPhaseTimeout => Sys2Proof.Machine.execPowerUpPhaseTimeout s
  | .sensorSample => Sys2Proof.Machine.execSensorSample s
  | .powerThrottle => Sys2Proof.Machine.execPowerThrottle s
  | .thermalShutdown => Sys2Proof.Machine.execThermalShutdown s
  | .unassignedStreamWord => Sys2Proof.Machine.execUnassignedStreamWord s
  | .unassignedEngineWord => Sys2Proof.Machine.execUnassignedEngineWord s
  | .instructionFetchFault => Sys2Proof.Machine.execInstructionFetchFault s
  | .suppliesRemoved => Sys2Proof.Machine.execSuppliesRemoved s
  | .recordRewriteDone => Sys2Proof.Machine.execRecordRewriteDone s
  | .vomelPortUp => Sys2Proof.Machine.execVomelPortUp s
  | .pcieConfigurationRequest => Sys2Proof.Machine.execPcieConfigurationRequest s
  | .pcieFlitReceive => Sys2Proof.Machine.execPcieFlitReceive s
  | .ethCongestionNotification => Sys2Proof.Machine.execEthCongestionNotification s
  | .ethRetransmissionTimeout => Sys2Proof.Machine.execEthRetransmissionTimeout s
  | .updateSignatureVerified => Sys2Proof.Machine.execUpdateSignatureVerified s
  | .checkpointRestoreDone => Sys2Proof.Machine.execCheckpointRestoreDone s
  | .recordTailAdvance => Sys2Proof.Machine.execRecordTailAdvance s
  | .waitsReread => Sys2Proof.Machine.execWaitsReread s

end Sys2Proof.Machine
end

