-- ==== Sys2Proof/Machine/Load.lean ====
section
/-! DEFINITION. Placing one word where the next step fetches it (notes/assumptions/9.md): what a host's runtime and
Keystone do with many writes and packets, done at once. -/

namespace Sys2Proof.Machine

/-- Where the placed word, its context block and its range table lie. -/
def placeBlock : Nat := 0x10000
def placeTable : Nat := 0x20000
def placeCode : Nat := 0x40000

/-- Range entry 0 of the placed context: HBM, striped, one-to-one, R, W and X (spec/10 R291). -/
def placeRange : List Byte := bytesOf 8 0xF ++ bytesOf 8 (2 ^ 39 - 1) ++ bytesOf 16 0

/-- A word that ends a clause of stream `k` and goes with every instruction: TKGIVE to another stream with E = 1
(spec/03 R76, R77). -/
def placeEnd (k : Strm) : Nat := if k == .s then 0xF0200001 else 0xF0100001

/-- Memory with a context block, its range table, the word, and after it the end of its clause. -/
def State.placeMem (s : State) (k : Strm) (w : Nat) : State :=
  (((s.poke (placeBlock + 0x10) (bytesOf 8 placeTable)).poke placeTable placeRange).poke placeCode
    (bytesOf 4 w)).poke (placeCode + 4) (bytesOf 4 (placeEnd k))

/-- The dictionary entries a PAIR word names, so that the pair expands (spec/03 R79, R80): every other word leaves the
dictionary as it is. -/
def placeDict (d : Tab Nat) (k : Strm) (i : Option Instr) : Tab Nat :=
  match i with
  | some (.dpair f) => Tab.set (Tab.set d f.j (placeEnd k)) f.i (placeEnd k - 1)
  | _ => d

/-- A stream that stands before the placed word. -/
def StreamSt.placed (t : StreamSt) : StreamSt :=
  { t with pc := word placeCode, clause := {}, prog := {}, held := [], loops := [], buf := [], stopped := false }

/-- The supplies are in range and the clocks run; the named mover moves next. -/
def State.placeTurn (s : State) (t : Turn) : State :=
  { s with turns := [t], moving := false, dev := { s.dev with supply := true, halted := false, ckStop := false, ckStatus := 0 } }

/-- Core 0 runs ASID 0 at user level, and its stream `k` moves next and fetches `w`. -/
def State.placeStream (s : State) (k : Strm) (w : Nat) : State :=
  let s := (s.setCtx 0 { s.ctx 0 with held := 0, base := placeBlock, cached := [] }).placeMem k w
  let s := { s with lost := Vector.replicate 8 0, ue := [], engines := s.engines.map fun (e : Nat × Engine) => (e.1, { e.2 with running := false, adds := [] }) }
  (s.onCore 0 fun c => { (c.onStrm k StreamSt.placed) with
    enabled := true, inReset := false, running := true, cont := { c.cont with asid := 0 }
    trap := { c.trap with super := false, pending := [] }
    dict := placeDict c.dict k (accepted (decode (.stream k) w)) }).placeTurn (.stream 0 k)

/-- Engine 0 runs an instance, moves next and decodes `w`. -/
def State.placeEngine (s : State) (w : Nat) : State :=
  (s.onEngine 0 fun e => { e with
    running := true, mpc := 0, store := Tab.set e.store 0 w, stalled := false, atBound := false
    semBad := none, lastBound := e.now }).placeTurn
    (.engine 0)

end Sys2Proof.Machine
end

