-- ==== Sys2Proof/Machine/Step.lean ====
section
/-! DEFINITION. One step of the machine, and the placing of a word where the next step fetches it. -/

namespace Sys2Proof.Machine

/-- One step: what `prepare` finds is run, or nothing happens, or the machine stops. -/
def step (s : State) : Host.Outcome State Fault Refusal :=
  match s.prepare with
  | .run i s' => exec i s'
  | .idle s' => .next s'
  | .stop f => .fault f

/-- The state with the word of an instruction where the next step fetches it: in the stream or the engine whose
decoder accepts it (`decodeAny`). -/
def State.withFetchWord (s : State) (nbits w : Nat) : State :=
  if nbits = 0 then s
  else match decodeAny (w % 2 ^ 32) with
    | some (.engine, _) => s.placeEngine (w % 2 ^ 32)
    | some (.stream k, _) => s.placeStream k (w % 2 ^ 32)
    | none => s.placeStream .s (w % 2 ^ 32)

end Sys2Proof.Machine
end

