-- ==== Sys2Proof/Safety.lean ====
section
/-! DEFINITION. What counts as a safe run, in the terms that claims use: memory in its canonical form, a machine with
supplies and clocks, what a position completes with, and what a clause leaves alone. -/

namespace Sys2Proof.Machine

/-! ### Invariants -/

/-- The memory has its canonical form. -/
def State.MemOk (s : State) : Prop := s.mem.wf = true

/-- The supplies are in range and the clocks run (spec/17 R432, R442). -/
def State.Powered (s : State) : Prop := s.dev.supply = true ∧ s.dev.halted = false

/-! ### Outcomes of a position -/

/-- In `s` the position that holds `i` completes with `r`; `e` is its E bit. -/
def Completes (i : Instr) (s : State) (e : Bool) (r : Res) : Prop := exec i s = .next (s.finish e (.done r))

/-- In `s` the position that holds `i` faults with cause `c`, after the faults that lower positions have met. -/
def Faults (i : Instr) (s : State) (c : Cause) : Prop := exec i s = .next (s.finish true (.trap c))

/-- The clause in progress has done nothing before the position that moves, rests on nothing it has read, has met no uncorrectable
word, gives no token, holds no ERET.run, and does not leave its check to a clause that overlaps it. -/
def State.Bare (s : State) : Prop :=
  s.cl.effs = [] ∧ s.cl.flags = 0 ∧ s.cl.seed = none ∧ s.cl.post = .none ∧ s.cl.ue = none ∧ s.cl.basis = [] ∧ s.cl.table = none
    ∧ givesOf s.cur.strm s.cl.slots = [] ∧ runsEret s.cl.slots = false
    ∧ (s.me.overlapping = false ∨ s.me.overlap = 0 ∨ bit s.me.later s.cur.strm.idx = false)

/-- It runs at user level besides. -/
def State.Lone (s : State) : Prop := s.Bare ∧ s.me.trap.super = false

/-! ### What a clause leaves alone -/

/-- Everything outside the moving core is the same: memory, read buffers, engines, contexts, Keystone, Xiost, the device
and every other core. -/
def State.SameOutside (s t : State) : Prop :=
  t.mem = s.mem ∧ t.srb = s.srb ∧ t.engines = s.engines ∧ t.ctxs = s.ctxs ∧ t.ks = s.ks ∧ t.xi = s.xi ∧ t.dev = s.dev
    ∧ ∀ c, c ≠ s.cur.core → t.core c = s.core c

/-- The registers of two cores agree but for the s registers of `xs`, the a registers of `xa` and the x registers of
`xx`: s, a, x, v and m registers, tiles, accumulators, descriptor slots and stream registers. -/
def Core.SameRegs (c d : Core) (xs xa xx : List Nat) : Prop :=
  (∀ n, n ∉ xs → d.sreg n = c.sreg n) ∧ (∀ n, n ∉ xa → d.areg n = c.areg n) ∧ (∀ n, n ∉ xx → d.xreg n = c.xreg n)
    ∧ (∀ n, d.vreg n = c.vreg n) ∧ (∀ n, d.mreg n = c.mreg n) ∧ (∀ n, d.tile n = c.tile n) ∧ (∀ n, d.acc n = c.acc n)
    ∧ (∀ n, d.slot n = c.slot n) ∧ ∀ n, d.qreg n = c.qreg n

/-- The system registers of two cores agree: the trap registers and the level, watch, scratch and partition registers,
matrix state, copy channels and every stream's FLAGS, RMODE.CTL and RMODE.SEED (spec/08 R232). -/
def Core.SameSys (c d : Core) : Prop :=
  d.trap.super = c.trap.super ∧ d.trap.cause = c.trap.cause ∧ d.trap.src = c.trap.src ∧ d.trap.pcs = c.trap.pcs
    ∧ d.trap.info = c.trap.info ∧ d.trap.kscr = c.trap.kscr ∧ d.trap.waddr = c.trap.waddr ∧ d.trap.wctl = c.trap.wctl
    ∧ d.part = c.part ∧ d.rcap = c.rcap ∧ d.mat = c.mat ∧ d.copy = c.copy ∧ d.np = c.np
    ∧ ∀ k, (d.strm k).flags = (c.strm k).flags ∧ (d.strm k).ctl = (c.strm k).ctl ∧ (d.strm k).seed = (c.strm k).seed

end Sys2Proof.Machine
end

