-- ==== Sys2Proof/Certificates/Slice0/Obligations.lean ====
section
/-! DEFINITION. The statements about the machine, each a proposition for the provers; the docstring of each names the rule of
spec/ it follows. -/

namespace Sys2Proof.Machine

/-- The state in which stream `k` of core `c` takes the next listed turn. -/
def State.turnOf (s : State) (rest : List Turn) (c : Nat) (k : Strm) : State :=
  ({ s.tickFree.settle with turns := rest, cur := { s.cur with core := c, strm := k, asker := .stream c k, wants := false } } : State).enterOverlap

/-- The state in which engine `n` takes the next listed turn, with nothing left of a window. -/
def State.engineOfTurn (s : State) (rest : List Turn) (n : Nat) : State :=
  { s.tickFree.settle with turns := rest, cur := { s.cur with eng := n, asker := .engine n, wants := false } }

/-- The state after a decoded clause has issued: a suspension point in it has stopped the A, V and M streams, its takes are
made and its stream comes after what came before them, it stands at the first position with what its sources read fixed, and a
body word of an active loop is in the loop buffer. -/
def State.issued (s : State) (p : Parsed) (takes : List Nat) : State :=
  s.onMe fun c =>
    let c := if p.flat.any fun x => isSusp x.ins then c.stop3 else c
    let c := { c with tok := c.tok.take takes }
    c.onStrm s.cur.strm fun t =>
    { t with
      tokenStall := false, wake := 0
      sight := (c.tok.before (s.st.held ++ takes)).foldl Sight.join t.sight
      buf := if t.loops.isEmpty then [] else
        p.words.foldl (fun (b : Tab Nat) (w : Nat × Nat) => if t.inLoop (word w.1) then Tab.set b w.1 w.2 else b) t.buf
      clause := { live := true, start := t.pc, next := p.next, slots := p.slots, taken := takes
                  snap := some (c.snapFor s.cur.strm s.free (s.ctx c.cont.asid).binds) } }

/-- Stream `k` comes after every write of the register that races under number `r`, so that it reads and overwrites it whole. -/
def Core.Settled (c : Core) (k : Strm) (r : Nat) : Prop := ∀ p ∈ c.past, p.old.race = some r → p.known c.tok k = true

/-- The result of a v instruction whose operands read with `base` (the units it popped and their flags): the latch holds `v`,
the marked sources are freed, v register `d` is written without W, EMPTY is set for no runs. -/
def vecRes (base : Res) (frees : List Eff) (d : Nat) (w : Bool) (v : VReg) (fl : Word) (seed : Option Word) : Res :=
  { latch := .vec v, effs := base.effs ++ frees ++ (if w then [] else [.vreg d v])
    flags := base.flags ||| fl ||| (if v.runs.isEmpty then fEMPTY else 0), seed := seed }

/-- The same for an m result. -/
def maskRes (base : Res) (frees : List Eff) (d : Nat) (w : Bool) (v : VReg) (fl : Word) (seed : Option Word) : Res :=
  { latch := .mask v, effs := base.effs ++ frees ++ (if w then [] else [.mreg d v])
    flags := base.flags ||| fl ||| (if v.runs.isEmpty then fEMPTY else 0), seed := seed }

/-- What an element-wise instruction builds over the segments of its operands: a segment with mask element 0 keeps the old
element, or gives 0 under .z. -/
def State.eltBuilt (s : State) (x : Elt) (len : Nat) (draws : Bool) (fn : RMode → Bool → List Nat → Nat × Word) : Built :=
  Built.map { rnd := s.rnd } draws (fun v => x.mask == 0 || v.getLastD 0 == 1)
    (fun v => if x.z then 0 else v.getD x.vs.length 0) fn (segsOf len (x.ops s.vw))

/-- The runs of a v result, merged where C asks for it. -/
def vecOf (tag : Nat) (c : Bool) (runs : List Run) : VReg := { tag := tag, runs := if c then mergeRuns runs else runs }

/-- The sources of a v instruction read as `vs`, with `base` for the units popped. -/
def State.vReads (s : State) (srcs : List Src) (vs : List VReg) (base : Res) : Prop := s.vOps [] ([], {}) srcs = .ok (vs, base)

/-- The moving engine issues at cycle `t`: rows that have landed by then are in W, and no boundary or stall is in effect. -/
def State.landed (s : State) (t : Nat) : State := s.onEng fun e => { (e.landTo t) with atBound := false, stalled := false }

/-- The moving engine issues a row boundary, at cycle `ready` or later. -/
def State.bounded (s : State) (ready : Nat) : State :=
  s.engBoundary s.cur.eng (max s.eng.now ready) (max (max s.eng.now ready) s.eng.quiet)

/-- The moving engine issues at cycle `t`: the row interval has not passed with something waiting, and no row that has landed by then
is uncorrectable. -/
def State.Issues (s : State) (t : Nat) : Prop := s.eng.overdue t = false ∧ s.eng.badLanding t = none

/-- It issues a row boundary at cycle `ready` or later, every row in flight being correct. -/
def State.Bounds (s : State) (ready : Nat) : Prop :=
  s.eng.overdue (max s.eng.now ready) = false ∧ s.eng.badLanding (max (max s.eng.now ready) s.eng.quiet) = none

/-- A word of the instruction store follows the one at MPC, through the loops that end there. -/
def State.follows (s : State) : Prop := (loopBack (word (s.eng.mpc + 1)) s.eng.loops).1.toNat ≤ 4095

/-- The moving engine stands at the word that follows. -/
def State.engAfter (s : State) : State :=
  s.onEng fun e => { e with mpc := (loopBack (word (e.mpc + 1)) e.loops).1.toNat, loops := (loopBack (word (e.mpc + 1)) e.loops).2 }

/-- A word that issues when the registers it marks are free makes the change `g` and goes on; where an uncorrectable row
lands first, the instance ends with status 6, and where the row interval has passed, a boundary is forced first. -/
def EngineOne (i : Instr) (s : State) (uses : Nat) (g : Engine → Engine) : Prop :=
  let t := max s.eng.now (s.eng.free uses)
  (s.Issues t → s.follows → exec i s = .next ((s.landed t).onEng g).engAfter) ∧
    (∀ r c b, s.eng.overdue t = false → s.eng.badLanding t = some (r, c, b) → exec i s = .next (s.engEnd s.cur.eng 6 r c b)) ∧
    (s.eng.overdue t = true → exec i s = s.engForce)

/-- A datapath word issues when the datapath is free, makes the change and sets the flags of `g` but DZ, and occupies the
datapath for `occ` cycles with the registers of `dest` in flight. -/
def EngineData (i : Instr) (s : State) (occ dest : Nat) (g : Engine → Engine × Word) : Prop :=
  let t := max s.eng.now s.eng.dpFree
  s.Issues t → s.follows →
  exec i s = .next ((s.landed t).onEng fun e =>
    { (g e).1 with eflags := (g e).1.eflags ||| ((g e).2 &&& 29), dpFree := t + occ, dpDest := dest }).engAfter

end Sys2Proof.Machine

open Sys2Proof Sys2Proof.Machine

/-- Seven words of the S, A, V and M streams and of an engine, as the spec's examples write them, decode to the
instructions they stand for. -/
def Obligations.DecodeWords : Prop :=
  accepted (decode (.stream .s) 0x44112344) = some (.movhi ⟨0, true, 0x91A2, false⟩)
    ∧ accepted (decode (.stream .s) 0x18C82CF1) = some (.ori ⟨6, false, .latch 0, 0x1678, true⟩)
    ∧ accepted (decode (.stream .s) 0xC8000001) = some (.eret ⟨true⟩)
    ∧ accepted (decode (.stream .a) 0x30610001) = some (.tdmake ⟨3, .reg 4, 0, true⟩)
    ∧ accepted (decode (.stream .v) 0x70408001) = some (.vcoal ⟨2, false, .reg 2, false, true⟩)
    ∧ accepted (decode (.stream .m) 0x28A00101) = some (.mrpt ⟨5, false, 1, true⟩)
    ∧ accepted (decode .engine 0x24044258) = some (.ttp 0 4 8 0x96)

/-- For every decoder and every instruction that is well formed for it, with every operand at every value its field
admits, decoding the encoded word answers that instruction. -/
def Obligations.EncodeThenDecode : Prop :=
  ∀ (k : Form) (i : Instr), i.wf k = true → decode k (encode i) = .ok i

/-- For every decoder and every 32-bit word it accepts, the instruction is well formed for that decoder and its encoding
is the word, so no bit of a word is ignored and no two words mean the same. A stream word whose major is 0x00 or
0x3E is refused as unassigned, whatever its other bits hold. -/
def Obligations.DecodeThenEncode : Prop :=
  (∀ (k : Form) (w : Nat) (i : Instr), w < 2 ^ 32 → decode k w = .ok i → i.wf k = true ∧ encode i = w) ∧
  ∀ (k : Strm) (w : Nat), bits w 31 26 = 0 ∨ bits w 31 26 = 0x3E → decode (.stream k) w = .error .unassignedMajor

/-- When a stream of a running core takes its turn, at user level with no asynchronous cause pending and no fault of an
overlapping clause to be taken, or as the handler's S stream, and the words at its program counter decode to a
clause that needs to wait for nothing and whose first instruction reads no uncorrectable storage, the step is exec
of the clause's first instruction in the state in which the clause has issued: a suspension point may stand in it
where R236 allows one, and has then stopped the other streams. -/
def Obligations.StepRunsClause : Prop :=
  ∀ (s : State) (rest : List Turn) (c : Nat) (k : Strm) (p : Parsed) (x : Slot) (xs : List Slot),
    s.Powered → s.moving = false → s.turns = .stream c k :: rest →
    let m := s.turnOf rest c k
    m.me.running = true → m.me.inReset = false → m.st.stopped = false → m.cl.live = false →
    (m.me.trap.faults = [] ∨ m.me.overlap ≠ 0) →
    (m.me.trap.super = false ∧ m.me.trap.pending = [] ∧ m.dev.ckStop = false ∨ m.me.trap.super = true ∧ k = .s) →
    m.parse k 4 m.st.pc {} = p → p.fault = none → p.wait = none → m.loopCut p = none → p.slots = x :: xs →
    ((p.flat.any fun y => isSusp y.ins) = true → m.me.trap.super = false ∧ m.me.np = false ∧
      m.me.ss.loops = [] ∧ m.me.sa.loops = [] ∧ m.me.sv.loops = [] ∧ m.me.sm.loops = []) →
    let takes := if m.st.prog.active then [] else takesOf k p.flat
    m.me.tok.avail takes = true → m.me.popsWait k p.flat = false → (p.flat.zipIdx.any fun y => m.stalls y.2 y.1.ins) = false →
    (m.issued p takes).flawIn x.ins = none →
    step s = exec x.ins (m.issued p takes)

/-- When the word at an address is fetched, decodes in its stream to an instruction other than a dictionary pair, has E
= 1 and breaks no clause rule, the clause is that one position and the next clause starts four bytes on. -/
def Obligations.OneWordClause : Prop :=
  ∀ (s : State) (k : Strm) (a : Word) (w : Nat) (i : Instr),
    s.fetchWord a = .ok w → decode (.stream k) w = .ok i → w % 2 = 1 → clauseBad k [] i = false →
    (∀ f, i ≠ .dpair f) →
    s.parse k 4 a {} = { slots := [⟨a, i⟩], flat := [⟨a, i⟩], words := [(a.toNat, w)], next := a + 4 }

/-- When a running engine takes its turn, its node has not stopped, no semaphore add of it has failed, no window of it
goes on, no row boundary is overdue and no checkpoint holds it, the step is exec of the instruction that its word
decodes to, in the state in which a window that has stopped is closed and, on a stack whose base die is at 80
degrees or above, one more cycle has passed. -/
def Obligations.StepRunsEngineWord : Prop :=
  ∀ (s : State) (rest : List Turn) (n : Nat) (i : Instr),
    s.Powered → s.moving = false → s.turns = .engine n :: rest →
    let m := s.engineOfTurn rest n
    let e := m.engine n
    let t := m.readyEngine n
    e.running = true → e.semBad = none → (e.win.any fun x => !x.stopped) = false →
    (t.engine n).overdue (t.engine n).now = false →
    (s.dev.ckStatus = 0 ∨ (e.atBound = false ∧ e.stalled = false)) →
    (∀ g, m.graph e.asid e.lrec = some g → (g.nst e.node).stopped = false) →
    decode .engine (Tab.get e.store e.mpc 0) = .ok i →
    step s = exec i t

/-- In every state, exec of every instruction and event answers a next state: what the spec does not let complete is
taken as a trap, an engine stop or an error report. No step is refused; if a step faults, then the supplies are out
of range and the fault says so, or the clocks are stopped after a thermal shutdown and the fault says so; and a turn
of a stream or engine in such a state does stop so. -/
def Obligations.WhatStopsTheMachine : Prop :=
  (∀ (i : Instr) (s : State), ∃ t, exec i s = .next t) ∧
  (∀ s : State, (∀ r, step s ≠ .refused r) ∧
    ∀ f, step s = .fault f → (s.dev.supply = false ∧ f = .noSupply) ∨ (s.dev.supply = true ∧ s.dev.halted = true ∧ f = .clocksStopped)) ∧
  ∀ (s : State) (rest : List Turn) (c : Nat) (k : Strm) (n : Nat), s.turns = .stream c k :: rest ∨ s.turns = .engine n :: rest →
    (s.dev.supply = true → s.dev.halted = true → step s = .fault .clocksStopped) ∧
    (s.dev.supply = false → step s = .fault .noSupply)

/-- In every state ADD, SUB, MUL, MULH, AND, OR, XOR, ANDN, SHL, SHR, SHRA, ROT, MIN, MAX, SETEQ, SETLT, SETLTU, POPC,
CLZ, CTZ and BREV complete with the value the table gives for their sources, in the latch and, with W = 0, in d. -/
def Obligations.ScalarRegister : Prop :=
  (∀ (f : RR) (s : State),
    let a := s.srcS f.a
    let b := s.srcS f.b
    let n := b.toNat % 64
    let done := fun (i : Instr) (v : Word) => Completes i s f.e (toS f.d f.w v)
    done (.add f) (a + b) ∧ done (.sub f) (a - b) ∧ done (.mul f) (a * b)
      ∧ done (.mulh f) (BitVec.ofInt 64 (a.toInt * b.toInt / 2 ^ 64))
      ∧ done (.and f) (a &&& b) ∧ done (.or f) (a ||| b) ∧ done (.xor f) (a ^^^ b) ∧ done (.andn f) (a &&& ~~~b)
      ∧ done (.shl f) (word (a.toNat * 2 ^ n)) ∧ done (.shr f) (word (a.toNat / 2 ^ n))
      ∧ done (.shra f) (BitVec.ofInt 64 (a.toInt / 2 ^ n)) ∧ done (.rot f) (a.rotateRight n)
      ∧ done (.min f) (if a.toInt ≤ b.toInt then a else b) ∧ done (.max f) (if b.toInt ≤ a.toInt then a else b)
      ∧ done (.seteq f) (if a = b then 1 else 0) ∧ done (.setlt f) (if a.toInt < b.toInt then 1 else 0)
      ∧ done (.setltu f) (if a.toNat < b.toNat then 1 else 0)) ∧
  ∀ (f : R1) (s : State),
    let a := s.srcS f.a
    let done := fun (i : Instr) (v : Word) => Completes i s f.e (toS f.d f.w v)
    done (.popc f) (word ((List.range 64).filter fun i => a.getLsbD i).length)
      ∧ (∃ n, done (.clz f) (word n) ∧ n ≤ 64 ∧ (∀ i, 64 - n ≤ i → a.getLsbD i = false) ∧ (n < 64 → a.getLsbD (63 - n) = true))
      ∧ (∃ n, done (.ctz f) (word n) ∧ n ≤ 64 ∧ (∀ i, i < n → a.getLsbD i = false) ∧ (n < 64 → a.getLsbD n = true))
      ∧ ∃ v : Word, done (.brev f) v ∧ ∀ i, i < 64 → v.getLsbD i = a.getLsbD (63 - i)

/-- With b = 0 both fault with DIVZERO at their clause. For a = -2^63 and b = -1 DIV completes with -2^63 and REM with
0. In every other case they complete with a quotient and remainder with sa = DIV x sb + REM and |REM| < |sb|. -/
def Obligations.ScalarDivide : Prop :=
  ∀ (f : RR) (s : State),
    let a := s.srcS f.a
    let b := s.srcS f.b
    (b = 0 → Faults (.div f) s { code := 21 } ∧ Faults (.rem f) s { code := 21 }) ∧
    (b ≠ 0 → ∃ q r : Word, Completes (.div f) s f.e (toS f.d f.w q) ∧ Completes (.rem f) s f.e (toS f.d f.w r) ∧
      (a.toInt = -2 ^ 63 → b.toInt = -1 → q.toInt = -2 ^ 63 ∧ r = 0) ∧
      (¬(a.toInt = -2 ^ 63 ∧ b.toInt = -1) → a.toInt = q.toInt * b.toInt + r.toInt ∧ r.toInt.natAbs < b.toInt.natAbs ∧
        (r.toInt ≠ 0 → (r.toInt < 0 ↔ a.toInt < 0))))

/-- With o = b[5:0], w = b[14:8] clipped to 64 - o and f the field of a, BEXTU completes with f, BEXT with f sign-
extended from its width (0 when w = 0), BINS with old d whose field holds the low w bits of a, and the funnel shifts
with the half of the shifted 128-bit value that R100 names; old d reads as zero when W = 1. -/
def Obligations.ScalarFields : Prop :=
  ∀ (f : RR) (s : State),
    let a := s.srcS f.a
    let b := s.srcS f.b
    let old : Word := if f.w then 0 else s.vw.sreg f.d
    let o := b.toNat % 64
    let w := min (b.toNat / 2 ^ 8 % 128) (64 - o)
    let x := a.toNat / 2 ^ o % 2 ^ w
    let n := b.toNat % 64
    let done := fun (i : Instr) (v : Word) => Completes i s f.e (toS f.d f.w v)
    done (.bextu f) (word x)
      ∧ done (.bext f) (if w = 0 then 0 else if x < 2 ^ (w - 1) then word x else BitVec.ofInt 64 ((x : Int) - 2 ^ w))
      ∧ (∃ v : Word, done (.bins f) v ∧ ∀ i, i < 64 →
          v.getLsbD i = if o ≤ i ∧ i < o + w then a.getLsbD (i - o) else old.getLsbD i)
      ∧ done (.fshl f) (word ((old.toNat * 2 ^ 64 + a.toNat) * 2 ^ n / 2 ^ 64))
      ∧ done (.fshr f) (word ((a.toNat * 2 ^ 64 + old.toNat) / 2 ^ n))

/-- ADDI, MINI, MAXI, SETEQI, SETLTI and SETLTUI take the immediate sign-extended to 64 bits, ANDI, ORI and XORI zero-
extended, and SHLI, SHRI, SHRAI and ROTI a shift amount below 64; each completes with the value of its register
form. -/
def Obligations.ScalarImmediate : Prop :=
  (∀ (f : RI) (s : State), f.i < 8192 →
    let a := s.srcS f.a
    let x : Word := BitVec.ofInt 64 (if f.i < 4096 then (f.i : Int) else (f.i : Int) - 8192)
    let z : Word := word f.i
    let done := fun (i : Instr) (v : Word) => Completes i s f.e (toS f.d f.w v)
    done (.addi f) (a + x) ∧ done (.andi f) (a &&& z) ∧ done (.ori f) (a ||| z) ∧ done (.xori f) (a ^^^ z)
      ∧ done (.mini f) (if a.toInt ≤ x.toInt then a else x) ∧ done (.maxi f) (if x.toInt ≤ a.toInt then a else x)
      ∧ done (.seteqi f) (if a = x then 1 else 0) ∧ done (.setlti f) (if a.toInt < x.toInt then 1 else 0)
      ∧ done (.setltui f) (if a.toNat < x.toNat then 1 else 0)) ∧
  ∀ (f : RSh) (s : State), f.n < 64 →
    let a := s.srcS f.a
    let done := fun (i : Instr) (v : Word) => Completes i s f.e (toS f.d f.w v)
    done (.shli f) (word (a.toNat * 2 ^ f.n)) ∧ done (.shri f) (word (a.toNat / 2 ^ f.n))
      ∧ done (.shrai f) (BitVec.ofInt 64 (a.toInt / 2 ^ f.n)) ∧ done (.roti f) (a.rotateRight f.n)

/-- MOVHI completes with SignExtend(imm19) x 2^13, which lies between -2^31 and 2^31 - 2^13 and whose low 13 bits are
zero. -/
def Obligations.ScalarMovhi : Prop :=
  ∀ (f : LI) (s : State), f.i < 2 ^ 19 →
    ∃ v : Word, Completes (.movhi f) s f.e (toS f.d f.w v) ∧
      v.toInt = (if f.i < 2 ^ 18 then (f.i : Int) else (f.i : Int) - 2 ^ 19) * 2 ^ 13 ∧
      -2 ^ 31 ≤ v.toInt ∧ v.toInt ≤ 2 ^ 31 - 2 ^ 13 ∧ v.toNat % 2 ^ 13 = 0

/-- BEQ, BNE, BLT, BGE, BLTU, BGEU and ABR complete with a redirection to their own address plus 4 x SignExtend(imm13)
exactly when a and c stand in the relation of their row, and otherwise with none. JMP and JAL redirect to their own
address plus 4 x SignExtend(imm19), JR to a + 4 x SignExtend(imm13), and JAL and JR complete with the address of the
next clause. A misaligned JR target faults with ALIGN, an aligned one beyond 56 bits with XLATE, with the target as
TRAPINFO0; that ALIGN comes first for a target bad in both ways is the model's choice (notes/assumptions/53.md,
DESIGN CHOICE), which R102 does not rank. -/
def Obligations.BranchesAndJumps : Prop :=
  (∀ (f : TS) (s : State), f.i < 8192 →
    let tgt : Word := s.here + 4 * BitVec.ofInt 64 (if f.i < 4096 then (f.i : Int) else (f.i : Int) - 8192)
    let a := s.srcS f.a
    let c := s.srcS f.c
    let done := fun (i : Instr) (p : Prop) => (p → Completes i s f.e { post := .goto tgt }) ∧ (¬p → Completes i s f.e {})
    done (.beq f) (a = c) ∧ done (.bne f) (a ≠ c) ∧ done (.blt f) (a.toInt < c.toInt) ∧ done (.bge f) (c.toInt ≤ a.toInt)
      ∧ done (.bltu f) (a.toNat < c.toNat) ∧ done (.bgeu f) (c.toNat ≤ a.toNat)
      ∧ done (.abr f) ((f.a = .reg 0 ∧ f.c = .reg 0) ∨ s.srcA f.a ≠ s.srcA f.c)) ∧
  (∀ (f : Imm) (s : State), f.i < 2 ^ 19 →
    Completes (.jmp f) s f.e { post := .goto (s.here + 4 * BitVec.ofInt 64 (if f.i < 2 ^ 18 then (f.i : Int) else (f.i : Int) - 2 ^ 19)) }) ∧
  (∀ (f : LI) (s : State), f.i < 2 ^ 19 →
    Completes (.jal f) s f.e
      { toS f.d f.w s.cl.next with
        post := .goto (s.here + 4 * BitVec.ofInt 64 (if f.i < 2 ^ 18 then (f.i : Int) else (f.i : Int) - 2 ^ 19)) }) ∧
  ∀ (f : RI) (s : State), f.i < 8192 →
    let tgt : Word := s.srcS f.a + 4 * BitVec.ofInt 64 (if f.i < 4096 then (f.i : Int) else (f.i : Int) - 8192)
    (tgt.toNat % 4 = 0 → tgt.toNat < 2 ^ 56 → Completes (.jr f) s f.e { toS f.d f.w s.cl.next with post := .goto tgt }) ∧
    (tgt.toNat % 4 ≠ 0 → Faults (.jr f) s { code := 7, i0 := tgt }) ∧
    (tgt.toNat % 4 = 0 → 2 ^ 56 ≤ tgt.toNat → ∃ x : Cause, Faults (.jr f) s x ∧ x.code = 8 ∧ x.i0 = tgt)

/-- In both streams the form into a register completes with the value of the exchange register its source names, and the
form into an exchange register with the value of its source. -/
def Obligations.ExchangeMoves : Prop :=
  ∀ (f : R1) (s : State),
    Completes (.xmovXToS f) s f.e (toS f.d f.w (s.srcX f.a)) ∧ Completes (.xmovSToX f) s f.e (toX f.d f.w (s.srcS f.a))
      ∧ Completes (.xmovXToA f) s f.e (toA f.d f.w (s.srcX f.a)) ∧ Completes (.xmovAToX f) s f.e (toX f.d f.w (s.srcA f.a))

/-- A position that completes with E = 0 adds its latch to the clause, moves to the next position and keeps the turn;
every register, every system register and everything outside the core stay as they are until the clause commits. -/
def Obligations.PositionRecorded : Prop :=
  ∀ (s : State) (r : Res),
    let t := s.finish false (.done r)
    t.moving = true ∧ t.cl.latches = s.cl.latches ++ [r.latch] ∧ t.cl.pos = s.cl.pos + 1 ∧ t.cl.effs = s.cl.effs ++ r.effs
      ∧ t.st.pc = s.st.pc ∧ s.me.SameRegs t.me [] [] [] ∧ s.me.SameSys t.me ∧ s.SameOutside t

/-- When the last position of a clause that did nothing else completes with a result for an s, a or x register, that
register holds the value (s0 and a0 still read zero) and the program counter stands after the clause or at a loop's
start; with W = 1 no register changes. Every other register, FLAGS, RMODE, the trap registers, memory and the rest
of the machine are unchanged; an x register takes the value whole where its stream comes after every other write of
it. This is the frame of every instruction that the statements on registers show to complete with such a result. -/
def Obligations.RegisterResultCommits : Prop :=
  ∀ (s : State) (d : Nat) (v : Word), s.Lone →
    let next := (loopBack s.cl.next s.st.loops).1
    (d < 32 → let t := s.finish true (.done (toS d false v))
      t.me.sreg d = (if d = 0 then 0 else v) ∧ t.st.pc = next ∧ s.me.SameRegs t.me [d] [] [] ∧ s.me.SameSys t.me ∧ s.SameOutside t) ∧
    (d < 32 → let t := s.finish true (.done (toA d false v))
      t.me.areg d = (if d = 0 then 0 else v) ∧ t.st.pc = next ∧ s.me.SameRegs t.me [] [d] [] ∧ s.me.SameSys t.me ∧ s.SameOutside t) ∧
    (d < 8 → s.me.Settled s.cur.strm d → let t := s.finish true (.done (toX d false v))
      t.me.xreg d = v ∧ t.st.pc = next ∧ s.me.SameRegs t.me [] [] [d] ∧ s.me.SameSys t.me ∧ s.SameOutside t) ∧
    let t := s.finish true (.done (toS d true v))
    t.st.pc = next ∧ s.me.SameRegs t.me [] [] [] ∧ s.me.SameSys t.me ∧ s.SameOutside t

/-- When the last position of a clause that did nothing else completes with a redirection and a link for register d, the
next clause starts at the target, d holds the link, exactly the loops outward from the first whose body holds the
target stay active, and everything else is unchanged. Where the clause holds a loop body's last word too, the
redirection wins over the loop-back; that is the model's choice (notes/assumptions/36.md, DESIGN CHOICE), for R82
and R83 do not rank the two. -/
def Obligations.RedirectionCommits : Prop :=
  ∀ (s : State) (d : Nat) (v tgt : Word), s.Lone → d < 32 →
    let t := s.finish true (.done { toS d false v with post := .goto tgt })
    t.st.pc = tgt ∧ t.st.loops = leaveLoops tgt s.st.loops ∧ t.me.sreg d = (if d = 0 then 0 else v)
      ∧ s.me.SameRegs t.me [d] [] [] ∧ s.me.SameSys t.me ∧ s.SameOutside t
      ∧ ∀ l r, leaveLoops tgt s.st.loops = l :: r → l.start.toNat ≤ tgt.toNat ∧ tgt.toNat < l.stop.toNat

/-- When the address a + SignExtend(offset) x size of an ST in a clause of its own passes the checks of R104 and no
engine holds its row, no error stands in its way and it waits for no peer, every byte outside the stored ones, every
register and every system register are unchanged, and where every agent has seen every write so far the next state
holds the low bytes of c there, little-endian; otherwise the store may take its place before writes of other agents
that nothing orders before it (notes/assumptions/3.md, DEDUCED). -/
def Obligations.StoreCommits : Prop :=
  ∀ (s : State) (f : StF) (l : Loc), s.Lone → s.MemOk → f.e = true → f.z < 4 →
    let n := 2 ^ f.z
    let va := s.srcS f.a + sext 11 f.o * word n
    let cells := cellsAt l.key (bytesOf n (s.srcS f.c).toNat)
    s.access va n .write true = .ok l → (cells.any fun c => s.owned c.1) = false → s.badCells s.me.cont.asid cells = false →
    s.farPort cells va.toNat { grain := 0 } = none →
    ∃ t, exec (.st f) s = .next t ∧ (s.hist = [] → ofBytes (Mem.bytes t.mem l.key n) = (s.srcS f.c).toNat % 2 ^ (8 * n)) ∧
      (∀ k, (k < l.key ∨ l.key + n ≤ k) → Mem.read t.mem k = Mem.read s.mem k) ∧
      s.me.SameRegs t.me [] [] [] ∧ s.me.SameSys t.me ∧ t.st.pc = (loopBack s.cl.next s.st.loops).1

/-- A position that faults where no lower one has met an uncorrectable word or fails a check of the commit gives its
fault to its clause. A fault of a clause at user level that no other clause overlaps, where the context has a trap
vector, leaves the core at supervisor level with TRAPCAUSE, TRAPSRC and TRAPINFO as R222 and R223 state, TRAPPC
holding each stream's restart offset, the S stream at TRAPVEC with no loop of its own and every other stream
stopped; every register file, FLAGS, RMODE, memory, Keystone and Xiost, and but for the counters at MEM_UE
everything outside the core, are unchanged. -/
def Obligations.FaultDiscardsClause : Prop :=
  ∀ (s : State) (cause : Cause), s.me.trap.super = false → s.me.overlapping = false →
    let k := s.cur.strm
    let vec := s.ctxWord s.me.cont.asid 8
    (s.lateFault = none → s.cl.ue = none → s.finish true (.trap cause) = s.fault cause) ∧
    (vec ≠ 0 →
    let t := s.fault cause
    t.me.trap.super = true ∧ t.me.trap.cause = word cause.code ∧ t.me.trap.src = trapSrc k false s.cl.pos (2 ^ k.idx)
      ∧ t.me.trap.info = #v[cause.i0, cause.i1, cause.i2, cause.i3] ∧ t.me.ss.pc = word vec ∧ t.me.ss.loops = []
      ∧ t.me.sa.stopped = true ∧ t.me.sv.stopped = true ∧ t.me.sm.stopped = true
      ∧ (∀ j : Strm, vget t.me.trap.pcs j.idx 0 = word (s.me.offset j))
      ∧ (∀ j, t.me.sreg j = s.me.sreg j ∧ t.me.areg j = s.me.areg j ∧ t.me.xreg j = s.me.xreg j ∧ t.me.vreg j = s.me.vreg j
        ∧ t.me.mreg j = s.me.mreg j ∧ t.me.tile j = s.me.tile j ∧ t.me.acc j = s.me.acc j ∧ t.me.slot j = s.me.slot j)
      ∧ (∀ j, (t.me.strm j).flags = (s.me.strm j).flags ∧ (t.me.strm j).ctl = (s.me.strm j).ctl
        ∧ (t.me.strm j).seed = (s.me.strm j).seed)
      ∧ t.me.copy = s.me.copy ∧ (cause.code ≠ 13 → s.SameOutside t) ∧ t.mem = s.mem ∧ t.ks = s.ks ∧ t.xi = s.xi ∧ t.me.trap.pending = s.me.trap.pending)

/-- When the last position of a clause that did nothing else completes with a v or m result that fits the run pool, an
accumulator that fits its region, or a tile or a descriptor slot, that register holds it, every other register,
RMODE, the trap registers, memory and everything outside the core are unchanged, and FLAGS gain exactly its flags. A
v register or tile takes its value whole where the stream comes after every other write of it. When it completes
with a store that nothing holds up (a barrier credit stores the object's word with the credit added), every other
byte and every register is unchanged, and memory holds the stored bytes where every agent has seen every write so
far or the store is an atomic's or a credit; a plain store may otherwise take its place before writes that nothing
orders before it (notes/assumptions/3.md, DEDUCED). -/
def Obligations.OtherResultsCommit : Prop :=
  ∀ (s : State), s.Lone →
    let same := fun (t : State) (vs ms ts cs ds : List Nat) =>
      (∀ n, t.me.sreg n = s.me.sreg n ∧ t.me.areg n = s.me.areg n ∧ t.me.xreg n = s.me.xreg n ∧ t.me.qreg n = s.me.qreg n)
        ∧ (∀ n, n ∉ vs → t.me.vreg n = s.me.vreg n) ∧ (∀ n, n ∉ ms → t.me.mreg n = s.me.mreg n)
        ∧ (∀ n, n ∉ ts → t.me.tile n = s.me.tile n) ∧ (∀ n, n ∉ cs → t.me.acc n = s.me.acc n)
        ∧ (∀ n, n ∉ ds → t.me.slot n = s.me.slot n)
        ∧ t.st.pc = (loopBack s.cl.next s.st.loops).1
    let one := fun (e : Eff) (fl : Word) => s.finish true (.done { effs := [e], flags := fl })
    let flags := fun (t : State) (fl : Word) => t.st.flags = s.st.flags ||| fl
      ∧ (∀ k, k ≠ s.cur.strm → (t.me.strm k).flags = (s.me.strm k).flags)
      ∧ ∀ k, (t.me.strm k).ctl = (s.me.strm k).ctl ∧ (t.me.strm k).seed = (s.me.strm k).seed
    let fits := fun (e : Eff) (fl : Word) => (s.onCl fun c => c.record { effs := [e], flags := fl }).lateFault = none
    (∀ d v fl, d < 32 → s.me.Settled s.cur.strm (8 + d) → fits (.vreg d v) fl →
      let t := one (.vreg d v) fl
      t.me.vreg d = v ∧ same t [d] [] [] [] [] ∧ flags t fl ∧ s.SameOutside t) ∧
    (∀ d v fl, d < 8 → fits (.mreg d v) fl →
      let t := one (.mreg d v) fl
      t.me.mreg d = v ∧ same t [] [d] [] [] [] ∧ flags t fl ∧ s.SameOutside t) ∧
    (∀ d v fl, d < 16 → s.me.Settled s.cur.strm (40 + d) → s.vw.tile d = s.me.tile d → let t := one (.tile d v) fl
      t.me.tile d = v ∧ same t [] [] [d] [] [] ∧ flags t fl ∧ s.SameOutside t) ∧
    (∀ d v fl, d < 8 → fits (.acc d v) fl → let t := one (.acc d v) fl
      t.me.acc d = v ∧ same t [] [] [] [d] [] ∧ flags t fl ∧ s.SameOutside t) ∧
    (∀ d v, d < 16 → let t := one (.dslot d v) 0
      t.me.slot d = some v ∧ same t [] [] [] [] [d] ∧ flags t 0 ∧ s.SameOutside t) ∧
    ∀ (cells : List Host.Cell) (va : Nat) (how : How) (fl : Word), s.MemOk → (∀ c ∈ cells, s.owned c.1 = false) →
      let ws := how.cells s.mem cells
      s.badCells s.me.cont.asid ws = false → s.farPort ws va how = none →
      let t := one (.store cells va how) fl
      ((s.hist = [] ∨ how.scope ≠ none ∨ how.bar ≠ none) → t.mem = Mem.writeCells s.mem ws) ∧
        (∀ k, (∀ c ∈ ws, c.1 ≠ k) → Mem.read t.mem k = Mem.read s.mem k) ∧ same t [] [] [] [] [] ∧ flags t fl

/-- When the address LD computes passes the checks of R104, LD completes with its 1, 2, 4 or 8 bytes sign- or zero-
extended as its size says. When the address of LDA or ACQ passes them, LDA's stream comes after what the write it
sees there released, ACQ's after what the latest load, CAS or AMO of the object before it returned, the sector's
read buffer loses the lines the acquire names, and LDA completes with the eight bytes it sees at the home: those of
memory where every write is visible. That a load which misses fills its line is the model's reading of what R107 and
R288 allow (notes/assumptions/13.md, DEDUCED), and which of the writes that nothing orders a load sees is free
(notes/assumptions/3.md, DEDUCED). -/
def Obligations.ScalarLoads : Prop :=
  (∀ (f : LdF) (s : State) (l : Loc), f.z < 7 →
    let n := if f.z < 2 then 1 else if f.z < 4 then 2 else if f.z < 6 then 4 else 8
    s.access (s.srcS f.a + sext 10 f.o * word n) n .read false = .ok l →
    let x := s.loadNum l n
    let v : Word := if f.z % 2 = 0 ∧ 2 ^ (8 * n - 1) ≤ x % 2 ^ (8 * n) then BitVec.ofInt 64 ((x % 2 ^ (8 * n) : Nat) - 2 ^ (8 * n)) else word x
    (s.hist = [] → s.loaded l n = s) ∧
    ∃ r, exec (.ld f) s = .next ((s.loaded l n).finish f.e (.done r)) ∧ r.latch = .word v ∧ r.effs = (toS f.d f.w v).effs ++ s.fillOf l ∧ r.post = .none ∧ r.flags = 0) ∧
  (∀ (f : LdaF) (s : State) (l : Loc),
    let va := s.srcS f.a + sext 8 f.o * 8
    s.access va 8 .read true = .ok l →
    (s.hist = [] → s.loadNum l 8 = s.homeNum l.key 8) ∧
    exec (.lda f) s = .next ((((s.loaded l 8).acquireFrom f.s f.f va.toNat (s.relsAt l.key)).acquire f.f va.toNat).finish f.e
      (.done (toS f.d f.w (word (s.loadNum l 8)))))) ∧
  ∀ (f : AcqF) (s : State) (l : Loc),
    let va := s.srcS f.a + sext 8 f.o * 8
    s.access va 8 .read true = .ok l →
    exec (.acq f) s = .next (((s.acquireFrom f.s f.f va.toNat (s.relsRead l.key)).acquire f.f va.toNat).finish f.e (.done {}))

/-- After an acquire of every line the moving core's sector holds no line in its read buffer, every other sector holds
what it held, and nothing but the read buffer changes; a line an acquire leaves reads as before. -/
def Obligations.AcquireDropsLines : Prop :=
  ∀ (s : State) (all : Bool) (va : Nat),
    let t := s.acquire all va
    (all = true → ∀ x ∈ t.srb, x.1 % 16 ≠ sectorOf s.cur.core) ∧
    (∀ x ∈ s.srb, x.1 % 16 ≠ sectorOf s.cur.core → x ∈ t.srb) ∧ (∀ x ∈ t.srb, x ∈ s.srb) ∧
    t.mem = s.mem ∧ t.cores = s.cores ∧ t.engines = s.engines ∧ t.ks = s.ks ∧ t.xi = s.xi ∧ t.dev = s.dev

/-- When the address an ST, STREL, NADD or REL computes passes the checks of R104, ST and STREL complete with a store of
the low bytes of c there, STREL with its release, whose coverage is that of the binding table at the clause's issue,
NADD with one near-memory add of the low bytes of c, and REL and FENCE with the release that later writes carry;
adds of lower positions of the clause are settled before STREL and REL, and before an ST to the bytes they name.
FENCE completes in every state; where its scope is not contained in SECTOR it empties the sector's read buffer. -/
def Obligations.ScalarStores : Prop :=
  (∀ (f : StF) (s : State) (l : Loc),
    let n := 2 ^ f.z
    let va := s.srcS f.a + sext 11 f.o * word n
    s.access va n .write true = .ok l →
    exec (.st f) s = .next ((s.afterAdds l.key n).finish f.e
      (.done { effs := [.store (cellsAt l.key (bytesOf n (s.srcS f.c).toNat)) va.toNat { grain := 0 }] }))) ∧
  (∀ (f : StrelF) (s : State) (l : Loc),
    let va := s.srcS f.a + sext 8 f.o * 8
    s.access va 8 .write true = .ok l →
    exec (.strel f) s = .next (s.settleAdds.finish f.e
      (.done { effs := [.store (cellsAt l.key (bytesOf 8 (s.srcS f.c).toNat)) va.toNat
        { grain := 0, rel := some (coverOf s.bindsAt f.s f.f va.toNat) }] }))) ∧
  (∀ (f : AcqF) (s : State) (l : Loc),
    let va := s.srcS f.a + sext 8 f.o * 8
    s.access va 8 .write true = .ok l →
    exec (.rel f) s = .next (s.settleAdds.finish f.e (.done { effs := [.mark f.s (some l.key) (coverOf s.bindsAt f.s f.f va.toNat)] }))) ∧
  (∀ (f : NaddF) (s : State) (l : Loc),
    let n := if f.t = 1 then 8 else 4
    let va := s.srcS f.a + sext 11 f.o * word n
    s.access va n .nadd true = .ok l →
    Completes (.nadd f) s f.e { effs := [.nadd l.key f.t ((s.srcS f.c).toNat % 2 ^ (8 * n)) va.toNat] }) ∧
  ∀ (f : ScopeF) (s : State), ∃ t : State, exec (.fence f) s = .next (t.finish f.e (.done { effs := [.mark f.s none [(f.s, none)]] })) ∧
    t.mem = s.mem ∧
    (f.s ≤ 3 → t.srb = s.srb) ∧ (3 < f.s → ∀ x ∈ t.srb, x.1 % 16 ≠ sectorOf s.cur.core)

/-- When the address passes the checks of R104, CAS and AMO complete with the old 4 or 8 bytes zero-extended, stores of
lower positions of the clause included, the newest word wherever every write is visible; its scope widened to HOST
in host memory and to POD in a peer's; CAS stores the low bytes of b if the old value equals those of old d and else
stores nothing and drops its line of the read buffer, and AMO stores f(m, v) of its operation: v, m + v, and, or,
exclusive or, the signed smaller or larger, or the unsigned larger. -/
def Obligations.ScalarAtomics : Prop :=
  (∀ (f : CasF) (s : State) (l : Loc),
    let n := if f.z then 8 else 4
    s.access (s.srcS f.a) n .atomic true = .ok l →
    let s' := s.afterAdds l.key n
    let m := s'.atomicWord (atomWidth f.s l.target) l.key n
    let ks := (upTo n).map (l.key + ·)
    let old : Word := if f.w then 0 else s.vw.sreg f.d
    let r := { toS f.d f.w (word m) with rests := ks }
    (s.hist = [] → m = s'.homeAfter l.key n) ∧
    exec (.cas f) s = .next (if m = old.toNat % 2 ^ (8 * n) then
        (s'.readHome ks).finish f.e (.done { r with effs := r.effs ++ [.store (cellsAt l.key
          (bytesOf n ((s.srcS f.b).toNat % 2 ^ (8 * n)))) (s.srcS f.a).toNat { grain := 0, scope := some (atomWidth f.s l.target) }] })
      else ((s'.readHome ks).dropLines (sectorOf s.cur.core) fun k => k == l.key / 256 * 256).finish f.e (.done r))) ∧
  ∀ (f : AmoF) (s : State) (l : Loc), f.o < 8 →
    let n := if f.z then 8 else 4
    s.access (s.srcS f.a) n .atomic true = .ok l →
    let s' := s.afterAdds l.key n
    let m := s'.atomicWord (atomWidth f.s l.target) l.key n
    let ks := (upTo n).map (l.key + ·)
    let v := (s.srcS f.b).toNat % 2 ^ (8 * n)
    let r := { toS f.d f.w (word m) with rests := ks }
    ∃ x, (f.o = 0 → x = v) ∧ (f.o = 1 → x = (m + v) % 2 ^ (8 * n)) ∧ (f.o = 2 → x = m &&& v) ∧ (f.o = 3 → x = m ||| v)
      ∧ (f.o = 4 → x = m ^^^ v)
      ∧ (f.o = 5 → x = if signed (8 * n) v < signed (8 * n) m then v else m)
      ∧ (f.o = 6 → x = if signed (8 * n) m < signed (8 * n) v then v else m) ∧ (f.o = 7 → x = max m v)
      ∧ exec (.amo f) s = .next ((s'.readHome ks).finish f.e (.done
          { r with effs := r.effs ++ [.store (cellsAt l.key (bytesOf n x)) (s.srcS f.a).toNat
            { grain := 0, scope := some (atomWidth f.s l.target) }] }))

/-- With an object address that is a multiple of 8, BIND completes with -3 for a bad range, -2 for an overlap with
another object's live entry, -1 where all 64 entries are live, each without writing, and otherwise with the lowest
index that is not live, writing that entry as live for the object. A misaligned object faults with ALIGN. UNBIND
completes with the number of live entries of the object and clears the valid bit of each. Each rests on the table as
it finds it until its clause commits. That an entry of LEN 0 whose BASE lies strictly inside the new range counts as
an overlap is the model's choice (notes/assumptions/66.md, DESIGN CHOICE). -/
def Obligations.Bindings : Prop :=
  (∀ (f : BindF) (s : State),
    let a := s.srcS f.a
    let base := (s.vw.sreg f.b).toNat
    let len := (s.vw.sreg (f.b + 1)).toNat
    let live := s.bindsNow.filter fun e => bindLive e.2
    let clash := live.any fun e => bits e.2.toNat 63 0 != a.toNat && bits e.2.toNat 127 64 < base + len
      && base < bits e.2.toNat 127 64 + bits e.2.toNat 191 128
    let done := fun (v : Int) => exec (.bind f) s = .next (s.restOnBinds.finish f.e (.done (toS f.d f.w (BitVec.ofInt 64 v))))
    let badRange := len = 0 ∨ 2 ^ 56 < base + len
    (a.toNat % 8 ≠ 0 → exec (.bind f) s = .next (s.restOnBinds.finish f.e (.trap { code := 7, i0 := a }))) ∧
    (a.toNat % 8 = 0 →
      (badRange → done (-3)) ∧ (¬badRange → clash = true → done (-2)) ∧
      (¬badRange → clash = false → (∀ i, i < 64 → ∃ e ∈ live, e.1 = i) → done (-1)) ∧
      ∀ i, ¬badRange → clash = false → i < 64 → (∀ e ∈ live, e.1 ≠ i) → (∀ j, j < i → ∃ e ∈ live, e.1 = j) →
        exec (.bind f) s = .next (s.restOnBinds.finish f.e (.done
          { toS f.d f.w (word i) with effs := (toS f.d f.w (word i)).effs ++ [.bind i (bindEntry f.s len base a.toNat)] })))) ∧
  ∀ (f : R1) (s : State),
    let hit := s.bindsNow.filter fun e => bindLive e.2 && bits e.2.toNat 63 0 == (s.srcS f.a).toNat
    ∃ r, exec (.unbind f) s = .next (s.restOnBinds.finish f.e (.done r)) ∧ r.latch = .word (word hit.length) ∧
      ∀ e, e ∈ r.effs ↔ e ∈ (toS f.d f.w (word hit.length)).effs ∨ ∃ x ∈ hit, e = .bind x.1 (x.2 &&& ~~~(1 <<< 196 : BitVec 256))

/-- LPATCH completes with 0 and the patch of the declared slot where the record is not armed, the value fits and its
word can be written, and with 2 where it is armed. LARM at tier 3 answers 3; below tier 3 an arm of a sound record
that is not armed answers 0 and arms the record as it was read at the caller's tier plus one, or 1 where that tier
is full, and an armed record answers 2. LARMW with no suspended channel does the same, and suspends its continuation
where the tier is full. EPUT on a streaming edge answers 0 and puts the item where a slot is free, else 1 without
it; EPUT.w puts the item and goes on, or suspends with it. -/
def Obligations.LaunchAndEdgeInstructions : Prop :=
  (∀ (f : RR) (s : State) (r : Nat),
    let a := s.srcS f.a
    let v := (s.srcS f.b).toNat
    let i := field a 11 0
    let slot := bits r (704 + 16 * field a 14 12 + 15) (704 + 16 * field a 14 12)
    field a 63 15 = 0 → i < s.lrCount → s.lrNow i = .ok r →
    (s.armedNow i = true → Completes (.lpatch f) s f.e (toS f.d f.w 2)) ∧
    (s.armedNow i = false → slotDeclared r slot = true → v < 2 ^ (bits slot 15 10 + 1) →
      (∃ t, s.kWrite s.me.cont.asid (s.lrAddr s.me.cont.asid i + 8 * bits slot 3 0) (bytesOf 8 0) = .ok t) →
      Completes (.lpatch f) s f.e { toS f.d f.w 0 with
        effs := (toS f.d f.w 0).effs ++ [.patch i (bits slot 3 0) (bits slot 9 4) (bits slot 15 10 + 1) v] })) ∧
  (∀ (s : State) (a : Word) (r : Nat),
    let i := field a 11 0
    field a 63 12 = 0 → i < s.lrCount → s.lrNow i = .ok r →
    (s.armedNow i = true → s.armOutcome a = .ok (2, r)) ∧
    (s.armedNow i = false → headerBad r = false →
      s.armOutcome a = .ok (if s.tierFullNow (s.me.cont.tier + 1) then 1 else 0, r))) ∧
  (∀ (f : R1) (s : State) (n c : Nat),
    let a := s.srcS f.a
    let t := s.settleAdds
    (t.me.cont.tier = 3 → exec (.larm f) s = .next (t.finish f.e (.done (toS f.d f.w 3)))) ∧
    (t.me.cont.tier ≠ 3 → t.armOutcome a = .ok (n, c) →
      exec (.larm f) s = .next (t.finish f.e (.done { toS f.d f.w (word n) with
        effs := (toS f.d f.w (word n)).effs ++ if n = 0 then [.arm (field a 11 0) (t.me.cont.tier + 1) c] else [] }))) ∧
    ((∀ ch, (s.me.chan ch).susp = none) → t.me.cont.tier ≠ 3 → t.armOutcome a = .ok (n, c) →
      exec (.larmw f) s = .next (t.finish f.e (.done (
        if n = 1 ∨ t.inGang = true then { post := .armWait (field a 11 0) c }
        else { toS f.d f.w (word n) with
          post := .noSuspend
          effs := (toS f.d f.w (word n)).effs ++ if n = 0 then [.arm (field a 11 0) (t.me.cont.tier + 1) c] else [] }))))) ∧
  (∀ (f : RR) (s : State) (room : Bool),
    let a := s.srcS f.a
    let t := s.settleAdds
    t.edgeRoom a = .ok room →
    exec (.eput f) s = .next (t.finish f.e (.done { toS f.d f.w (if room then 0 else 1) with
      effs := (toS f.d f.w (if room then 0 else 1)).effs ++ if room then [.edgePut a.toNat (t.srcS f.b)] else [] }))) ∧
  ∀ (f : SrcPair) (s : State) (room : Bool),
    let a := s.srcS f.a
    let t := s.settleAdds
    (∀ ch, (s.me.chan ch).susp = none) → t.edgeRoom a = .ok room →
    exec (.eputW f) s = .next (t.finish f.e (.done (
      if room = true ∧ t.inGang = false then { effs := [.edgePut a.toNat (s.srcS f.b)], post := .noSuspend }
      else { post := .putWait a.toNat (s.srcS f.b) })))

/-- With no suspended channel, SUSP on a readable semaphore or on address 0 and SUSP.bar on a readable barrier complete
and suspend on it, SUSP.end completes and ends the continuation, and YIELD completes by suspending where a
continuation of at least its priority waits for the core or a gang runs, and with 0 otherwise. -/
def Obligations.SuspensionPoints : Prop :=
  ∀ (s : State), (∀ ch, (s.me.chan ch).susp = none) →
    let t := s.settleAdds
    (∀ (f : SrcPair) (l : Loc), s.srcS f.a = 0 ∨ t.access (s.srcS f.a) 8 .read true = .ok l →
      exec (.susp f) s = .next (t.finish f.e (.done { post := .suspend 1 (s.srcS f.a) (s.srcS f.b) }))) ∧
    (∀ (f : SrcPair) (l : Loc), t.access (s.srcS f.a) 16 .read true = .ok l →
      exec (.suspBar f) s = .next (t.finish f.e (.done { post := .suspend 3 (s.srcS f.a) (s.srcS f.b &&& 1) }))) ∧
    (∀ f : EndF, exec (.suspEnd f) s = .next (t.finish f.e (.done { post := .finish }))) ∧
    ∀ f : DstF,
      (t.readyWaits = true ∨ t.inGang = true → exec (.yield f) s = .next (t.finish f.e (.done { post := .yielded }))) ∧
      (t.readyWaits = false → t.inGang = false →
        exec (.yield f) s = .next (t.finish f.e (.done { toS f.d f.w 0 with post := .noSuspend })))

/-- TRAP completes and then raises SYSCALL with its immediate; BRK faults with BREAK and its immediate. At supervisor
level ERET and ERET.fail complete and return or end; ERET.run with a bad count or address completes with 1, over
recorded progress with 3, otherwise starts the stopped stream at its address and waits, and once the run has a
result completes with it; at user level all three fault with PRIV 0x1000. WID completes with the work identifier or
its field. NPBEGIN outside a region opens one and inside faults with ILLEGAL 6; NPEND inside closes it and outside
faults with ILLEGAL 7. -/
def Obligations.TrapInstructions : Prop :=
  (∀ (f : Imm) (s : State), Completes (.trap f) s f.e { post := .syscall (word f.i) } ∧
    Faults (.brk f) s { code := 22, i0 := word f.i }) ∧
  (∀ (f : EndF) (s : State),
    (s.me.trap.super = true → Completes (.eret f) s f.e { post := .eret } ∧ Completes (.eretFail f) s f.e { post := .eretFail }) ∧
    (s.me.trap.super = false → Faults (.eret f) s { code := 2, i0 := 0x1000 } ∧ Faults (.eretFail f) s { code := 2, i0 := 0x1000 }) ∧
    (s.me.np = false → Completes (.npbegin f) s f.e { effs := [.npBegin] } ∧ Faults (.npend f) s { code := 1, i0 := 7 }) ∧
    (s.me.np = true → Completes (.npend f) s f.e { effs := [.npEnd] } ∧ Faults (.npbegin f) s { code := 1, i0 := 6 })) ∧
  (∀ (f : EretRunF) (s : State),
    let a := s.srcS f.a
    let b := (s.srcS f.b).toNat
    (s.me.trap.super = false → Faults (.eretRun f) s { code := 2, i0 := 0x1000 }) ∧
    (s.me.trap.super = true →
      (∀ v, s.me.trap.erun.result = some v → Completes (.eretRun f) s f.e (toS f.d f.w v)) ∧
      (s.me.trap.erun.result = none → s.me.trap.erun.active = false →
        (b = 0 ∨ 64 < b ∨ a.toNat % 4 ≠ 0 → Completes (.eretRun f) s f.e (toS f.d f.w 1)) ∧
        (1 ≤ b → b ≤ 64 → a.toNat % 4 = 0 →
          ((s.me.strm (strmOf f.x)).prog.active = true → Completes (.eretRun f) s f.e (toS f.d f.w 3)) ∧
          ((s.me.strm (strmOf f.x)).prog.active = false → ∃ t, exec (.eretRun f) s = .next t ∧
            t.me.trap.erun = { active := true, strm := strmOf f.x, want := b, did := 0, base := a
                               savedPc := (s.me.strm (strmOf f.x)).pc } ∧
            (strmOf f.x ≠ s.cur.strm → (t.me.strm (strmOf f.x)).pc = a ∧ (t.me.strm (strmOf f.x)).stopped = false)))))) ∧
  ∀ (f : DstNum) (s : State),
    (f.n = 0 → Completes (.wid f) s f.e (toS f.d f.w s.me.cont.wid)) ∧
    (f.n ≠ 0 → ∀ g, s.graph s.me.cont.asid s.me.cont.lrec = some g →
      Completes (.wid f) s f.e (toS f.d f.w (word (widField g.copy s.me.cont.wid.toNat f.n))))

/-- A TRAP alone in a clause at user level, where the context has a trap vector, leaves the core at supervisor level
with TRAPCAUSE 23, TRAPINFO0 its immediate, TRAPPC.S the offset of the clause that comes next, which is a loop's
start where a body of an active loop ends there, the user's loops kept as that leaves them, and the S stream at
TRAPVEC. An ERET alone in a clause at supervisor level, with no asynchronous cause pending, leaves the core at user
level with every stream not stopped at the kernel image base plus its TRAPPC, the user's loops restored, and
TRAPCAUSE, TRAPSRC and TRAPINFO as they were. -/
def Obligations.SystemCallAndReturn : Prop :=
  (∀ (f : Imm) (s : State), s.Lone → f.e = true → s.cur.strm = .s → s.ctxWord s.me.cont.asid 8 ≠ 0 →
    let next := loopBack s.cl.next s.st.loops
    ∃ t, exec (.trap f) s = .next t ∧ t.me.trap.super = true ∧ t.me.trap.cause = 23 ∧ t.me.trap.info = #v[word f.i, 0, 0, 0] ∧
      vget t.me.trap.pcs 0 0 = word ((next.1.toNat + 2 ^ 64 - s.me.cont.base.toNat) % 2 ^ 32) ∧ t.me.trap.userLoops = next.2 ∧ t.me.ss.loops = [] ∧
      t.me.ss.pc = word (s.ctxWord s.me.cont.asid 8) ∧ s.me.SameRegs { t.me with regs := { t.me.regs with q := s.me.regs.q } } [] [] [] ∧
      s.SameOutside t) ∧
  ∀ (f : EndF) (s : State), s.Bare → s.me.trap.super = true → f.e = true → s.cur.strm = .s → s.me.trap.pending = [] →
    ∃ t, exec (.eret f) s = .next t ∧ t.me.trap.super = false ∧
      (∀ k : Strm, (t.me.strm k).pc = s.me.cont.base + vget s.me.trap.pcs k.idx 0 ∧ (t.me.strm k).stopped = false) ∧
      t.me.ss.loops = s.me.trap.userLoops ∧ t.me.trap.cause = s.me.trap.cause ∧ t.me.trap.src = s.me.trap.src ∧
      t.me.trap.info = s.me.trap.info ∧ t.me.regs = s.me.regs ∧ s.SameOutside t

/-- A read of a register the level may read completes with its value, every register but the two counters read as the
machine holds it; a register that user level may not reach faults with PRIV and its number. At supervisor level a
write completes with the effect that writes it, at user level only to RCAP, FLAGS and RMODE, is ignored on a
register user level may only read, and faults with PRIV elsewhere; a reserved rounding mode faults with ILLEGAL 5 at
its position, and a PART image that breaks R34 when its clause of its own commits faults with ILLEGAL 1. The
committed write leaves KSCR, TRAPINFO, WADDR, RMODE.SEED and RCAP (clamped to 1 to 8,192) holding the value. -/
def Obligations.SystemRegisters : Prop :=
  (∀ (f : DstNum) (s : State), f.n ≠ 5 → f.n ≠ 0x40 →
    (s.me.trap.super = true ∨ userRight f.n ≠ 0 → Completes (.sysrd f) s f.e (toS f.d f.w (s.sysRead f.n))) ∧
    (s.me.trap.super = false → userRight f.n = 0 → Faults (.sysrd f) s { code := 2, i0 := word f.n })) ∧
  (∀ (f : DstNum) (s : State), f.n = 5 → ∃ v, s.tick ≤ v ∧
    exec (.sysrd f) s = .next ({ s with tick := v, free := s.free + 1 }.finish f.e (.done (toS f.d f.w (word v))))) ∧
  (∀ (f : DstNum) (s : State), f.n = 0x40 → ∃ (t : State) (v : Word), exec (.sysrd f) s = .next (t.finish f.e (.done (toS f.d f.w v))) ∧
    (s.me.np = false → v = 0) ∧ (s.me.np = true → s.me.npCycles ≤ 65535 → ∃ c, s.me.npCycles ≤ c ∧ c ≤ 65535 ∧ v = word (2 ^ 17 + c))) ∧
  (∀ (f : SyswrF) (s : State),
    let v := s.srcS f.c
    (s.me.trap.super = false → userRight f.n = 0 → Faults (.syswr f) s { code := 2, i0 := word f.n }) ∧
    (s.me.trap.super = false → userRight f.n = 1 → Completes (.syswr f) s f.e {}) ∧
    (s.me.trap.super = true ∨ userRight f.n = 2 →
      (0x34 ≤ f.n → f.n ≤ 0x37 → 5 ≤ v.toNat % 8 → Faults (.syswr f) s { code := 1, i0 := 5 }) ∧
      ((0x34 ≤ f.n → f.n ≤ 0x37 → v.toNat % 8 < 5) → Completes (.syswr f) s f.e { effs := [.sys f.n v] })) ∧
    (s.me.trap.super = true → f.n = 0 → f.e = true → s.cl.effs = [] → s.cl.lens = [] → s.cl.ue = none → s.me.partOk v = false →
      exec (.syswr f) s = .next (((s.restOn []).onCl fun c => c.record { effs := [.sys 0 v] }).faultAt 0 { code := 1, i0 := 1 }))) ∧
  ∀ (s : State) (v : Word) (i : Nat), i < 4 →
    (s.sysWrite (0x20 + i) v).sysRead (0x20 + i) = v ∧ (s.sysWrite (0x18 + i) v).sysRead (0x18 + i) = v
      ∧ (s.sysWrite (0x38 + i) v).sysRead (0x38 + i) = v ∧ (s.sysWrite 0x28 v).sysRead 0x28 = word (v.toNat % 2 ^ 56)
      ∧ (s.sysWrite 1 v).sysRead 1 = word (max 1 (min v.toNat 8192)) ∧ (s.sysWrite (0x30 + i) v).sysRead (0x30 + i) = word (v.toNat % 128)

/-- TKGIVE and TKTAKE complete in every state. A LOOP of count c completes by skipping its body when c = 0 and by
starting it with counter c when c is at most 2^32 - 1, its index is free and its body lies inside every active body;
otherwise it faults with LOOP 4, 1 or 2. A DPAIR whose two entries decode in its stream gives way to the two
instructions at its own address. A WFE that need not wait, on a readable word, completes with the eight bytes at the
home. -/
def Obligations.WordsOfEveryStream : Prop :=
  (∀ (f : ScopeF) (s : State), Completes (.tkgive f) s f.e {} ∧ Completes (.tktake f) s f.e {}) ∧
  (∀ (s : State) (f : LoopImmF) (g : LoopRegF),
    let start := s.cl.next
    let v := if s.cur.strm = .s then s.srcS g.s else if s.cur.strm = .a then s.srcA g.s else s.srcX g.s
    let outcome := fun (i : Instr) (e : Bool) (n c len : Nat) =>
      let stop := start + word (4 * len)
      let used := s.st.loops.any fun l => l.n == n
      let outside := s.st.loops.any fun l => start.toNat < l.start.toNat || l.stop.toNat < stop.toNat
      (c = 0 ∨ c < 2 ^ 32 ∧ used = false ∧ outside = false →
        Completes i s e { post := .loop { n := n, count := c, start := start, stop := stop } }) ∧
      (2 ^ 32 ≤ c → Faults i s { code := 18, i0 := 4 }) ∧
      (c ≠ 0 → c < 2 ^ 32 → used = true → Faults i s { code := 18, i0 := 1 }) ∧
      (c ≠ 0 → c < 2 ^ 32 → used = false → outside = true → Faults i s { code := 18, i0 := 2 })
    outcome (.loopImm f) f.e f.n f.c (f.l + 1) ∧ outcome (.loopReg g) g.e g.n v.toNat (g.l + 1)) ∧
  (∀ (f : PairF) (s : State) (i0 i1 : Instr),
    decode (.stream s.cur.strm) (Tab.get s.me.dict f.i 0) = .ok i0 → decode (.stream s.cur.strm) (Tab.get s.me.dict f.j 0) = .ok i1 →
    ∃ t, exec (.dpair f) s = .next t ∧ t.moving = true ∧
      t.cl = { s.cl with slots := s.cl.slots.take s.cl.pos ++ [⟨s.here, i0⟩, ⟨s.here, i1⟩] ++ s.cl.slots.drop (s.cl.pos + 1) }) ∧
  ∀ (f : RR) (s : State) (l : Loc),
    s.wfeWaits s.cl.pos (s.srcS f.a) (s.srcS f.b) = false → s.access (s.srcS f.a) 8 .read true = .ok l →
    ∃ t, exec (.wfe f) s = .next t ∧ (f.e = true → s.Lone → f.d < 32 → f.w = false →
      t.me.sreg f.d = (if f.d = 0 then 0 else word (s.homeNum l.key 8)))

/-- AADD, ASUB, AMUL, ASHL, ASHR, AAND, AOR, AMIN and AMAX and their immediate forms AADDI, AMULI, ASHLI, ASHRI, AANDI,
AORI, AMINI and AMAXI complete in every state with the value their rows give, for the a registers or latches they
name. -/
def Obligations.AddressArithmetic : Prop :=
  (∀ (f : RR) (s : State),
    let a := s.srcA f.a
    let b := s.srcA f.b
    let n := b.toNat % 64
    let done := fun (i : Instr) (v : Word) => Completes i s f.e (toA f.d f.w v)
    done (.aadd f) (a + b) ∧ done (.asub f) (a - b) ∧ done (.amul f) (a * b) ∧ done (.ashl f) (word (a.toNat * 2 ^ n))
      ∧ done (.ashr f) (word (a.toNat / 2 ^ n)) ∧ done (.aand f) (a &&& b) ∧ done (.aor f) (a ||| b)
      ∧ done (.amin f) (if a.toInt ≤ b.toInt then a else b) ∧ done (.amax f) (if b.toInt ≤ a.toInt then a else b)) ∧
  (∀ (f : RI) (s : State), f.i < 8192 →
    let a := s.srcA f.a
    let x : Word := BitVec.ofInt 64 (if f.i < 4096 then (f.i : Int) else (f.i : Int) - 8192)
    let done := fun (i : Instr) (v : Word) => Completes i s f.e (toA f.d f.w v)
    done (.aaddi f) (a + x) ∧ done (.amuli f) (a * x) ∧ done (.aandi f) (a &&& word f.i) ∧ done (.aori f) (a ||| word f.i)
      ∧ done (.amini f) (if a.toInt ≤ x.toInt then a else x) ∧ done (.amaxi f) (if x.toInt ≤ a.toInt then a else x)) ∧
  ∀ (f : RSh) (s : State), f.n < 64 →
    let a := s.srcA f.a
    Completes (.ashli f) s f.e (toA f.d f.w (word (a.toNat * 2 ^ f.n)))
      ∧ Completes (.ashri f) s f.e (toA f.d f.w (word (a.toNat / 2 ^ f.n)))

/-- A descriptor image that reads and passes its checks goes into its slot; TDINFO of a slot that holds one completes
with the field its selector names. TLD whose elements read and whose sidecars match replaces the tile's data and
sets a validity bit exactly for the rows inside the tensor; TST and VST store the elements they could write; VLD
writes the vector of the elements it read. QBIND binds a descriptor and a sound binding image with nothing fetched,
QUNBIND unbinds, and QPOS completes with the units popped or all ones. Model's choices: TLD.s clears the validity of
rows outside the shape (notes/assumptions/31.md, DEDUCED), images are read at their home (33.md, DEDUCED), loads
that miss fill their lines (13.md, DEDUCED), and TDINFO truncates a product of sizes of 2^64 or more (70.md, DESIGN
CHOICE). -/
def Obligations.DescriptorsAndTiles : Prop :=
  (∀ (f : TdmakeF) (s : State) (img : BitVec 512),
    let va : Int := (s.srcA f.a).toNat + signed 13 f.i * 64
    0 ≤ va → s.readDesc va.toNat = .ok img →
    Completes (.tdmake f) s f.e { effs := [.dslot f.d img] }) ∧
  (∀ (f : TdinfoF) (s : State) (img : BitVec 512), s.vw.slot f.a = some img →
    let n := img.toNat
    let sel := (s.srcA f.b).toNat
    ∃ v, Completes (.tdinfo f) s f.e (toA f.d f.w v) ∧ (sel = 0 → v = word (dBase n)) ∧ (sel = 1 → v = word (bits n 95 64))
      ∧ (∀ k, k < 5 → sel = 2 + k → v = word (dSize n k)) ∧ (∀ k, k < 5 → sel = 7 + k → v = BitVec.ofInt 64 (dStride n k))
      ∧ (sel = 12 → v = word (dFill n)) ∧ (sel = 13 → v = word (bits n 455 448)) ∧ (sel = 14 → v = word (dSidecar n))
      ∧ (sel = 15 → v = word (dCount n)) ∧ (15 < sel → v = 0)) ∧
  (∀ (f : TldF) (s : State) (n : Nat) (o : Coord) (w : Word) (xs : List Nat) (ls : List Loc),
    let m := s.mode .read false
    let ps := tilePlaces w f.s
    let cs := ps.map fun p => tileCoord o f.t p.1 p.2
    s.tilePrep f.d f.a f.b f.s = .ok (n, o, w) → (dCrcchk n = true → dDense n = true ∧ dSideOk n = true) →
    s.readElems m n cs = .ok (xs, ls) → s.loadCrc m n cs = .ok () →
    ∃ t : Tile, Completes (.tld f) s f.e { effs := .tile f.d t :: s.fillsOf ls } ∧ t.shape = (s.vw.tile f.d).shape ∧
      t.data = (ps.zip xs).foldl (fun m p => if f.s then tPutScale w m p.1.1 p.1.2 p.2 else tPut w m p.1.1 p.1.2 p.2)
        (s.vw.tile f.d).data ∧
      (f.s = false → ∀ r, r < 256 → t.valid.getLsbD r = (decide (r < tRows w) && rowIn n o f.t r)) ∧
      (f.s = true → ∀ r, r < 256 → t.valid.getLsbD r = (decide (r < tRows w) && (s.vw.tile f.d).valid.getLsbD r))) ∧
  (∀ (f : TstF) (s : State) (n : Nat) (o : Coord) (w : Word) (cells : List (Nat × Host.Cell)),
    let t := s.vw.tile f.d
    s.tilePrep f.d f.a f.b f.s = .ok (n, o, w) → dBcast n = false → dNostore n = false →
    s.writeElems (s.mode .write true) n [] (((tilePlaces w f.s).filter fun p => !f.v || t.valid.getLsbD p.1).map fun p =>
      (tileCoord o f.t p.1 p.2, if f.s then tGetScale w t.data p.1 p.2 else tGet w t.data p.1 p.2)) = .ok cells →
    Completes (.tst f) s f.e { effs := storesOf cells.reverse, rests := nibbleKeys (dFmt n) (cells.map (·.2.1)) }) ∧
  (∀ (f : VldF) (s : State) (n : Nat) (o : Coord) (xs : List Nat) (ls : List Loc),
    s.vw.slotImg f.a = .ok n → s.vw.origin f.b = .ok o → vTag (dFmt n) = true → dSize n 0 ≤ 65535 →
    s.readElems (s.mode .read false) n ((upTo (dSize n 0)).map fun j => o.shift j 0) = .ok (xs, ls) →
    (VReg.ofCodes (dFmt n) xs).n ≤ s.vw.rcap →
    Completes (.vld f) s f.e { effs := .vreg f.d (VReg.ofCodes (dFmt n) xs) :: s.fillsOf ls }) ∧
  (∀ (f : VldF) (s : State) (n : Nat) (o : Coord) (cells : List (Nat × Host.Cell)),
    let v := s.vw.vreg f.d
    s.vw.slotImg f.a = .ok n → s.vw.origin f.b = .ok o → v.tag = dFmt n → dBcast n = false → dNostore n = false →
    s.writeElems (s.mode .write true) n [] ((upTo v.len).zipWith (fun j x => (o.shift j 0, x)) v.codes) = .ok cells →
    Completes (.vst f) s f.e { effs := storesOf cells.reverse, rests := nibbleKeys (dFmt n) (cells.map (·.2.1)) }) ∧
  (∀ (f : SlotSrc) (s : State) (n : Nat) (b : BitVec 512),
    s.vw.slotImg f.a = .ok n → s.readImage (s.srcA f.b).toNat = .ok b → bindingBad n b.toNat = false →
    Completes (.qbind f) s f.e { effs := [.qset f.d { bound := true, desc := BitVec.ofNat 512 n, bind := b, sup := s.me.trap.super }] }) ∧
  (∀ (f : Dst) (s : State), Completes (.qunbind f) s f.e { effs := [.qset f.d {}] }) ∧
  ∀ (f : QposF) (s : State), Completes (.qpos f) s f.e
    (toA f.d f.w (if (s.vw.qreg f.a).bound then word (s.vw.qreg f.a).popped else BitVec.allOnes 64))

/-- On a channel that is not suspended and holds fewer than 16 transfers, a TCOPY of either form whose checks pass
completes with the channel's next identifier in d and in the transfer it queues. CWAIT completes once its identifier
has been issued and completed, after the writes of the transfers up to it. CRESUME on a channel that is not
suspended completes at once, and on a suspended one completes in the state its retry leaves; CRESUME.abort completes
with the discard of the suspended transfer and every later one as its effect. CSTAGE whose entries are released
completes with the raised stage, the transfers and the released indices. That CRESUME retries when its position
executes and completes in the state its retry leaves is the model's reading of R148 (notes/assumptions/15.md,
DEDUCED). -/
def Obligations.CopyInstructions : Prop :=
  (∀ (f : TcopyF) (s : State) (src dst : Nat),
    let h := s.me.chan f.h
    let ctl := s.vw.areg f.d
    h.susp = none → h.queue.length < 16 → h.next < 2 ^ 48 → s.vw.slotImg f.a = .ok src → s.vw.slotImg f.b = .ok dst →
    copyCheck src (.inl dst) ctl f.c f.k = none →
    ∃ t : Transfer, t.ident = h.next ∧ t.src = BitVec.ofNat 512 src ∧ t.dst = BitVec.ofNat 512 dst ∧ t.tile = none ∧ t.ctl = ctl ∧
      t.crc = f.c ∧ t.check = f.k ∧ t.prog = 0 ∧
      Completes (.tcopy f) s f.e { latch := .word (word h.next), effs := [.transfer f.h t, .areg f.d (word h.next)] }) ∧
  (∀ (f : TcopyTileF) (s : State) (src : Nat),
    let h := s.me.chan f.h
    let ctl := s.vw.areg f.d
    h.susp = none → h.queue.length < 16 → h.next < 2 ^ 48 → s.vw.slotImg f.a = .ok src →
    copyCheck src (.inr (s.vw.tile f.b)) ctl false f.k = none →
    ∃ t : Transfer, t.ident = h.next ∧ t.src = BitVec.ofNat 512 src ∧ t.tile = some f.b ∧ t.ctl = ctl ∧ t.crc = false ∧
      t.check = f.k ∧ t.prog = 0 ∧
      Completes (.tcopyTile f) s f.e { latch := .word (word h.next), effs := [.transfer f.h t, .areg f.d (word h.next)] }) ∧
  (∀ (f : CwaitF) (s : State), (s.me.chan f.h).susp = none → (s.srcA f.a).toNat < (s.me.chan f.h).next →
    (s.srcA f.a).toNat ≤ (s.me.chan f.h).cdone →
    (s.passed = true → Completes (.cwait f) s f.e {}) ∧
    (s.passed = false → exec (.cwait f) s = .next ((s.takeCopies f.h fun n => decide (n ≤ (s.srcA f.a).toNat)).pass.finish f.e (.done {})))) ∧
  (∀ (f : ChanF) (s t : State), ((s.me.chan f.h).susp = none → Completes (.cresume f) s f.e {}) ∧
    (s.retryChan s.cur.core f.h = .ok t → exec (.cresume f) s = .next (t.finish f.e (.done {}))) ∧
    Completes (.cresumeAbort f) s f.e { effs := [.abort f.h] }) ∧
  ∀ (f : DstNum) (s : State) (ids : List Nat) (ts : List Eff), (∀ ch, (s.me.chan ch).susp = none) → s.cl.effs = [] →
    let stg := min (s.me.copy.stg + f.n) 256
    s.schedRelease stg s.me.copy.released [] [] (upTo s.me.copy.schedCount) = .ok ids ts →
    Completes (.cstage f) s f.e { toA f.d f.w (word stg) with effs := (toA f.d f.w (word stg)).effs ++ ts ++ [.stage stg ids] }

/-- On a barrier object whose checks pass, BARINIT with a target of 1 to 2^48 - 1 stores the object with that target,
phase 0 and count 0; BARARRIVE completes with the old phase and stores the object with its count raised, reduced by
the target and its phase flipped once per target reached, or with a target of 0 its count taken modulo 2^48 and its
phase kept, as a release; BARWAIT on the other phase completes and empties the sector's read buffer. CRCGET of at
most 4,096 readable bytes completes with their CRC-64. Model's choices: BARWAIT empties the whole read buffer, where
R153 acquires less (notes/assumptions/13.md, DEDUCED), CRCGET reads at the home (33.md, DEDUCED), and BARARRIVE's d
is the phase when its position executes while its credit is added at the commit (71.md, DESIGN CHOICE). -/
def Obligations.BarriersAndCrc : Prop :=
  (∀ (f : SrcPair) (s : State) (l : Loc),
    let b := (s.srcA f.b).toNat
    s.access (s.srcA f.a) 16 .atomic true = .ok l → b ≠ 0 → b < 2 ^ 48 →
    ∃ o, Completes (.barinit f) s f.e { effs := [.store (cellsAt l.key (bytesOf 16 o)) (s.srcA f.a).toNat { grain := 0 }] } ∧
      bits o 47 0 = b ∧ bit o 63 = false ∧ bits o 111 64 = 0) ∧
  (∀ (f : ArriveF) (s : State) (l : Loc),
    let b := (s.srcA f.b).toNat
    s.access (s.srcA f.a) 16 .atomic true = .ok l → b < 2 ^ 48 →
    let old := s.homeAfter l.key 16
    let target := bits old 47 0
    let r := toA f.d f.w (if bit old 63 then 1 else 0)
    ∃ o, Completes (.bararrive f) s f.e { r with effs := r.effs ++ [.store (cellsAt l.key (bytesOf 16 o)) (s.srcA f.a).toNat
        { grain := 0, rel := some [(f.s, none)], bar := some b }] } ∧
      bits o 47 0 = target ∧
      (0 < target → bits o 111 64 = (bits old 111 64 + b) % target ∧
        bit o 63 = (bit old 63 != decide ((bits old 111 64 + b) / target % 2 = 1))) ∧
      (target = 0 → bits o 111 64 = (bits old 111 64 + b) % 2 ^ 48 ∧ bit o 63 = bit old 63)) ∧
  (∀ (f : BarwaitF) (s : State), s.passed = false → (∀ ch, (s.me.chan ch).susp = none) → s.phaseAt (s.srcA f.a) = .ok (!wbit (s.srcA f.b) 0) →
    ∃ t : State, exec (.barwait f) s = .next (t.finish f.e (.done {})) ∧ t.mem = s.mem ∧
      s.me.SameRegs t.me [] [] [] ∧ s.me.SameSys t.me ∧ ∀ x ∈ t.srb, x.1 % 16 ≠ sectorOf s.cur.core) ∧
  ∀ (f : RR) (s : State) (ls : List Loc),
    (s.srcA f.b).toNat ≤ 4096 → s.rangeLocs (s.mode .read true) (s.srcA f.a).toNat (s.srcA f.b).toNat = .ok ls →
    Completes (.crcget f) s f.e (toA f.d f.w (crc64 (s.locBytes ls)))

/-- Over operands whose lengths are len or 1, the segments of R160, each repeated by its length, list for every position
the elements of the operands there, an operand of one element giving it everywhere. -/
def Obligations.SegmentsCoverTheElements : Prop :=
  ∀ (len : Nat) (ops : List VReg), ops ≠ [] → len ≤ 65535 →
    (∀ o ∈ ops, (o.len = len ∨ o.len = 1) ∧ ∀ r ∈ o.runs, 1 ≤ r.cnt ∧ r.cnt ≤ 65535) →
    ((segsOf len ops).flatMap fun g => List.replicate g.2 g.1)
      = (List.range len).map fun j => ops.map fun o => o.codes.getD (if o.len = 1 then 0 else j) 0

/-- VADD, VSUB, VMUL, VFMA, VDIV, VMIN, VMAX, VAND, VOR, VXOR, VSHL and VSHR on sources of one tag that their row
accepts, with a BIT mask and a length, complete with the row's function of every segment the mask keeps, the old
element or 0 for the others; their flags are those of the segments computed, with EMPTY for no runs. With W = 1 the
old element, and VFMA's addend, are those of v0: an inference from the encoding of d (notes/assumptions/30.md,
DEDUCED). On sources of different tags they fault with FORMAT code 0. -/
def Obligations.VectorBinary : Prop :=
  ∀ (f : VF) (s : State) (a b : VReg) (base : Res),
    s.vReads [f.a, f.b] [a, b] base →
    ∀ r ∈ ([(.vadd f, numTag, false, true, elAdd), (.vsub f, numTag, false, true, elSub), (.vmul f, numTag, false, true, elMul),
        (.vfma f, isWideTag, true, true, elFma), (.vdiv f, isWideTag, false, true, elDiv),
        (.vmin f, numTag, false, false, fun t _ _ v => pick false t (v.getD 0 0) (v.getD 1 0)),
        (.vmax f, numTag, false, false, fun t _ _ v => pick true t (v.getD 0 0) (v.getD 1 0)),
        (.vand f, isIntTag, false, false, fun _ _ _ v => (v.getD 0 0 &&& v.getD 1 0, 0)),
        (.vor f, isIntTag, false, false, fun _ _ _ v => (v.getD 0 0 ||| v.getD 1 0, 0)),
        (.vxor f, isIntTag, false, false, fun _ _ _ v => (v.getD 0 0 ^^^ v.getD 1 0, 0)),
        (.vshl f, isIntTag, false, false, fun t _ _ v => elShl t v), (.vshr f, isIntTag, false, false, fun t _ _ v => elShr t v)] :
        List (Instr × (Nat → Bool) × Bool × Bool × (Nat → RMode → Bool → List Nat → Nat × Word))),
    let x : Elt := { vs := [a, b], old := s.vw.vreg f.d, reads := r.2.2.1, mask := f.m, z := f.z, base := base }
    let draws := r.2.2.2.1 && isWideTag a.tag
    (∀ len, a.tag = b.tag → r.2.1 a.tag = true → x.tagOk s.vw a.tag = true → lenRule s.cl.pos (x.ops s.vw) = .ok len →
      let q := s.eltBuilt x len draws (r.2.2.2.2 a.tag)
      let v := vecOf a.tag f.c q.runs.reverse
      v.n ≤ s.vw.rcap →
      Completes r.1 s f.e (vecRes base (markV f.l f.a ++ markV f.k f.b) f.d f.w v q.flags (if draws then q.rnd.out else base.seed))) ∧
    (a.tag ≠ b.tag → Faults r.1 s { code := 3, i0 := word s.cl.pos, i1 := 0 })

/-- For integer tags the element functions of VADD, VSUB and VMUL give the exact sum, difference or product held to the
range of the tag and set SAT exactly when it was outside; VMIN and VMAX give the smaller and the larger; VSHL gives
the low bits of the shifted code, and VSHR the exact quotient rounded down. -/
def Obligations.VectorIntegerElements : Prop :=
  ∀ (t x y : Nat) (m : RMode) (ftz : Bool), isIntTag t = true → x < 2 ^ tagBits t → y < 2 ^ tagBits t →
    let n := tagBits t
    let top : Int := 2 ^ (n - 1)
    let sat := fun (q : Nat × Word) (v : Int) =>
      q.1 < 2 ^ n ∧ intOf t q.1 = max (-top) (min (top - 1) v) ∧ (q.2 = fSAT ∨ q.2 = 0) ∧ (q.2 = fSAT ↔ v < -top ∨ top ≤ v)
    sat (elAdd t m ftz [x, y]) (intOf t x + intOf t y) ∧ sat (elSub t m ftz [x, y]) (intOf t x - intOf t y)
      ∧ sat (elMul t m ftz [x, y]) (intOf t x * intOf t y)
      ∧ intOf t (pick false t x y).1 = min (intOf t x) (intOf t y) ∧ intOf t (pick true t x y).1 = max (intOf t x) (intOf t y)
      ∧ elShl t [x, y] = (x * 2 ^ y % 2 ^ n, 0) ∧ intOf t (elShr t [x, y]).1 = intOf t x / 2 ^ y

/-- VMOV, VNEG, VABS, VSQRT, VEXP2, VLOG2, VRCP, VRSQRT, VTANH and VSIGM on a source whose tag their row accepts, and
VCVT to its tag, complete with the row's function of every segment the mask keeps; VMOV gives the element itself,
and VNEG and VABS of an integer the exact result held to the range of the tag. With W = 1 the old element is that of
v0 (notes/assumptions/30.md, DEDUCED), and the flags and the small reciprocals of the special functions are the
model's choice where R65 is silent (notes/assumptions/25.md, DESIGN CHOICE). -/
def Obligations.VectorUnary : Prop :=
  (∀ (f : VUn) (s : State) (a : VReg) (base : Res), s.vReads [f.a] [a] base →
    ∀ r ∈ ([(.vmov f, vTag, false, fun _ _ _ x => (x, 0)),
        (.vneg f, numTag, false, fun t _ _ x => if isIntTag t then satInt (tagBits t) (-intOf t x) else elSign t Val.negate x),
        (.vabs f, numTag, false, fun t _ _ x => if isIntTag t then satInt (tagBits t) ((intOf t x).natAbs : Int) else elSign t Val.abs x),
        (.vsqrt f, isWideTag, true, fun t m ftz x => roundTo t m ftz (tagVal t x).sqrt),
        (.vexp2 f, isWideTag, false, fun t _ ftz x => elSpecial exp2_32 t ftz x),
        (.vlog2 f, isWideTag, false, fun t _ ftz x => elSpecial log2_32 t ftz x),
        (.vrcp f, isWideTag, false, fun t _ ftz x => elSpecial rcp32 t ftz x),
        (.vrsqrt f, isWideTag, false, fun t _ ftz x => elSpecial rsqrt32 t ftz x),
        (.vtanh f, isWideTag, false, fun t _ ftz x => elSpecial tanh32 t ftz x),
        (.vsigm f, isWideTag, false, fun t _ ftz x => elSpecial sigm32 t ftz x)] :
        List (Instr × (Nat → Bool) × Bool × (Nat → RMode → Bool → Nat → Nat × Word))),
    let x : Elt := { vs := [a], old := s.vw.vreg f.d, mask := f.m, z := f.z, base := base }
    ∀ len, r.2.1 a.tag = true → x.tagOk s.vw a.tag = true → lenRule s.cl.pos (x.ops s.vw) = .ok len →
      let q := s.eltBuilt x len r.2.2.1 fun m ftz v => r.2.2.2 a.tag m ftz (v.getD 0 0)
      let v := vecOf a.tag f.c q.runs.reverse
      v.n ≤ s.vw.rcap →
      Completes r.1 s f.e (vecRes base (markV f.l f.a) f.d f.w v q.flags (if r.2.2.1 then q.rnd.out else base.seed))) ∧
  ∀ (f : VcvtF) (s : State) (a : VReg) (base : Res) (len : Nat), s.vReads [f.a] [a] base →
    let x : Elt := { vs := [a], old := s.vw.vreg f.d, mask := f.m, z := f.z, base := base }
    vTag a.tag = true → x.tagOk s.vw f.b = true → lenRule s.cl.pos (x.ops s.vw) = .ok len →
    let q := s.eltBuilt x len (cvtDraws a.tag f.b) fun m ftz v => convert a.tag f.b m ftz (v.getD 0 0)
    let v := vecOf f.b f.c q.runs.reverse
    v.n ≤ s.vw.rcap →
    Completes (.vcvt f) s f.e (vecRes base (markV f.l f.a) f.d f.w v q.flags (if cvtDraws a.tag f.b then q.rnd.out else base.seed))

/-- VCMP of two sources of one tag completes with a mask that is 1 where its condition holds; VSEL with a where the mask
is 1 and b elsewhere; VQUANT of a BF16, FP16 or FP32 source with one scale per block beside the elements; VRSUM,
VRMAX and VRMIN with one element, VRSUM of integers being the exact sum of value times count over the kept segments,
held to the range of the tag. The old mask of a masked VCMP with W = 1 is m0, an inference (notes/assumptions/30.md,
DEDUCED). -/
def Obligations.VectorSelections : Prop :=
  (∀ (f : VcmpF) (s : State) (a b : VReg) (base : Res) (len : Nat), s.vReads [f.a, f.b] [a, b] base →
    let x : Elt := { vs := [a, b], old := s.vw.mreg f.d, mask := f.m, z := f.z, base := base }
    a.tag = b.tag → vTag a.tag = true → x.tagOk s.vw 11 = true → lenRule s.cl.pos (x.ops s.vw) = .ok len →
    let q := s.eltBuilt x len false fun _ _ v =>
      let y := tagVal a.tag (v.getD 0 0)
      let z := tagVal a.tag (v.getD 1 0)
      (b2n (if f.p = 0 then y.eqv z else if f.p = 1 then y.lt z else if f.p = 2 then y.lt z || y.eqv z else !y.eqv z),
        if y.isSig || z.isSig then fINV else 0)
    let v := vecOf 11 true q.runs.reverse
    v.n ≤ s.vw.rcap → Completes (.vcmp f) s f.e (maskRes base (markV f.l f.a ++ markV f.k f.b) f.d f.w v q.flags base.seed)) ∧
  (∀ (f : VselF) (s : State) (a b : VReg) (base : Res) (len : Nat), s.vReads [f.a, f.b] [a, b] base →
    let x : Elt := { vs := [a], old := b, mask := f.m, base := base }
    a.tag = b.tag → vTag a.tag = true → x.tagOk s.vw a.tag = true → lenRule s.cl.pos (x.ops s.vw) = .ok len →
    let q := s.eltBuilt x len false fun _ _ v => (v.getD 0 0, 0)
    let v := vecOf a.tag f.c q.runs.reverse
    v.n ≤ s.vw.rcap → Completes (.vsel f) s f.e (vecRes base (markV f.l f.a ++ markV f.k f.b) f.d f.w v 0 base.seed)) ∧
  (∀ (f : VquantF) (s : State) (a : VReg) (base : Res), s.vReads [f.a] [a] base → isWideTag a.tag = true →
    let blk := 2 ^ (f.b / 8 % 4 + 2)
    let sf := bit f.b 5
    let go := (List.range (ceilDiv a.len blk)).foldl (fun (st : Built × List Nat) k =>
      let q := quantBlock a.tag (f.b % 8) sf (sliceRuns (k * blk) blk a.runs) st.1
      (q.1, st.2 ++ [q.2])) (({ rnd := s.rnd } : Built), [])
    let v := vecOf (quantOf (f.b % 8)).1 f.c go.1.runs.reverse
    let scales := vecOf (if sf then 13 else 12) f.c (go.2.map fun c => { val := c, cnt := 1 })
    v.n ≤ s.vw.rcap → scales.n ≤ s.vw.rcap →
    Completes (.vquant f) s f.e ((vecRes base [] f.d false v go.1.flags go.1.rnd.out).also
      (.vreg (f.d + 1) scales :: markV f.l f.a))) ∧
  ∀ (f : VredF) (s : State) (a : VReg) (base : Res) (segs : List (Nat × Nat)), s.vReads [f.a] [a] base →
    s.kept a f.m = .ok segs → 1 ≤ s.vw.rcap →
    let done := fun (i : Instr) (q : Nat × Word × Rnd) =>
      Completes i s f.e (vecRes base (markV f.l f.a) f.d f.w { tag := a.tag, runs := [{ val := q.1, cnt := 1 }] } q.2.1 q.2.2.out)
    (isIntTag a.tag = true →
      let q := satInt (tagBits a.tag) (segs.map fun g => intOf a.tag g.1 * g.2).sum
      done (.vrsum f) (q.1, q.2, s.rnd)) ∧
    (isIntTag a.tag = false → done (.vrsum f) (sumFloat a.tag segs s.rnd)) ∧
    done (.vrmax f) (pickAll true a.tag segs s.rnd) ∧ done (.vrmin f) (pickAll false a.tag segs s.rnd)

/-- VCOMPRESS takes the segments in steps (of 64 segments, a size that the model chose: notes/assumptions/16.md, DESIGN
CHOICE), keeps those under a mask element of 1, stands at a step boundary while segments remain and completes at the
last step with all that were kept; VEXPAND lays its source's elements at the ones of the mask and zeros elsewhere;
VSLICE gives positions lo to lo + len; VCAT the runs of both; VEXTEND one run more; VCOAL the same elements in
maximal runs; VBCAST the first value over the length of b; VIOTA the positions as INT32. -/
def Obligations.VectorShapes : Prop :=
  (∀ (f : VTwo) (s : State) (a : VReg) (base : Res),
    let m := s.srcM f.b
    s.vReads [f.a] [a] base → vTag a.tag = true → m.tag = 11 →
    let done := fun (i : Instr) (runs : List Run) => (vecOf a.tag f.c runs).n ≤ s.vw.rcap →
      Completes i s f.e (vecRes base (markV f.l f.a ++ markM f.k f.b) f.d f.w (vecOf a.tag f.c runs) 0 base.seed)
    ((m.len = a.len ∨ m.len = 1) →
      let p := s.prog
      let segs := segments [a.runs, m.over a.len] (a.n + m.n + 1)
      let part := fun (l : List (List Nat × Nat)) =>
        (l.filter fun g => g.1.getD 1 0 == 1).map fun g => ({ val := g.1.getD 0 0, cnt := g.2 } : Run)
      (p.step + compressStep < segs.length → exec (.vcompress f) s = .next (s.boundary
        { p with active := true, step := p.step + compressStep, runs := p.runs ++ part ((segs.drop p.step).take compressStep) })) ∧
      (segs.length ≤ p.step + compressStep → done (.vcompress f) (p.runs ++ part (segs.drop p.step)))) ∧
    (a.len = m.ones → done (.vexpand f) (expandRuns a.runs m.runs))) ∧
  (∀ (f : VTwoX) (s : State) (a : VReg) (base : Res),
    let x := s.srcX f.b
    s.vReads [f.a] [a] base → vTag a.tag = true →
    let done := fun (i : Instr) (runs : List Run) => (vecOf a.tag f.c runs).n ≤ s.vw.rcap →
      Completes i s f.e (vecRes base (markV f.l f.a) f.d f.w (vecOf a.tag f.c runs) 0 base.seed)
    (x.toNat < 2 ^ 32 → x.toNat % 2 ^ 16 + x.toNat / 2 ^ 16 ≤ a.len →
      done (.vslice f) (sliceRuns (x.toNat % 2 ^ 16) (x.toNat / 2 ^ 16) a.runs)) ∧
    (∀ val cnt tag, x = word (val + cnt * 2 ^ 32 + tag * 2 ^ 48) → val < 2 ^ 32 → cnt < 2 ^ 16 → tag < 32 →
      (tag = 0 ∨ tag = a.tag) → val < 2 ^ tagBits a.tag → a.len + cnt ≤ 65535 →
      done (.vextend f) (a.runs ++ if cnt = 0 then [] else [{ val := val, cnt := cnt }]))) ∧
  (∀ (f : VTwo) (s : State) (a b : VReg) (base : Res), s.vReads [f.a, f.b] [a, b] base → vTag a.tag = true → a.tag = b.tag →
    a.len + b.len ≤ 65535 → (vecOf a.tag f.c (a.runs ++ b.runs)).n ≤ s.vw.rcap →
    Completes (.vcat f) s f.e
      (vecRes base (markV f.l f.a ++ markV f.k f.b) f.d f.w (vecOf a.tag f.c (a.runs ++ b.runs)) 0 base.seed)) ∧
  (∀ (f : VbcastF) (s : State) (a b : VReg) (base : Res), s.vReads [f.a, f.b] [a, b] base → vTag a.tag = true → a.runs ≠ [] →
    1 ≤ s.vw.rcap →
    Completes (.vbcast f) s f.e (vecRes base (markV f.l f.a ++ markV f.k f.b) f.d f.w
      { tag := a.tag, runs := if b.len = 0 then [] else (a.runs.take 1).map fun r => { r with cnt := b.len } } 0 base.seed)) ∧
  ∀ (f : VOne) (s : State) (a : VReg) (base : Res), s.vReads [f.a] [a] base →
    let done := fun (i : Instr) (v : VReg) => v.n ≤ s.vw.rcap →
      Completes i s f.e (vecRes base (markV f.l f.a) f.d f.w v 0 base.seed)
    (vTag a.tag = true → done (.vcoal f) (vecOf a.tag true a.runs)) ∧
    done (.viota f) { tag := 4, runs := (List.range a.len).map fun j => { val := j, cnt := 1 } }

/-- VRUNS completes with the run count of its register and VLEN with its length and tag; VMOVX into v makes the register
a valid run image describes, and into x the image of the first run; MAND, MOR, MXOR and MNOT of BIT masks complete
with the mask of their elements in maximal runs, and MPOPC with the count of ones. -/
def Obligations.VectorCountsAndMasks : Prop :=
  (∀ (f : VlenF) (s : State),
    let r := if f.b then s.srcM f.a else match f.a with
      | .reg n => s.vw.vreg n
      | .latch k => s.latchVec k
      | .queue _ => {}
    Completes (.vruns f) s f.e (toX f.d f.w (word r.runs.length)) ∧
      Completes (.vlen f) s f.e (toX f.d f.w (word (r.len + r.tag * 2 ^ 16)))) ∧
  (∀ (f : R1) (s : State) (val cnt tag : Nat), s.srcX f.a = word (val + cnt * 2 ^ 32 + tag * 2 ^ 48) → val < 2 ^ 32 →
    cnt < 2 ^ 16 → tag < 32 → vTag tag = true → val < 2 ^ tagBits tag → 1 ≤ s.vw.rcap →
    Completes (.vmovxToV f) s f.e (vecRes {} [] f.d f.w
      { tag := tag, runs := if cnt = 0 then [] else [{ val := val, cnt := cnt }] } 0 none)) ∧
  (∀ (f : R1) (s : State) (a : VReg) (base : Res), s.vReads [f.a] [a] base →
    Completes (.vmovxToX f) s f.e (toX f.d f.w (match a.runs with
      | [] => word (a.tag * 2 ^ 48)
      | r :: _ => word (r.val + r.cnt * 2 ^ 32 + a.tag * 2 ^ 48)))) ∧
  (∀ (f : RR) (s : State) (len : Nat),
    let ms := [s.srcM f.a, s.srcM f.b]
    (∀ m ∈ ms, m.tag = 11) → lenRule s.cl.pos ms = .ok len →
    let done := fun (i : Instr) (op : Nat → Nat → Bool) =>
      let v := vecOf 11 true ((segsOf len ms).map fun g => { val := b2n (op (g.1.getD 0 0) (g.1.getD 1 0)), cnt := g.2 })
      v.n ≤ s.vw.rcap → Completes i s f.e (maskRes {} [] f.d f.w v 0 none)
    done (.mand f) (fun x y => x == 1 && y == 1) ∧ done (.mor f) (fun x y => x == 1 || y == 1)
      ∧ done (.mxor f) (fun x y => x != y)) ∧
  ∀ (f : R1) (s : State), (s.srcM f.a).tag = 11 →
    (∀ len, lenRule s.cl.pos [s.srcM f.a] = .ok len →
      let v := vecOf 11 true ((segsOf len [s.srcM f.a]).map fun g => { val := b2n (g.1.getD 0 0 == 0), cnt := g.2 })
      v.n ≤ s.vw.rcap → Completes (.mnot f) s f.e (maskRes {} [] f.d f.w v 0 none)) ∧
    Completes (.mpopc f) s f.e (toX f.d f.w (word (((s.srcM f.a).runs.filter fun r => r.val == 1).map (·.cnt)).sum))

/-- With a sound operand word, an aligned offset, every byte inside the scratch of the core and no uncorrectable word
among the bytes read, which is REG_UE: VLDS completes with the packed elements in maximal runs or with the runs of a
sound run stream, VSTS and VSPILL store the register's bytes, VFILL of a sound image completes with its runs,
VGATHER with the elements at its indices, and VSCATTER stores its elements in rising order of position. The run
words they write read back as the runs they were made of. The model's own: REG_UE comes after the checks of the
operand word (notes/assumptions/66.md, DESIGN CHOICE), VGATHER.m with W = 1 takes its old elements from v0
(notes/assumptions/30.md, DEDUCED), and a value under TAG NONE has no bits (notes/assumptions/70.md, DESIGN CHOICE). -/
def Obligations.VectorScratch : Prop :=
  (∀ (w : Nat) (rs : List Run), w ≤ 32 → (∀ r ∈ rs, 1 ≤ r.cnt ∧ r.cnt < 65536 ∧ r.val < 2 ^ w) →
    runWords w (rs.flatMap fun r => bytesOf 8 (runWord r)) = some rs) ∧
  (∀ (f : VldsF) (s : State),
    let x := s.srcX f.b
    let t := scrFmt x
    scrBad x true true true = false →
    (scrRs x = false → scrOff x % elemBytes t = 0 → s.scrOut (scrOff x) (packedBytes t (scrLen x)) = false →
      ∀ c, s.scratchFlaw (scrOff x) (packedBytes t (scrLen x)) = some c → Faults (.vlds f) s c) ∧
    (scrRs x = false → scrOff x % elemBytes t = 0 → s.scrOut (scrOff x) (packedBytes t (scrLen x)) = false →
      s.scratchFlaw (scrOff x) (packedBytes t (scrLen x)) = none →
      let v := VReg.ofCodes t ((List.range (scrLen x)).map fun j => elemOf t (s.scrBytesAt (scrOff x) (packedBytes t (scrLen x))) j)
      v.n ≤ s.vw.rcap → Completes (.vlds f) s f.e (vecRes {} [] f.d f.w v 0 none)) ∧
    (∀ rs, scrRs x = true → scrOff x % 8 = 0 → 0 < runsLen rs → runsLen rs ≤ 65535 → 8 * rs.length ≤ 65536 →
      s.scrOut (scrOff x) (8 + 8 * rs.length) = false → s.scratchFlaw (scrOff x) 8 = none →
      s.scratchFlaw (scrOff x + 8) (8 * rs.length) = none →
      s.scrBytesAt (scrOff x) 8 = bytesOf 8 (runsLen rs + 8 * rs.length * 2 ^ 24) →
      runWords (tagBits t) (s.scrBytesAt (scrOff x + 8) (8 * rs.length)) = some rs →
      (vecOf t f.c rs).n ≤ s.vw.rcap → Completes (.vlds f) s f.e (vecRes {} [] f.d f.w (vecOf t f.c rs) 0 none))) ∧
  (∀ (f : VstF) (s : State) (a : VReg) (base : Res),
    let x := s.srcX f.b
    s.vReads [f.a] [a] base →
    let done := fun (i : Instr) (bs : List Byte) (rests : List Nat) =>
      Completes i s f.e { base.also (s.scrStore (scrOff x) bs ++ markV f.l f.a) with rests := rests }
    let words := a.runs.flatMap fun r => bytesOf 8 (runWord r)
    (scrBad x true false true = false → a.tag = scrFmt x → a.len ≠ 0 →
      (scrRs x = false → scrOff x % elemBytes a.tag = 0 → s.scrOut (scrOff x) (packedBytes a.tag a.len) = false →
        let bs := s.scrPacked a.tag (scrOff x) a.codes
        done (.vsts f) bs (nibbleKeys a.tag ((upTo bs.length).map fun i => scratchKey s.cur.core (scrOff x + i)))) ∧
      (scrRs x = true → scrOff x % 8 = 0 → s.scrOut (scrOff x) (8 + 8 * a.n) = false →
        done (.vsts f) (bytesOf 8 (a.len + 8 * a.n * 2 ^ 24) ++ words) [])) ∧
    (scrBad x true false true = false → a.tag = scrFmt x → a.len = 0 →
      scrOff x % (if scrRs x then 8 else elemBytes a.tag) = 0 → done (.vsts f) [] []) ∧
    (scrBad x false false false = false → scrOff x % 8 = 0 → s.scrOut (scrOff x) (8 + 8 * a.n) = false →
      done (.vspill f) (bytesOf 8 (a.len + a.n * 2 ^ 16 + a.tag * 2 ^ 32) ++ words) base.rests)) ∧
  (∀ (f : VfillF) (s : State) (tag : Nat) (rs : List Run),
    let x := s.srcX f.b
    scrBad x false false false = false → scrOff x % 8 = 0 → (tag = 0 ∨ vTag tag = true) → rs.length ≤ 8192 → runsLen rs < 65536 →
    s.scrOut (scrOff x) (8 + 8 * rs.length) = false → s.scratchFlaw (scrOff x) 8 = none →
    s.scratchFlaw (scrOff x + 8) (8 * rs.length) = none →
    s.scrBytesAt (scrOff x) 8 = bytesOf 8 (runsLen rs + rs.length * 2 ^ 16 + tag * 2 ^ 32) →
    runWords (if tag = 0 then 0 else tagBits tag) (s.scrBytesAt (scrOff x + 8) (8 * rs.length)) = some rs →
    rs.length ≤ s.vw.rcap →
    Completes (.vfill f) s f.e (vecRes {} [] f.d f.w { tag := tag, runs := rs } 0 none)) ∧
  (∀ (f : VgatherF) (s : State) (a : VReg) (base : Res) (len : Nat), s.vReads [f.a] [a] base →
    let x := s.srcX f.b
    let el : Elt := { vs := [a], old := s.vw.vreg f.d, mask := f.m, z := f.z, base := base }
    scrBad x false false true = false → a.tag = 4 → el.tagOk s.vw (scrFmt x) = true → lenRule s.cl.pos (el.ops s.vw) = .ok len →
    (∀ g ∈ segsOf len (el.ops s.vw), (f.m = 0 ∨ g.1.getLastD 0 = 1) → s.idxCheck x true (g.1.getD 0 0) = none) →
    let q := s.eltBuilt el len false fun _ _ v => (s.idxRead x (v.getD 0 0), 0)
    let v := vecOf (scrFmt x) f.c q.runs.reverse
    v.n ≤ s.vw.rcap → Completes (.vgather f) s f.e (vecRes base (markV f.l f.a) f.d f.w v 0 base.seed)) ∧
  ∀ (f : VscatterF) (s : State) (a : VReg) (base : Res) (len : Nat), s.vReads [f.a] [a] base →
    let x := s.srcX f.b
    let d := s.vw.vreg f.d
    let ops := [a, d] ++ if f.m = 0 then [] else [s.vw.mreg f.m]
    let segs := (segsOf len ops).filter fun g => f.m == 0 || g.1.getD 2 0 == 1
    scrBad x false false true = false → a.tag = 4 → d.tag = scrFmt x → (f.m ≠ 0 → (s.vw.mreg f.m).tag = 11) →
    (d.len = a.len ∨ d.len = 1) → lenRule s.cl.pos ops = .ok len → (∀ g ∈ segs, s.idxCheck x false (g.1.getD 0 0) = none) →
    let cells := segs.foldl (fun done g => s.scatter1 x done (g.1.getD 0 0) (g.1.getD 1 0)) []
    Completes (.vscatter f) s f.e { base.also ((if cells = [] then [] else [.store cells.reverse (scrOff x)]) ++ markV f.l f.a) with
      rests := nibbleKeys (scrFmt x) (cells.map (·.1)) }

/-- MSHAPE of an image that passes its checks makes a tile of zeros with the rows of the image valid, and CSHAPE an
accumulator of zeros, judged with the accumulators that earlier positions of its clause shape
(notes/assumptions/72.md, DESIGN CHOICE); MZERO clears a tile or accumulator that has a shape; MLDS and MLDS.sp of
tiles that pass their checks add a background read; MSWAP exchanges the planes; MWAIT does nothing more; MNEST
writes one word of the shadow nest; MRPT completes with one word of FOLDREP; MMODE with the old mode, writing the
low two bits, where in record mode 1 alone FIXED reads 1 and stays (notes/assumptions/46.md, DEDUCED); MTEST with
the failing, fenced and heat-skipped courses in bits 0 to 11 and every other bit 0, fencing those that fail. -/
def Obligations.MatrixStateInstructions : Prop :=
  (∀ (f : MshapeF) (s : State),
    let w := s.srcX f.a
    (tileBad w = false → Completes (.mshape f) s f.e
      { effs := [.tile f.d { shape := w, valid := BitVec.ofNat 256 (2 ^ tRows w - 1), data := [] }] }) ∧
    (tileBad w = true → Faults (.mshape f) s { code := 3, i0 := word s.cl.pos, i1 := word 5 }) ∧
    (s.accSoFar.accBad f.d w = false → Completes (.cshape f) s f.e
      { effs := [.acc f.d { tag := field w 22 18, rows := field w 8 0, cols := field w 17 9,
                            vals := List.replicate (field w 8 0 * field w 17 9) 0 }] }) ∧
    (s.accSoFar.accBad f.d w = true → Faults (.cshape f) s { code := 3, i0 := word s.cl.pos, i1 := word 6 })) ∧
  (∀ (f : Dst) (s : State),
    let c := s.vw.acc f.d
    let t := s.vw.tile f.d
    (c.tag ≠ 0 → Completes (.mzeroC f) s f.e { effs := [.acc f.d { c with vals := List.replicate (c.rows * c.cols) 0 }] }) ∧
    (tFmt t.shape ≠ 0 → Completes (.mzeroT f) s f.e { effs := [.tile f.d { t with data := [] }] })) ∧
  (∀ (f : MldsF) (s : State), mmaTag (tFmt (s.vw.tile f.a).shape) = true →
    Completes (.mlds f) s f.e { effs := [.mlds f.a none] }) ∧
  (∀ (f : MldsSpF) (s : State),
    let b := (s.vw.tile f.a).shape
    let m := (s.vw.tile f.b).shape
    mmaTag (tFmt b) = true → tFmt m = 2 → tRows m = tRows b → tElems b % 2 = 0 → tElems b ≤ 4 * tRowb m →
    Completes (.mldsSp f) s f.e { effs := [.mlds f.a (some f.b)] }) ∧
  (∀ (f : EndF) (s : State), Completes (.mswap f) s f.e { effs := [.swap] } ∧ Completes (.mwait f) s f.e {}) ∧
  (∀ (f : MnestF) (s : State), Completes (.mnest f) s f.e { effs := [.nest f.n (s.srcX f.a)] }) ∧
  (∀ (f : MrptF) (s : State), Completes (.mrpt f) s f.e (toX f.d f.w (vget s.me.mat.fold f.b 0))) ∧
  (∀ (f : R1) (s : State), s.xi.recMode ≠ 1 →
    Completes (.mmode f) s f.e
      { toX f.d f.w s.me.mat.mode with effs := (toX f.d f.w s.me.mat.mode).effs ++ [.mmode (s.srcX f.a &&& 3)] }) ∧
  (∀ (f : R1) (s : State), s.xi.recMode = 1 →
    Completes (.mmode f) s f.e
      { toX f.d f.w (s.me.mat.mode ||| 1) with
        effs := (toX f.d f.w (s.me.mat.mode ||| 1)).effs ++ [.mmode (s.srcX f.a &&& 3 ||| s.me.mat.mode &&& 1)] }) ∧
  ∀ (f : DstF) (s : State),
    let m := s.me.mat
    ∃ v : Word, Completes (.mtest f) s f.e { toX f.d f.w v with effs := (toX f.d f.w v).effs ++ [.fence4 (m.failing % 16)] } ∧
      ∀ c, c < 4 → v.getLsbD c = m.failing.testBit c ∧ v.getLsbD (4 + c) = (m.failing.testBit c || m.fenced.testBit c)
        ∧ v.getLsbD (8 + c) = m.heat.testBit c ∧ ∀ i, 12 ≤ i → v.getLsbD i = false

/-- For a non-empty set of courses and at least one block per course and pass, the fold order of nb blocks is a
permutation of 0 to nb − 1, in fixed-order mode and out of it; in fixed-order mode it does not depend on the
courses. -/
def Obligations.FoldOrderIsAPermutation : Prop :=
  ∀ (nb q mask : Nat) (fixed : Bool), 0 < q → coursesOf mask ≠ [] →
    (foldOrder nb q (coursesOf mask) fixed).Perm (List.range nb) ∧
      ∀ other, coursesOf other ≠ [] → foldOrder nb q (coursesOf mask) true = foldOrder nb q (coursesOf other) true

/-- For INT4 and INT8 operands without sparsity and without block scales, and with no wrong value in the array, the
element the machine stages is the exact integer sum of the products of its row and column, for every permutation of
the summation blocks. -/
def Obligations.IntegerProductIsExact : Prop :=
  ∀ (j : MatJob) (order : List Nat) (r n : Nat), j.cls = 2 → j.bs = false → j.plane.sparse = false →
    order.Perm (List.range j.nb) →
    let a := j.arows.getD r []
    let b := j.plane.vals.getD n []
    a.length = j.k → b.length = j.k →
    (j.element order [] r n).1.int = (List.zipWith (fun x y => intOf j.tagA x * intOf j.plane.tag y) a b).sum

/-- An MMA whose operands pass its checks, with a course to run on, does one step: before its last step it stops at the
boundary with the step's elements staged, its flags kept and the first failing element remembered; at its last it
completes, where no element has failed, with the accumulator written back, the fold report, its flags and the pops
of its source, and where one has it raises MRESIDUE. An MGO, checked once before its first step, does the same for
the images of its present iteration from the base words it began with, writes an iteration's accumulator values back
at its end, and completes after the last iteration with the nest made active. -/
def Obligations.MatrixProducts : Prop :=
  (∀ (f : MmaF) (s : State) (a : OpA) (pop : List Eff) (fl : Word),
    ((∃ n, f.a = .reg n ∧ a = opTile (s.vw.tile n).shape (s.vw.tile n).valid (s.vw.tile n).data ∧ pop = [] ∧ fl = 0) ∨
      ∃ n u, f.a = .queue n ∧ s.popUnit n (s.poppedHere n) = .ok (some u) ∧ a = opUnit u ∧ pop = [.qpop n] ∧ fl = u.flags) →
    s.mmaCheck a (s.vw.acc f.d) (s.srcX f.b) f.s f.p = none →
    let st := (s.courseStart false).2
    let p0 := (s.courseStart false).1
    let cs := coursesOf p0.courses
    let p := if p0.step == 0 then { p0 with mask := rowMask (jobOf a s.me.mat.active f.s (s.srcX f.b)).live } else p0
    let j := { jobOf a s.me.mat.active f.s (s.srcX f.b) with live := (List.range a.rows).map fun r => p.mask.getLsbD r }
    let order := foldOrder j.nb j.q cs st.foldFixed
    let x := j.doStep order st.me.mat.glitch p.step
    let q := { p with step := p.step + 1, staged := p.staged ++ [x.1], flags := p.flags ||| x.2.1, bad := j.failed cs p.bad x.2.2 }
    let u := st.onMe fun c => { c with mat := { c.mat with
      glitch := st.me.mat.glitch.filter fun g => !(j.places p.step).contains (g.row, g.col) } }
    cs ≠ [] →
    (p.step + 1 < j.steps → exec (.mma f) s = .next (u.boundary q)) ∧
    (j.steps ≤ p.step + 1 → ∀ b, q.bad = some b → exec (.mma f) s = .next (u.residueTrap f.e b)) ∧
    (j.steps ≤ p.step + 1 → q.bad = none →
      let c := u.vw.acc f.d
      let w := j.writeBack (wbit u.me.mat.mode 1) q.staged c.cols 0 0 c.vals u.rnd
      exec (.mma f) s = .next ((u.setProg q).finish f.e (.done
        { effs := [.acc f.d { c with vals := w.vals },
                   .fold (foldReport order j.nb (foldPasses j.nb j.q cs) q.courses st.foldFixed q.mixed f.p)] ++ pop
          flags := q.flags ||| w.flags ||| fl, seed := w.rnd.out })))) ∧
  ∀ (f : MgoF) (s : State),
    let t := s.me.mat.nestShadow.toList
    (s.prog.active = false → s.mgoCheck f t = none) →
    let st := (s.courseStart (s.prog.step == 0)).2
    let p0 := (s.courseStart (s.prog.step == 0)).1
    let cs := coursesOf p0.courses
    let a := st.vw.tile f.a
    let c := st.vw.acc f.d
    let first := p0.iter == 0 && p0.step == 0
    let words := if first then [st.vw.xreg f.b, st.vw.xreg (f.b + 1)] else p0.words
    let x := words.getD 0 0
    let ix := nestIdx t p0.iter
    let aoff := ((baseA x : Int) + 64 * nestSum t ix lvA).toNat
    let boff := (baseB x : Int) + 64 * nestSum t ix lvB
    let p1 := if first then { p0 with words := words, accs := c.vals, seed := st.rnd.seed, mask := a.valid } else p0
    let loads := p1.step == 0 && (p1.iter == 0 || p1.boff != boff)
    let p := if loads then { p1 with boff := boff, work := st.loadB st.me.mat.active boff.toNat } else p1
    let j := jobOf (opTile a.shape p.mask (st.scrUnit aoff (tBytes a.shape))) p.work f.s (words.getD 1 0)
    let order := foldOrder j.nb j.q cs st.foldFixed
    let y := j.doStep order st.me.mat.glitch p.step
    let q := { p with step := p.step + 1, staged := p.staged ++ [y.1], flags := p.flags ||| y.2.1, bad := j.failed cs p.bad y.2.2 }
    let z := st.onMe fun c => { c with mat := { c.mat with
      glitch := st.me.mat.glitch.filter fun g => !(j.places p.step).contains (g.row, g.col) } }
    cs ≠ [] → st.scratchFlaw aoff (tBytes a.shape) = none →
    (loads = true → st.scratchFlaw boff.toNat st.me.mat.active.bytes = none) →
    (p.step + 1 < j.steps → exec (.mgo f) s = .next (z.boundary q)) ∧
    (j.steps ≤ p.step + 1 → ∀ b, q.bad = some b → exec (.mgo f) s = .next (z.residueTrap f.e b)) ∧
    (j.steps ≤ p.step + 1 → q.bad = none →
      let w := j.writeBack (wbit z.me.mat.mode 1) q.staged c.cols (nestSum t ix fun w => lvCr w).toNat
        (nestSum t ix fun w => lvCc w).toNat q.accs { z.rnd with seed := q.seed }
      let u := { q with step := 0, iter := q.iter + 1, staged := [], flags := q.flags ||| w.flags, seed := w.rnd.seed, accs := w.vals }
      (u.iter < nestRuns t → exec (.mgo f) s = .next (z.boundary u)) ∧
      (nestRuns t ≤ u.iter → exec (.mgo f) s = .next ((z.setProg u).finish f.e (.done
        { effs := [.nestGo, .acc f.d { c with vals := u.accs },
                   .fold (foldReport order j.nb (foldPasses j.nb j.q cs) u.courses st.foldFixed u.mixed f.p)]
          flags := u.flags, seed := w.rnd.out }))))

/-- MACC.cvt and MACC.relu of an accumulator into an unscaled tile of its shape and kind, other shapes being FORMAT code
8, complete with every row valid and the converted elements in the tile; MACC.add with the sums, element by element,
of two accumulators of one shape and format; MACC.scl with the products of an FP32 accumulator and a scalar; MACC.ld
with the tile's elements widened. -/
def Obligations.AccumulatorEpilogues : Prop :=
  (∀ (f : MaccF) (s : State),
    let t := s.vw.tile f.d
    let w := t.shape
    let c := s.vw.acc f.a
    (c.tag ≠ 0 → tRows w ≠ c.rows ∨ tElems w ≠ c.cols ∨ tBlk w ≠ 0 → ∀ i ∈ [Instr.maccCvt f, Instr.maccRelu f],
      Faults i s { code := 3, i0 := word s.cl.pos, i1 := word 8 }) ∧
    (c.tag ≠ 0 → tRows w = c.rows → tElems w = c.cols → tBlk w = 0 → isIntTag (tFmt w) = (c.tag == 4) →
    let done := fun (i : Instr) (o : Wrote) => Completes i s f.e
      { effs := [.tile f.d { t with valid := BitVec.ofNat 256 (2 ^ c.rows - 1),
                                    data := (o.vals.zipIdx).foldl (fun m x => tPut w m (x.2 / c.cols) (x.2 % c.cols) x.1) t.data }]
        flags := o.flags, seed := if c.tag == 4 then none else o.rnd.out }
    let els := c.vals.map fun x => (x, 0)
    (c.tag = 4 →
      done (.maccCvt f) (Wrote.map { rnd := s.rnd } false (fun _ _ x _ => satInt (tagBits (tFmt w)) (signed 32 x)) els) ∧
      done (.maccRelu f) (Wrote.map { rnd := s.rnd } false (fun _ _ x _ => satInt (tagBits (tFmt w)) (max 0 (signed 32 x))) els)) ∧
    (c.tag ≠ 4 →
      done (.maccCvt f) (Wrote.map { rnd := s.rnd } true (fun m ftz x _ => cvtAcc false (tFmt w) m ftz x) els) ∧
      done (.maccRelu f) (Wrote.map { rnd := s.rnd } true (fun m ftz x _ => cvtAcc true (tFmt w) m ftz x) els)))) ∧
  (∀ (f : MaccF) (s : State),
    let c := s.vw.acc f.d
    let a := s.vw.acc f.a
    c.tag ≠ 0 → c.rows = a.rows → c.cols = a.cols → c.tag = a.tag →
    let done := fun (o : Wrote) => Completes (.maccAdd f) s f.e
      { effs := [.acc f.d { c with vals := o.vals }], flags := o.flags, seed := if c.tag == 4 then none else o.rnd.out }
    (c.tag = 4 → done (Wrote.map { rnd := s.rnd } false (fun _ _ x y =>
      if s.me.mat.mode.getLsbD 1 then satInt 32 (signed 32 x + signed 32 y) else (toCode 32 (signed 32 x + signed 32 y), 0))
      (c.vals.zip a.vals))) ∧
    (c.tag ≠ 4 → done (Wrote.map { rnd := s.rnd } true (fun m ftz x y =>
      roundTo 10 m ftz ((fmtFP32.decode x).add (m == .down) (fmtFP32.decode y))) (c.vals.zip a.vals)))) ∧
  (∀ (f : SlotSrc) (s : State),
    let c := s.vw.acc f.d
    let a := s.vw.acc f.a
    let k := s.srcX f.b
    c.tag = 10 → a.tag = 10 → c.rows = a.rows → c.cols = a.cols → k.toNat < 2 ^ 32 →
    let o := Wrote.map { rnd := s.rnd } true (fun m ftz x _ =>
      roundTo 10 m ftz ((fmtFP32.decode x).mul (fmtFP32.decode k.toNat))) (a.vals.map fun x => (x, 0))
    Completes (.maccScl f) s f.e { effs := [.acc f.d { c with vals := o.vals }], flags := o.flags, seed := o.rnd.out }) ∧
  ∀ (f : MaccF) (s : State),
    let c := s.vw.acc f.d
    let t := s.vw.tile f.a
    let w := t.shape
    tFmt w ≠ 0 → c.tag ≠ 0 → tRows w = c.rows → tElems w = c.cols → isIntTag (tFmt w) = (c.tag == 4) →
    let qs := ((List.range c.rows).flatMap fun r => tRow w t.data r).map (widen (tFmt w))
    Completes (.maccLd f) s f.e
      { effs := [.acc f.d { c with vals := qs.map (·.1) }], flags := qs.foldl (fun a q => a ||| q.2) 0 }

/-- ACT of a precharged bank on a row inside a window opens it with its timing; an open bank ends the instance with
status 5 and a row outside every window with status 4. REF of a precharged bank refreshes it. REF of a bank past its
deadline leaves the forced refresh due. RD of an open bank puts its row in flight for 24 cycles, once an earlier
writer of W has finished (read out of R249: notes/assumptions/62.md, DEDUCED), and WR of an open row inside a
writable window writes the 256 columns of its source, for others from the next boundary on. PRE and PRE.all close
their banks and ROWEND closes none; each is a row boundary. -/
def Obligations.EngineRowCommands : Prop :=
  (∀ (k r : Nat) (i : Bool) (s : State),
    let e := s.eng
    let t := max e.now (max (e.bank k).nextAct (e.free (useE r)))
    let row := (e.ereg r).toNat
    s.Issues t → k < 4 →
    ((e.bank k).row = none → row < 2 ^ 16 → e.window k row false false = true → s.follows →
      exec (.act k r i) s = .next ((s.landed t).onEng fun e =>
        let e := e.setBank k { e.bank k with row := some row, nextCol := t + 17, nextPre := t + 40, nextAct := t + 57 }
        if i then e.setE r (e.ereg r + 1) else e).engAfter) ∧
    ((e.bank k).row ≠ none → exec (.act k r i) s = .next ((s.landed t).engEnd s.cur.eng 5 0 0 k)) ∧
    ((e.bank k).row = none → row < 2 ^ 16 → e.window k row false false = false →
      exec (.act k r i) s = .next ((s.landed t).engEnd s.cur.eng 4 row 0 k))) ∧
  (∀ (k : Nat) (s : State),
    let e := s.eng
    let t := max e.now (max (e.bank k).nextRef (e.bank k).nextAct)
    s.Issues t → k < 4 → (e.bank k).row = none → s.follows →
    exec (.ref k) s = .next ((s.landed t).onEng fun e =>
      e.setBank k { e.bank k with
        lastRef := t, nextAct := t + 180, nextRef := t + 180,
        missed := (e.bank k).missed || decide ((e.bank k).lastRef + 4680 < t) }).engAfter) ∧
  (∀ (k row : Nat) (s : State),
    let e := s.eng
    let t := max e.now (max (e.free useW) (max (e.bank k).nextCol e.busFree))
    let loc := rowLoc s.cur.eng k row
    s.Issues t → k < 4 → (e.bank k).row = some row → s.follows →
    exec (.rd k) s = .next ((s.landed t).onEng fun e =>
      { (e.setBank k { e.bank k with nextPre := max (e.bank k).nextPre (t + 16) }) with
        busFree := t + 16
        lands := e.lands ++ [{ at_ := t + 24, bank := k, row := row, data := colsOf ((s.landed t).engBytes s.cur.eng loc),
                               ue := s.rowUe s.cur.eng loc }] }).engAfter) ∧
  (∀ (k src row : Nat) (s : State),
    let e := s.eng
    let t := max e.now (max (e.free (useSrc src)) (max (e.bank k).nextCol e.busFree))
    s.Issues t → k < 4 → (e.bank k).row = some row →
    (e.window k row true false = true → s.follows →
      exec (.wr k src) s = .next ((((s.landed t).engWrite s.cur.eng
          (rowCells (rowLoc s.cur.eng k row) ((s.landed t).eng.src src))).onEng fun e =>
        { (e.setBank k { e.bank k with nextPre := max (e.bank k).nextPre (t + 28) }) with busFree := t + 16 }).engAfter)) ∧
    (e.window k row true false = false → exec (.wr k src) s = .next ((s.landed t).engEnd s.cur.eng 4 row 0 k))) ∧
  ∀ (s : State),
    let e := s.eng
    let pre := fun (banks : List Nat) =>
      banks.foldl (fun a b => if (e.bank b).row.isSome then max a (e.bank b).nextPre else a) 0
    let shut := fun (banks : List Nat) =>
      s.onEng fun e => banks.foldl (fun e b => e.close (max s.eng.now (pre banks)) b) e
    (∀ k, k < 4 → s.Bounds (pre [k]) → s.follows →
      exec (.pre k) s = .next ((shut [k]).bounded (max e.now (pre [k]))).engAfter) ∧
    (s.Bounds (pre [0, 1, 2, 3]) → s.follows →
      exec .preAll s = .next ((shut [0, 1, 2, 3]).bounded (max e.now (pre [0, 1, 2, 3]))).engAfter) ∧
    (s.Bounds 0 → s.follows → exec .rowend s = .next (s.bounded 0).engAfter)

/-- CMP, AWR, TTP, TTP.t, TAND, TOR, TNOT, TCNT, SETK, SETM, MOVI, MOVI.add, MOVI.sh, VLDE, MV, SADD, RED.add, RED.max,
RED.sum, ACCZ, ACCZ.w and ACCST issue when the registers they use are free, change the registers of their rows,
occupy the datapath for their cycles, and go on to the next word; a row that lands with an uncorrectable error
before a one-cycle word ends the instance with status 6, and where the row interval has passed with something
waiting a boundary comes first. -/
def Obligations.EngineDatapath : Prop :=
  (∀ (s : State) (x d r i : Nat) (n : Bool),
    EngineOne (.tand x n) s (useW + useT) (fun e => { e with tags := tagsOf fun j => e.tags.getLsbD j && ((col e.w j).testBit x != n) }) ∧
    EngineOne (.tor x n) s (useW + useT) (fun e => { e with tags := tagsOf fun j => e.tags.getLsbD j || ((col e.w j).testBit x != n) }) ∧
    EngineOne .tnot s useT (fun e => { e with tags := ~~~e.tags }) ∧
    EngineOne (.tcnt d) s (useT + useE d) (fun e =>
      e.setE d (word ((List.range 256).countP fun j => e.tags.getLsbD j))) ∧
    EngineOne (.setk r) s (useE r) (fun e => { e with key := (e.ereg r).toNat % 2 ^ 32 }) ∧
    EngineOne (.setm r) s (useE r) (fun e => { e with mask := (e.ereg r).toNat % 2 ^ 32 }) ∧
    (i < 2 ^ 21 →
      let v : Word := BitVec.ofInt 64 (if i < 2 ^ 20 then (i : Int) else (i : Int) - 2 ^ 21)
      EngineOne (.movi d i) s (useE d) (fun e => e.setE d v) ∧
      EngineOne (.moviAdd d i) s (useE d) (fun e => e.setE d (e.ereg d + v)) ∧
      EngineOne (.moviSh d i) s (useE d) (fun e => e.setE d (word ((e.ereg d).toNat * 2 ^ 21 + i))))) ∧
  (∀ (s : State) (o src x y z t d : Nat) (n : Bool),
    (o < 3 → EngineData (.cmp o src n) s 16 useT (fun e =>
      let hit := fun i => (((col (e.src src) i ^^^ e.key) &&& e.mask) == 0) != n
      ({ e with tags := tagsOf fun i =>
          if o = 0 then hit i else if o = 1 then e.tags.getLsbD i && hit i else e.tags.getLsbD i || hit i }, 0))) ∧
    EngineData (.awr d) s 16 (useSrc d) (fun e =>
      (e.setSrc d ((e.src d).zipIdx.map fun x =>
        if e.tags.getLsbD x.2 then (x.1 &&& (2 ^ 32 - 1 - e.mask % 2 ^ 32)) ||| (e.key &&& e.mask) else x.1), 0)) ∧
    EngineData (.ttp x y z t) s 16 useW (fun e =>
      ({ e with w := (List.range 256).map fun i => putBit (col e.w i) z (ttBit e x y t i) }, 0)) ∧
    EngineData (.ttpT x y t) s 16 useT (fun e => ({ e with tags := tagsOf fun i => ttBit e x y t i }, 0))) ∧
  ∀ (s : State) (a f l o j r d : Nat) (i : Bool),
    EngineData (.vlde f o) s 16 useVV (fun e =>
      let t := engFmt f
      let xs := (List.range 256).map fun j => if o + j < 8192 / tagBits t then widen32 t (rowElem e.w t (o + j)) else (0, 0)
      ({ e with vv := xs.map (·.1) }, xs.foldl (fun a x => a ||| x.2) 0)) ∧
    EngineData (.mv a f l) s (if f = 0 then 32 else 16) (useBa a) (fun e =>
      let t := engFmt f
      let q := lanes ((List.range 256).map fun i =>
        if i < 8192 / tagBits t / 2 ^ l then mvLane e t (2 ^ l) i (col (e.src (a + 1)) i) else (col (e.src (a + 1)) i, 0))
      (e.setSrc (a + 1) q.1, q.2)) ∧
    EngineData (.sadd a j i) s 16 (useBa a + if i then useE j else 0) (fun e =>
      let k := fmtFP32.decode (col e.vv ((e.ereg j).toNat % 256))
      let q := lanes ((List.range 256).map fun i =>
        lane (k.fma false (fmtFP32.decode (col e.w i)) (fmtFP32.decode (col (e.src (a + 1)) i))))
      let u := e.setSrc (a + 1) q.1
      (if i then u.setE j (u.ereg j + 1) else u, q.2)) ∧
    EngineData (.redAdd d r) s 16 (useBa d) (fun e =>
      redBa e d r fun x y => lane ((fmtFP32.decode x).add false (fmtFP32.decode y))) ∧
    EngineData (.redMax d r) s 16 (useBa d) (fun e => redBa e d r (pick true 10)) ∧
    EngineData (.redSum a r) s 24 (useE r) (fun e =>
      let q := ((e.src (a + 1)).drop 1).foldl (fun (st : Nat × Word) x =>
        let v := lane ((fmtFP32.decode st.1).add false (fmtFP32.decode x))
        (v.1, st.2 ||| v.2)) (widen32 10 (col (e.src (a + 1)) 0))
      (e.setE r (word q.1), q.2)) ∧
    EngineData (.accz a) s 16 (useBa a) (fun e => (e.setSrc (a + 1) (List.replicate 256 0), 0)) ∧
    EngineData (.acczW a) s 16 (useBa a) (fun e => (e.setSrc (a + 1) (e.src 0), 0)) ∧
    EngineData (.accst a 0) s 16 useW (fun e => ({ e with w := e.src (a + 1) }, 0)) ∧
    (0 < f → EngineData (.accst a f) s 16 useW (fun e =>
      let q := lanes ((e.src (a + 1)).map fun x =>
        let r := (tagFmt (accTag f)).round .nearest false (fmtFP32.decode x)
        (r.1, r.2 ||| if (fmtFP32.decode x).isSig then fINV else 0))
      let w := colsOf (q.1.flatMap (bytesOf (tagBits (accTag f) / 8)))
      ({ e with w := w ++ List.replicate (256 - w.length) 0 }, q.2)))

/-- With no uncorrectable row about to land: MCAST of a row inside a window writes it on its own engine, sends it in
requests of 256 bytes to the others of its via group, and stalls at a boundary until none is outstanding, its bank
being busy for 17 + 28 + 17 cycles (an inference: notes/assumptions/67.md, DEDUCED); BGCOPY at supervisor level
copies a row; NADDX applies what is queued and due, and gives the count; SIG performs its writes and posts its add,
which releases them; WAITS goes on, acquiring at its scope, once the semaphore has reached its value, stalls before,
and takes its place in the queue of another bank group whose engine runs; JMP, BNZ and LOOP set MPC and the loops, a
LOOP of count 0 and a redirection taken at a body's last word skipping the loop-back (notes/assumptions/36.md,
DESIGN CHOICE); HALT ends the instance, with DONE for code 0 and with the code otherwise, or with MEM_UE where an
add of its own failed; a word no row assigns ends it with status 2. -/
def Obligations.EngineRowsAndControl : Prop :=
  (∀ (k src r : Nat) (s : State),
    let e := s.eng
    let n := s.cur.eng
    let row := (e.ereg r).toNat
    let t := max e.now (max (e.bank k).nextAct (e.free (useSrc src + useE r)))
    (∀ l ∈ e.lands, l.ue = none) → k < 4 → s.follows →
    let go := fun (s : State) => exec (.mcast k src r) s
    (e.stalled = true → go s = .next (if (s.bounded 0).casting n then (s.bounded 0).onEng fun e => { e with stalled := true }
      else ((s.bounded 0).onEng fun e => { e with stalled := false }).engAfter)) ∧
    (e.stalled = false → e.overdue t = false → row < 2 ^ 16 → e.window k row true true = true → (e.bank k).row = none →
      let l := (s.landed t).eng.src src
      let u := ((s.landed t).engWrite n (rowCells (rowLoc n k row) l)).onEng fun e =>
        e.setBank k { e.bank k with nextAct := t + 62 }
      let v := (((viaGroup n).filter (· != n)).foldl (fun s g => (cellBlocks 256 (rowCells (rowLoc g k row) l)).foldl (fun s b =>
        s.post g { cells := b, owner := n, inst := e.inst }) s) u).onEng fun e => { e with stalled := true }
      go s = .next (if (v.bounded 0).casting n then (v.bounded 0).onEng fun e => { e with stalled := true }
        else ((v.bounded 0).onEng fun e => { e with stalled := false }).engAfter))) ∧
  (∀ (sb re db rd : Nat) (s : State),
    let e := s.eng
    let a := (e.ereg re).toNat
    let b := (e.ereg rd).toNat
    let t := max e.now (max (e.free (useE re ||| useE rd)) (max (e.bank sb).nextAct (e.bank db).nextAct))
    (e.sup = false → s.Issues e.now →
      exec (.bgcopy sb re db rd) s = .next ((s.landed e.now).engEnd s.cur.eng 3 0 0 0)) ∧
    (e.sup = true → s.Issues t → sb < 4 → db < 4 → (e.bank sb).row = none → (e.bank db).row = none →
      a < 2 ^ 16 → b < 2 ^ 16 → e.window sb a false false = true → e.window db b true false = true →
      s.rowUe s.cur.eng (rowLoc s.cur.eng sb a) = none → s.follows →
      let busy := fun (k : Nat) (e : Engine) =>
        e.setBank k { e.bank k with nextAct := t + 146, nextRef := max (e.bank k).nextRef (t + 146) }
      exec (.bgcopy sb re db rd) s = .next ((((s.landed t).engWrite s.cur.eng
        (cellsAt (rowLoc s.cur.eng db b) ((s.landed t).engBytes s.cur.eng (rowLoc s.cur.eng sb a)))).onEng fun e => busy db (busy sb e)).engAfter))) ∧
  (∀ (d : Nat) (s : State),
    let ready := s.eng.free (useE d)
    let n := s.eng.adds.length
    let u := ((s.bounded ready).drainAdds s.cur.eng n).flushHeld s.cur.eng
    s.Bounds ready → s.follows →
    exec (.naddx d) s = .next (u.2.onEng fun e => e.setE d (word (n - u.2.eng.adds.length + u.1))).engAfter) ∧
  (∀ (l c v key : Nat) (s : State),
    let t := max s.eng.now (s.eng.free (useE v))
    let u := ((s.landed t).flushWr s.cur.eng).onEng fun e => { e with posted := e.posted + 1 }
    let r : Req := { isAdd := true, key := key, value := (u.eng.ereg v).toNat, owner := s.cur.eng, inst := u.eng.inst, slot := l,
                     rels := [{ by_ := engineAgent s.cur.eng, scope := c, view := u.eng.view }] }
    s.Issues t → vget s.eng.sems l none = some key → s.follows →
    exec (.sig l c v) s = .next (if isHbm key then u.post (engineOf key) r else u.doReq r).engAfter) ∧
  (∀ (l c v key : Nat) (s : State),
    let ready := s.eng.free (useE v)
    let u := s.bounded ready
    s.Bounds ready → vget s.eng.sems l none = some key → s.follows →
    u.ueAt key 8 = false → u.refuses u.eng.asid key = false →
    exec (.waits l c v) s = .next (
      if u.owned key || u.addBefore key 8 then (u.want key).onEng fun e => { e with stalled := true }
      else if ofBytes (u.mem.bytes key 8) < (u.eng.ereg v).toNat then u.onEng fun e => { e with stalled := true }
      else ((u.engAcquire s.cur.eng c (relsIn u.hist ((upTo 8).map (key + ·)))).onEng fun e => { e with stalled := false }).engAfter)) ∧
  (∀ (t r : Nat) (d : Bool) (s : State),
    let now := max s.eng.now (s.eng.free (useE r))
    let v := if d then s.eng.ereg r - 1 else s.eng.ereg r
    let u := (s.landed now).onEng fun e => if d then e.setE r v else e
    (s.Issues s.eng.now → exec (.idmasJmp t) s = .next ((s.landed s.eng.now).onEng fun e =>
      { e with mpc := t, loops := leaveLoops (word t) e.loops })) ∧
    (s.Issues now → r < 8 →
      (v ≠ 0 → exec (.bnz r d t) s = .next (u.onEng fun e => { e with mpc := t, loops := leaveLoops (word t) e.loops })) ∧
      (v = 0 → s.follows → exec (.bnz r d t) s = .next u.engAfter))) ∧
  (∀ (n c r l : Nat) (s : State),
    let stop := s.eng.mpc + 2 + l
    (∀ x ∈ s.eng.loops, x.n ≠ n ∧ stop ≤ x.stop.toNat ∧ x.start.toNat ≤ s.eng.mpc + 1) → stop ≤ 4095 →
    let goes := fun (i : Instr) (t count : Nat) => s.Issues t → count < 2 ^ 32 →
      exec i s = .next ((s.landed t).onEng fun e => if count = 0 then { e with mpc := stop } else
        { e with mpc := e.mpc + 1, loops := { n := n, count := count, start := word (e.mpc + 1), stop := word stop } :: e.loops })
    goes (.idmasLoop n c l) s.eng.now c ∧
      goes (.idmasLoopReg n r l) (max s.eng.now (s.eng.free (useE r))) (s.eng.ereg r).toNat) ∧
  ∀ (c : Nat) (s : State),
    let ready := s.eng.banks.toList.foldl (fun a b => if b.row.isSome then max a b.nextPre else a) 0
    let u := s.bounded ready
    (s.Bounds ready →
      (∀ l, u.eng.semBad = some l → exec (.halt c) s = .next (u.engEnd s.cur.eng 6 0xFFFF 0xFE l)) ∧
      (u.eng.semBad = none → u.eng.posted ≠ 0 → exec (.halt c) s = .next (u.onEng fun e => { e with stalled := true })) ∧
      (u.eng.semBad = none → u.eng.posted = 0 → exec (.halt c) s = .next (if c = 0 then u.engEnd s.cur.eng 0 0 0 0 else u.engEnd s.cur.eng 1 0 c 0))) ∧
    (s.Issues s.eng.now → exec .unassignedEngineWord s = .next ((s.landed s.eng.now).engEnd s.cur.eng 2 0 0 0))

/-- Where its condition holds, each event of a core (WFE_TIMEOUT, STREAM_FETCH, TRANSFER_COMPLETE, COPY_FAULT,
MLDS_READ_DONE, COURSE_SELF_TEST, TOKEN, NPR_OVERRUN, HANDLER_LIMIT_EXPIRY, TRAP_ENTRY, SRB_EVICTION and the two
faults of a clause that could not be fetched or decoded), of an engine (ENGINE_INSTANCE_START, ENGINE_STOP,
RD_LANDING, REFRESH_DEADLINE, ROW_INTERVAL_EXPIRY, MAIN_DIE_REQUEST, ARBITRATION_WINDOW, NEAR_MEMORY_ADD_ACCEPT,
DET_FLUSH, WAITS_REREAD) and of a pseudo-channel (PSEUDO_CHANNEL_RETIRE, MIGRATION_ROW_COPY, PSEUDO_CHANNEL_LOSS)
gives the state of its rule; an access to a row that a migration is copying waits, and its request moves the rows.
The model's own: an instance of a pseudo-channel that is not LIVE ends as stopped (notes/assumptions/36.md, DESIGN
CHOICE), the wrong values that COURSE_SELF_TEST announces (notes/assumptions/55.md, DEDUCED), the timing of a window
(notes/assumptions/67.md, DEDUCED) and the places that accesses take in it (notes/assumptions/43.md, DEDUCED). -/
def Obligations.CoreAndEngineEvents : Prop :=
  (∀ s : State, exec .wfeTimeout s = .next { s with watch := Tab.erase s.watch (4 * s.cur.core + s.inp.ident % 4) }) ∧
  (∀ (s : State) (x : QUnit),
    let n := s.inp.ident
    let q := s.me.qreg n
    let u := q.popped + q.units.length
    s.me.running = true → q.bound = true → u < q.total → (∀ y ∈ q.units, y.fault = none) →
    s.fetchUnit { s.who s.cur.core with super := q.sup, agent := fetchAgent s.cur.core n } q u = .ok x →
    exec .streamFetch s = .next (s.onMe fun c => c.setQ n { q with units := q.units ++ [x] })) ∧
  (∀ (s t : State) (x : Transfer),
    let h := s.me.chan s.inp.chan
    s.me.running = true → h.behind s.inp.ident = false → (h.queue.find? fun t => t.ident == s.inp.ident) = some x →
    (s.drive s.cur.core s.inp.chan s.inp.ident (if s.inp.value = 0 then x.steps - x.prog + 1 else s.inp.value) = .moved t →
      exec .transferComplete s = .next t) ∧
    (∀ e, s.copyStep s.cur.core x = .error (.cause e) → s.copiesOwned s.cur.core = none →
      exec .copyFault s = .next (s.suspendChan s.cur.core s.inp.chan x.ident (copyCause e s.inp.chan x.ident)))) ∧
  (∀ (s : State) (tb : Nat) (tm : Option Nat) (r : List (Nat × Option Nat)), s.me.mat.pending = (tb, tm) :: r →
    ∃ l, exec .mldsReadDone s = .next ({ s with flaws := l }.onMe fun c => { c with mat := { c.mat with
      shadow := { c with regs := c.regsFor .m s.free }.capture tb tm, pending := r } })) ∧
  (∀ s : State, s.inp.ident < 4 → s.inp.value.testBit s.inp.ident = true →
    (s.me.running = false ∨ (s.me.sm.clause.live = false ∧ s.me.sm.prog.active = false)) →
    exec .courseSelfTest s = .next ((s.onMe fun c =>
      { c with mat := { c.mat with failing := s.inp.value % 16, glitch := glitchesOf s.inp.nums } }).fenceCourses s.cur.core (2 ^ s.inp.ident))) ∧
  (∀ s : State, s.me.running = true →
    (s.me.ss.tokenStall = true → s.me.sa.tokenStall = true → s.me.sv.tokenStall = true → s.me.sm.tokenStall = true →
      exec .token s = .next (s.onMe fun c => c.pend { code := 16, i0 := nibbles c.tok.count, i1 := nibbles c.tok.held })) ∧
    (s.me.np = true → s.me.trap.super = false →
      exec .nprOverrun s = .next (s.onMe fun c => { c with np := false, npCycles := 0 }.pend { code := 17, i0 := s.me.npPc })) ∧
    (s.me.trap.super = true → exec .handlerLimitExpiry s = .next (s.doubleFault s.cur.core 17)) ∧
    (s.me.trap.super = false → s.me.trap.faults = [] → s.me.trap.pending ≠ [] → ∃ a ∈ s.me.trap.pending, (∀ b ∈ s.me.trap.pending, a.code ≤ b.code) ∧
      ∃ k, exec .trapEntry s = .next (((({ s with free := s.free + 1 } : State).onMe fun c =>
        { c with trap := { c.trap with pending := c.trap.pending.erase a } }).trapEnter s.cur.core k a true 0 0).keep false))) ∧
  (∀ s : State, exec .srbEviction s = .next (s.dropLines s.inp.code fun k => k == s.inp.addr / 256 * 256)) ∧
  (∀ (s : State) (pos : Nat) (c : Cause), s.cl.bad = some (pos, c) →
    exec .unassignedStreamWord s = .next (s.faultAt pos c) ∧ exec .instructionFetchFault s = .next (s.faultAt pos c)) ∧
  (∀ (s : State) (x : EngInst) (g : Graph), s.eng.running = false → s.ks.halted = false →
    s.dev.dieHold.testBit (s.cur.eng / 256) = false → s.nextInst s.cur.eng = some x → s.graph x.asid x.lrec = some g →
    ((g.nst x.node).stopped = true ∨ s.engLive s.cur.eng = false → exec .engineInstanceStart s = .next (s.refuseInst x)) ∧
    ((g.nst x.node).stopped = false → s.engLive s.cur.eng = true → (s.ctx x.asid).held ≠ 0 →
      exec .engineInstanceStart s = .next s) ∧
    ((g.nst x.node).stopped = false → s.engLive s.cur.eng = true → (s.ctx x.asid).held = 0 →
      let v : State := { s with ks := { s.ks with engQ := s.ks.engQ.filter (· != x) } }
      exec .engineInstanceStart s = .next ((v.onEng fun e =>
        { (e.start x s.cur.eng (g.node x.node) (g.code.getD x.node []) (g.sems.getD x.node [])).margin 8 with
          sight := Sight.after v v.floor }).engAcquire s.cur.eng 7 ((g.into x.node).flatMap fun d => (g.nst (edgeSrc d.entry)).rels)))) ∧
  (∀ s : State, s.eng.running = true →
    (s.inp.flag = true → exec .engineStop s = .next (s.engEnd s.cur.eng 6 0xFFFF 0xFF 0)) ∧
    (∀ l, s.inp.flag = false → s.eng.semBad = some l → exec .engineStop s = .next (s.engEnd s.cur.eng 6 0xFFFF 0xFE l)) ∧
    (∀ g, s.inp.flag = false → s.eng.semBad = none → s.graph s.eng.asid s.eng.lrec = some g → (g.nst s.eng.node).stopped = true →
      exec .engineStop s = .next (s.engEnd s.cur.eng 8 0 0 0)) ∧
    (s.eng.badLanding s.eng.now = none →
      exec .rdLanding s = .next (s.onEng fun e => { (e.landTo e.now) with now := e.now })) ∧
    (∀ r c b, s.eng.badLanding s.eng.now = some (r, c, b) → exec .rdLanding s = .next (s.engEnd s.cur.eng 6 r c b)) ∧
    (s.eng.stalled = true → s.inp.ident < 4 →
      let u := s.onEng Engine.resume
      let t := max u.eng.now ((u.eng.bank s.inp.ident).lastRef + 4681)
      exec .refreshDeadline s = .next ((u.onEng fun e => { e with now := t, boundAt := t }.openWin t).window s.cur.eng)) ∧
    (let i := max s.eng.now (s.eng.lastBound + s.eng.interval)
     let t := max i s.eng.quiet
     (s.eng.overdue s.eng.now = false → exec .rowIntervalExpiry s = .next s) ∧
     (s.eng.overdue s.eng.now = true → s.eng.badLanding t = none →
       exec .rowIntervalExpiry s = .next ((s.onEng fun e => { e with rowOvr := true }).engBoundary s.cur.eng (i - 1) t)) ∧
     (∀ r c b, s.eng.overdue s.eng.now = true → s.eng.badLanding t = some (r, c, b) →
       exec .rowIntervalExpiry s = .next (s.engEnd s.cur.eng 6 r c b))) ∧
    (s.eng.atBound = true → ((∃ x, s.eng.win = some x ∧ x.stopped = false) ∨ s.eng.waits s.eng.boundAt = true) →
      exec .arbitrationWindow s = .next ((s.onEng Engine.reopen).window s.cur.eng)) ∧
    (∀ l c v key, s.eng.stalled = true → decode .engine (Tab.get s.eng.store s.eng.mpc 0) = .ok (.waits l c v) →
      let r := s.onEng Engine.resume
      let ready := r.eng.free (useE v)
      let u := r.bounded ready
      r.Bounds ready → vget r.eng.sems l none = some key → r.follows → u.ueAt key 8 = false → u.refuses u.eng.asid key = false →
      exec .waitsReread s = .next (
        if u.owned key || u.addBefore key 8 then (u.want key).onEng fun e => { e with stalled := true }
        else if ofBytes (u.mem.bytes key 8) < (u.eng.ereg v).toNat then u.onEng fun e => { e with stalled := true }
        else ((u.engAcquire s.cur.eng c (relsIn u.hist ((upTo 8).map (key + ·)))).onEng fun e => { e with stalled := false }).engAfter)) ∧
    (s.eng.atBound = true → s.eng.reqs ≠ [] →
      exec .mainDieRequest s = .next ((s.onEng Engine.reopen).winReqs s.cur.eng 1)) ∧
    exec .nearMemoryAddAccept s = .next (s.onEng fun e => e.accept s.inp.ident)) ∧
  (∀ s : State, s.eng.running = false → exec .mainDieRequest s = .next (s.serve s.cur.eng 1) ∧
    exec .nearMemoryAddAccept s = .next ((s.onEng fun e => e.accept s.inp.ident).drainAdds s.cur.eng 256)) ∧
  (∀ s : State,
    let p : Add := { asid := s.inp.asid, lrec := s.inp.ident, node := s.inp.code, source := if s.inp.flag then 256 else 0 }
    let free := fun (n : Nat) (s : State) => (s.engine n).running = false ∨ (s.engine n).atBound = true
    let step := fun (s : State) (n : Nat) => (sortAdds ((s.engine n).held.filter p.sameNode)).foldl State.applyAdd
      (s.onEngine n fun e => { e with held := e.held.filter fun a => !p.sameNode a })
    (∀ n t, free n t → t.flushNode p n = step t n) ∧ (∀ n t, ¬ free n t → t.flushNode p n = t) ∧
    let told : State := if s.inp.flag then
      { s with dev := { s.dev with farEnds := (p.asid, p.lrec, p.node) :: s.dev.farEnds.erase (p.asid, p.lrec, p.node) } } else s
    (told.flushReached p = false → exec .detFlush s = .next told) ∧
    (told.flushReached p = true →
    let u := ((told.engines.map (·.1)).foldl (fun t n => t.flushNode p n) told).forgetEnds
    ((s.inp.flag = true ∨ ∃ e ∈ u.engines, ∃ a ∈ e.2.held, p.sameNode a = true) → exec .detFlush s = .next u) ∧
    (s.inp.flag = false → (∀ e ∈ u.engines, ∀ a ∈ e.2.held, p.sameNode a = false) → exec .detFlush s = .next ((u.onGraph p.asid p.lrec fun g =>
      g.setNst p.node { g.nst p.node with flushed := true }).endGraph p.asid p.lrec)))) ∧
  (∀ s : State, s.inpPc < 512 →
    (s.pcLive s.inpPc = true → (∀ x ∈ s.dev.retiring, x.1 ≠ s.inpPc) → s.retired (s.inpPc / 64) < 4 →
      let u := s.stopEngines s.inpPc
      exec .pseudoChannelRetire s = .next { u with
        migrating := true, dev := { u.dev with retiring := u.dev.retiring ++ [(s.inpPc, 0)] } }) ∧
    (s.pcLive s.inpPc = true → (∀ x ∈ s.dev.retiring, x.1 ≠ s.inpPc) → 4 ≤ s.retired (s.inpPc / 64) →
      exec .pseudoChannelRetire s = .next (s.losePc s.inpPc)) ∧
    (s.pcLost s.inpPc = false → exec .pseudoChannelLoss s = .next (s.losePc s.inpPc))) ∧
  ∀ (s : State) (i k : Nat) (r : List (Nat × Nat)), s.dev.retiring = (i, k) :: r →
    (s.dev.copying = none → exec .migrationRowCopy s = .next
      (({ s with dev := { s.dev with copying := some (i, k, max 1 s.inp.value) } } : State).post s.cur.eng { moves := true })) ∧
    ∀ n, s.dev.copying = some (i, k, n) →
      (∀ a, isHbm a = true → engineOf a / 4 = i → k ≤ pcRow a → pcRow a < k + n → s.owned a = true) ∧
      let t := s.doReq { moves := true }
      (k + n < 2 ^ 20 → t = { s with dev := { s.dev with copying := none, retiring := (i, k + n) :: r } }) ∧
      (2 ^ 20 ≤ k + n → t.igen = nextIgen s.igen ∧ t.dev.copying = none ∧ t.dev.retiring = r ∧ (t.migrating = true ↔ r ≠ []) ∧
        (i < 512 → t.pcLive i = false) ∧ ∀ j, j < 512 → j ≠ i → t.pcLive j = s.pcLive j)

/-- Where its condition holds, each of ADMISSION, INSTANCE_CREATE, SEMAPHORE_MONITOR_READ, DISPATCH_ROUND, PRE_EMPTION,
KEYSTONE_STORAGE_UE, ASYNC_MEM_UE, RAS_POLICY_TRIGGER, CORE_RESET, CORE_WATCHDOG_EXPIRY, EVACUATION_TIMEOUT,
CORE_RESET_DONE and of the checkpoint events gives the state of its rule: a checked launch with its resources is
admitted and one of a closed context is refused, an instance is counted and given its record or its engine queue, a
round places and ages, a reset evacuates and ends, and a checkpoint is accepted, refused, streamed, lost, resumed or
restored: a restore whose blocks are readable and correct leaves HBM with the image's bytes, its poisoned blocks
uncorrectable, Keystone and Xiost as packed, each engine and each core with what the image gives it, and every
context that the image holds STOPPED. The model's own: the image is written whole when its stream is done and CKCTL
refuses OP 2 and 3 (notes/assumptions/48.md, DEDUCED), which errors are counted (notes/assumptions/65.md, DEDUCED),
an asynchronous error of a context that is not OPEN (notes/assumptions/66.md, DESIGN CHOICE), and when records are
freed and resets wait (notes/assumptions/67.md, DEDUCED). -/
def Obligations.KeystoneEvents : Prop :=
  (∀ (s : State) (p : Pending), s.pendAt s.inp.asid s.inp.ident = some p →
    ((s.ctx s.inp.asid).held = 2 → exec .admission s = .next (s.refuse p { status := 8 })) ∧
    (s.inp.flag = true →
      exec .semaphoreMonitorRead s = .next ((p.watches.filter s.ks.mon.contains).foldl State.readSem s))) ∧
  (∀ (s : State) (p : Pending),
    let s0 := s.sweep
    s0.inp = s.inp → s0.pendAt s.inp.asid s.inp.ident = some p →
    ∀ (p1 p2 : Pending) (g : Graph), (s.ctx s.inp.asid).held = 0 →
      let s1 := s0.registerDeps p
      s1.pendAt s.inp.asid s.inp.ident = some p1 → s1.inp = s.inp →
      let s2 := s1.checkPend p1
      s2.pendAt s.inp.asid s.inp.ident = some p2 → s2.inp = s.inp → p2.passed = some g → s2.fits g = true →
      s2.recAllows (recAdmit p2.asid p2.lrec) = true →
      (∀ x ∈ s2.ks.pend, x.tier = p2.tier → x.order < p2.order → s2.eligible x = false) →
      exec .admission s = .next (s2.admitGraph p2 g)) ∧
  (∀ s : State, s.inp.flag = false →
    let k := recKey s.inp.asid s.inp.ident
    let r := s.rec_ k
    let sem := semName s.inp.asid r.waitAddr
    (r.state = 3 → r.heldReady = true → exec .semaphoreMonitorRead s = .next (s.monitor k)) ∧
    (r.watches = true → sem ∈ s.ks.mon → exec .semaphoreMonitorRead s = .next (s.readSem sem)) ∧
    (r.watches = true → sem ∉ s.ks.mon → exec .semaphoreMonitorRead s = .next s)) ∧
  (∀ (s : State) (g : Graph) (w : Nat),
    let i := s.inp.code
    let s0 := s.sweep
    s0.graph s0.inp.asid s0.inp.ident = some g → g.nextWid i = some w → i < g.nodes.length →
    (∀ idx, nodeIsEngine (g.node i) = false → s0.takeRec g i = some idx →
      exec .instanceCreate s = .next ((s0.countNew g i).newRec g i w idx)) ∧
    (nodeIsEngine (g.node i) = true → (g.nst i).stopped = true →
      exec .instanceCreate s = .next ((s0.countNew g i).stoppedInst g.asid g.lrec i w)) ∧
    (nodeIsEngine (g.node i) = true → (g.nst i).stopped = false → (s0.ctx g.asid).held ≠ 0 → exec .instanceCreate s = .next s0) ∧
    (nodeIsEngine (g.node i) = true → (g.nst i).stopped = false → (s0.ctx g.asid).held = 0 →
      let u := s0.countNew g i
      exec .instanceCreate s = .next { u with ks := { u.ks with
        engQ := u.ks.engQ ++ [{ asid := g.asid, lrec := g.lrec, node := i, eng := engOf (g.node i) w, prio := bits (g.node i) 3 2,
                                order := u.ks.order, wid := w }]
        order := u.ks.order + 1 } })) ∧
  (∀ s : State,
    let u : State := ({ s.sweep with ks := { s.sweep.ks with
      round := (s.ks.round + 1) % 2 ^ 64, mayPreempt := true } } : State).readOverflow.dropReserved
    let d := u.queueOrder.foldl Round.step { s := u }
    u.ks.halted = false → u.recStale = false → u.replaying = false →
    exec .dispatchRound s = .next (if d.placed = [] then d.s else
      d.s.ageRecs (((d.s.ks.recs.map (·.1)).filter d.s.isReady).filter fun k => !d.placed.contains k))) ∧
  (∀ s t : State, s.ks.mayPreempt = true → s.me.running = true →
    (s.replaying = true ∨ s.preemptCause s.cur.core s.inp.code s.inp.flag = true) →
    s.preempt s.cur.core (s.dev.migrate.contains s.cur.core || s.preemptCause s.cur.core 4 false) = some t →
    exec .preEmption s = .next { t with ks := { t.ks with mayPreempt := false } }) ∧
  (∀ s : State, s.inp.flag = true → s.graph s.inp.asid s.inp.ident ≠ none →
    exec .keystoneStorageUe s = .next (s.failGraph s.inp.asid s.inp.ident)) ∧
  (∀ (s : State) (a : Add) (r : List Add), s.ues = a :: r →
    let u : State := ({ s with ues := r } : State).meetAdd a
    (a.source < 256 → exec .asyncMemUe s = .next (u.stopContext a.asid a.va a.lrec a.node a.wid)) ∧
    (256 ≤ a.source → exec .asyncMemUe s = .next u)) ∧
  (∀ s : State, s.dev.ready = true →
    (s.inp.fn = 0 → s.inp.len = 8 → s.inp.value.testBit 16 = true → s.dev.rstBusy = false → s.inp.value % 256 < 144 →
      exec .coreReset s = .next (({ s with dev := { s.dev with rstReg := s.inp.value % 256 } } : State).requestReset
        (s.inp.value % 256))) ∧
    exec .coreWatchdogExpiry s = .next (s.requestReset s.cur.core) ∧
    (s.inp.fn = 0 → s.inpPc < 512 →
      let u := s.meet s.inp.addr
      exec .rasPolicyTrigger s = .next (if u.dev.autopc && 16 ≤ u.counter (ueOff s.inpPc) then u.retirePc s.inpPc else u)) ∧
    (s.inp.fn = 1 → s.inpPc < 512 →
      let u := s.count (pchOff s.inpPc) s.inp.value
      exec .rasPolicyTrigger s = .next (if u.dev.autopc && 2 ^ 20 ≤ s.inp.len && 2 ^ 20 ≤ u.counter (pchOff s.inpPc)
        then u.retirePc s.inpPc else u)) ∧
    (s.inp.fn = 2 → s.cur.core < 144 →
      let u := s.count (poolOff s.cur.core) s.inp.value
      exec .rasPolicyTrigger s = .next (if u.dev.autocore && 2 ^ 16 ≤ s.inp.len && 2 ^ 16 ≤ u.counter (poolOff s.cur.core)
        then u.requestReset s.cur.core else u)) ∧
    (s.inp.fn = 3 → s.dev.autocore = true → 2 ≤ popCount 4 s.me.mat.fenced →
      exec .rasPolicyTrigger s = .next (s.requestReset s.cur.core))) ∧
  (∀ s : State, s.dev.rstBusy = true →
    ((s.core s.dev.rstCore).running = true → exec .evacuationTimeout s = .next ((s.evacuate s.dev.rstCore).keep false)) ∧
    ((s.core s.dev.rstCore).running = false → ∃ t, exec .coreResetDone s = .next t ∧ (s.dev.rstLater = [] → t.dev.rstBusy = false) ∧
      (∀ c r, s.dev.rstLater = c :: r → s.dev.ckLater = false → s.ckHolds = false →
        t.dev.rstBusy = true ∧ t.dev.rstCore = c ∧ t.dev.rstLater = r) ∧
      (t.core s.dev.rstCore).enabled = ((s.core s.dev.rstCore).enabled && !s.inp.flag) ∧
      (t.core s.dev.rstCore).running = false ∧ (t.core s.dev.rstCore).sreg 1 = 0 ∧
      t.dev.rstRes = (if ((s.core s.dev.rstCore).enabled && !s.inp.flag) = true then 1 else 2))) ∧
  (∀ s : State, s.mayCheckpoint = true → s.inp.value.testBit 0 = true → s.ckBusy = false →
    let u := s.writeCk s.inp.value
    (s.inp.value / 2 % 4 = 0 →
      let room := 4104 * u.sections.getD 5 0 + 8 * u.poisonList.length
      (u.ckDescriptor room = none → exec .checkpointSave s = .next { u with dev := { u.dev with ckStatus := 5 } }) ∧
      (∀ ws, u.ckDescriptor room = some ws → s.dev.rstBusy = false →
        exec .checkpointSave s = .next (({ u with dev := { u.dev with
          ckStatus := 1, ckWords := ws, ckPorts := bits (ws.getD 0 0) 13 8, ckLost := [], ckLater := false,
          ckStop := false } } : State).beginFence.tryStream))) ∧
    (s.inp.value / 2 % 4 = 1 →
      (u.ckDescriptor 0 = none → exec .checkpointRestore s = .next { u with dev := { u.dev with ckStatus := 5 } }) ∧
      (∀ ws, u.ckDescriptor 0 = some ws →
        let v : State := { u with dev := { u.dev with ckWords := ws, ckPorts := bits (ws.getD 0 0) 13 8 } }
        let room := 4104 * v.srcSection 5 + 8 * bits (v.srcNum 240 8) 63 40
        (v.srcBad 0 4096 = true → exec .checkpointRestore s = .next { v with dev := { v.dev with ckStatus := 6 } }) ∧
        (v.srcBad 0 4096 = false → ws.getD 2 0 < room →
          exec .checkpointRestore s = .next { v with dev := { v.dev with ckStatus := 5 } }) ∧
        (v.srcBad 0 4096 = false → room ≤ ws.getD 2 0 →
          exec .checkpointRestore s = .next { v with dev := { v.dev with ckStatus := if v.restoreRefused then 7 else 6 } })))) ∧
  (∀ s : State, s.mayCheckpoint = true → s.inp.value.testBit 4 = true → s.inp.value / 2 % 4 < 2 → s.ckBusy = false →
    exec .checkpointResume s = .next (s.writeCk s.inp.value).release) ∧
  (∀ s : State, s.dev.ckStatus = 1 → s.dev.ckLater = false →
    exec .checkpointFenceTimeout s = .next ({ s with dev := { s.dev with ckStop := true } } : State).tryStream) ∧
  (∀ s : State, s.dev.ckStatus = 2 →
    let k := s.ckWord 0 % 4
    let u : State := { s with dev := { s.dev with npoison := s.poisonList.length % 2 ^ 32 } }
    let left := s.dev.ckPorts &&& (63 - 2 ^ (s.inp.port % 6))
    (k ≠ 0 → k - 1 ∉ s.down →
      exec .checkpointStreamDone s = .next ((u.perform (cellsAt (hostKey (k - 1) (s.ckWord 1)) u.image)).endStream 3)) ∧
    (k = 0 → exec .checkpointStreamDone s = .next (({ u with dev := { u.dev with
      out := (u.ethBlocks u.image).reverse ++ u.dev.out } } : State).endStream 3)) ∧
    (k = 0 →
      let v : State := { s with dev := { s.dev with ckPorts := left, ckLost := s.dev.ckLost ++ [(s.inp.value, s.inp.port % 6)] } }
      exec .checkpointPortLost s = .next (if left = 0 then v.endStream 4 else v)) ∧
    (k ≠ 0 → s.inp.port = k - 1 → exec .checkpointPortLost s = .next (s.endStream 4))) ∧
  (∀ s : State, s.dev.ckStatus = 6 →
    let n := s.badBlock
    let h := s.restoreHbm n
    (h.srcBad 0 4096 = true ∨ n < h.srcSection 5 →
      exec .checkpointRestoreDone s = .next { h with dev := { h.dev with ckStatus := 4 } } ∧ h.cores = s.cores ∧ h.ks = s.ks) ∧
    (s.MemOk → s.srcSection 0 = 1 → s.srcSection 1 = 1 + 2 ^ 27 → ∀ m a j, a < 2 ^ 39 → j = 1 + a / 4096 → j < m →
      s.unbacked (striped a) = false →
      Mem.read (s.restoreHbm m).mem (striped a) = s.srcByte (4096 * j + a % 4096) ∧
        (striped a / 32 ∈ (s.restoreHbm m).ue ↔ j ∈ s.srcPoison)) ∧
    ∀ ks ctxs xi, h.srcBad 0 4096 = false → h.srcSection 5 ≤ n → h.srcKs = some (ks, ctxs) → h.srcXi = some xi →
      let r : State := { h with
        ks := { ks with halted := false }, xi := { xi with quiet := false, now := [], serving := false }
        ctxs := ctxs.map fun c => (c.1, { c.2 with cached := [] }) }
      let e := (upTo 2048).foldl State.restoreEngine r
      let u := (upTo 144).foldl State.restoreFrom e.stopAll
      exec .checkpointRestoreDone s = .next { u.evacDisabled with dev := { u.evacDisabled.dev with ckStatus := 3 } } ∧
      ((∀ m, m < 2048 → s.engLive m = true) → ∀ a, (Tab.get ctxs a {}).held ≠ 2 → (u.ctx a).held = 1)) ∧
  (∀ (s : State) (m : Nat),
    let o := 4096 * (s.srcSection 2 + 2 * m)
    let t := s.restoreEngine m
    (s.srcNum o 8 ≠ 1 → t.engine m = Engine.init ∧ ∀ k, k ≠ m → t.engine k = s.engine k) ∧
    (∀ e, s.srcNum o 8 = 1 → Config.unpackEngine (s.srcBytes o 8192) = some e →
      (s.engLive m = true → t.engine m = { e with running := true } ∧ ∀ k, k ≠ m → t.engine k = s.engine k) ∧
      (s.engLive m = false → t = (s.setEngine m { e with running := true }).engEnd m 8 0 0 0))) ∧
  ∀ (s : State) (c : Nat),
    let bs := s.srcBytes (4096 * (s.srcSection 1 + 2048 * c)) (2 ^ 23)
    let asid := slotNum bs 2 2 % 1024
    let t := s.restoreFrom c
    (slotNum bs 0 2 ≠ 1 ∨ asid = 0x3FF → t.core c = (s.core c).freed) ∧
    (∀ k g, slotNum bs 0 2 = 1 → asid ≠ 0x3FF →
      (s.ks.recs.find? fun p => p.1 / 2 ^ 24 == asid && p.2.state == 2 && p.2.core == c).map (·.1) = some k →
      s.graph asid (s.rec_ k).lrec = some g →
      (t.core c).running = true ∧ (t.core c).cont.asid = asid ∧ (t.core c).enabled = (s.core c).enabled ∧
      (t.core c).part = word (slotReg bs 114) ∧
      (∀ j, 0 < j → j < 32 → (t.core c).sreg j = word (slotReg bs j) ∧ (t.core c).areg j = word (slotReg bs (32 + j))) ∧
      (∀ j, j < 8 → (t.core c).xreg j = word (slotReg bs (64 + j)) ∧ (t.core c).mreg j = slotVReg bs (32 + j)) ∧
      (∀ j, j < 32 → (t.core c).vreg j = slotVReg bs j) ∧ (∀ j, j < 16 → (t.core c).tile j = slotTile bs j) ∧
      ∀ d, d ≠ c → t.core d = s.core d)

/-- QUEUE_ENABLE, QUEUE_DISABLE, QNOTIFY_WRITE and SCANNER_STEP complete with the state of their rules wherever their
writer may make them: a QCTL that may be enabled on a readable status block takes HEAD and SEQ from it and shows ERR
clear, any other only sets the registers; a disabled queue drops its waits, at once or after the packet being
accepted; a notify sets TAIL or ends in error 7; the scanner fetches, stops, holds, fails or takes the next packet.
Every packet being carried out completes: refused with PRESULT 5 or 1, with the PRESULT of the first check of its
row that fails, accepted, or holding its queue; acceptance moves HEAD and SEQ past it and shows the PRESULT. And
WAIT_POLL, INVAL_COMPLETE, CTX_STOP_COMPLETE, the record events, the update events, the failover and the host link
events give the state of theirs. The model's own readings: the upper bits of a notify are ignored
(notes/assumptions/44.md, DEDUCED); and the order of a packet's refusals, SBY 2 from UPST 2 on, UPDATE's image read
when it is accepted, an image that has not the length of its header refused as unsigned, and OWN's move of disabled
queues (notes/assumptions/45.md, DEDUCED). -/
def Obligations.QueueEvents : Prop :=
  (∀ s : State,
    let q := s.inp.queue
    let x := s.queue q
    (s.ownsQueue q = true → s.inp.len = 8 →
      (s.inp.value.testBit 0 = true → x.en = false →
        let y := { x with ctl := ctlFields s.inp.value }
        let u := s.setQueue q y
        (s.mayEnable y s.inp.value = false ∨ u.ringRead y y.sbase 8 = none → exec .queueEnable s = .next u) ∧
        (∀ w, s.mayEnable y s.inp.value = true → u.ringRead y y.sbase 8 = some w →
          exec .queueEnable s = .next ((u.setQueue q { y with
            en := true, pend := false, hold := 0, words := [], closing := false, err := false, ecode := 0
            head := w % 2 ^ 32, seq := w / 2 ^ 32 % 2 ^ 16 }).writeStatus q))) ∧
      (s.inp.value.testBit 0 = false → x.en = true →
        (s.xi.now ≠ [] → s.xi.nowQueue = q → exec .queueDisable s = .next (s.setQueue q { x with closing := true })) ∧
        ((s.xi.now = [] ∨ s.xi.nowQueue ≠ q) → exec .queueDisable s = .next (s.setQueue q { x with
          en := false, pend := false, hold := 0, words := [], closing := false })))) ∧
    (s.dev.ready = true → q < 4096 → s.inp.len = 8 → x.en = true → x.err = false → s.inp.port = qOwner x.ctl →
      (s.inp.fn = 0 ∨ s.inp.fn = qFn x.ctl) →
      let tail := s.inp.value % 2 ^ 32
      let u := s.setQueue q { x with tail := tail, pend := x.pend || x.hold == 0 }
      ((tail + 2 ^ 32 - x.head) % 2 ^ 32 ≤ 2 ^ qLog x.ctl → exec .qnotifyWrite s = .next u) ∧
      (2 ^ qLog x.ctl < (tail + 2 ^ 32 - x.head) % 2 ^ 32 → (s.xi.serving = false ∨ s.xi.nowQueue ≠ q ∨ s.xi.now = []) →
        exec .qnotifyWrite s = .next (u.queueError q 7 0)))) ∧
  (∀ s : State, s.xi.now = [] → s.xiQuiet = false →
    (s.xi.serving = true → exec .scannerStep s = .next s.fetchPacket) ∧
    (∀ q, s.xi.serving = false → s.nextQueue = some q → exec .scannerStep s = .next (s.beginService q).fetchPacket) ∧
    (s.xi.serving = false → s.nextQueue = none → exec .scannerStep s = .next s) ∧
    (s.xi.serving = true →
      let q := s.xi.nowQueue
      (∀ b, s.seePacket q = .stop b → exec .scannerStep s = .next (s.endService b)) ∧
      (∀ c h, s.seePacket q = .bad c h → exec .scannerStep s = .next ((s.queueError q c h).endService false)) ∧
      (s.seePacket q = .diverge → exec .scannerStep s = .next (s.diverge.endService true)) ∧
      (s.seePacket q = .hold → exec .scannerStep s = .next ((s.setQueue q { s.queue q with hold := 3 }).endService false)) ∧
      (∀ ws, s.seePacket q = .take ws → exec .scannerStep s = .next { s with xi := { s.xi with now := ws } }))) ∧
  (∀ (s : State) (q w p : Nat), (s.queue q).closing = false →
    let x := s.queue q
    let y := (s.accept q w p none).queue q
    y.head = (x.head + pkSlots w) % 2 ^ 32 ∧ y.seq = (pkSeq w + 1) % 2 ^ 16 ∧ y.presult = p
      ∧ y.nfail = (x.nfail + if p = 0 then 0 else 1) % 2 ^ 64) ∧
  (∀ (s : State) (ws : List Nat), s.packet 1 = some ws → exec .nop s = .next (s.acceptNow 0 none)) ∧
  (∀ (s : State) (ws : List Nat), s.packet 2 = some ws →
    let asid := qAsid s.nowCtl
    let i := ws.getD 1 0 % 4096
    let slots := (List.range 8).filter fun k => (ws.getD 1 0).testBit (12 + k)
    let fails := fun (p : Nat) => exec .arm s = .next (s.acceptNow p none)
    (s.refusal ws false ≠ 0 → fails (s.refusal ws false)) ∧
    (s.refusal ws false = 0 → (s.ctx asid).held ≠ 0 → fails 4) ∧
    (s.refusal ws false = 0 → (s.ctx asid).held = 0 → s.ctxWord asid 0x28 ≤ i → fails 2) ∧
    (s.refusal ws false = 0 → (s.ctx asid).held = 0 → i < s.ctxWord asid 0x28 →
      (∀ e, s.kRead asid (s.lrAddr asid i) 128 = .error e → fails 8) ∧
      ∀ r, s.kRead asid (s.lrAddr asid i) 128 = .ok r →
        let at_ := fun (k : Nat) => r / 2 ^ (704 + 16 * k) % 2 ^ 16
        let width := fun (k : Nat) => at_ k / 2 ^ 10 % 2 ^ 6 + 1
        let r' := slots.foldl (fun r k =>
          patched r (64 * (at_ k % 2 ^ 4) + at_ k / 2 ^ 4 % 2 ^ 6) (width k) (ws.getD (8 + k) 0)) r
        let wrote := slots.foldl (fun (t : Except Nat State) k => match t with
          | .error e => .error e
          | .ok t => t.kWrite asid (s.lrAddr asid i + 8 * (at_ k % 2 ^ 4)) (bytesOf 8 (word64 r' (at_ k % 2 ^ 4)))) (.ok s)
        let fits := fun (k : Nat) => slotDeclared r (at_ k) = true ∧ ws.getD (8 + k) 0 < 2 ^ width k
        (∀ e, wrote = .error e → fails 8) ∧
        (∀ t, wrote = .ok t → (s.lrec asid i).state ≠ 0 → fails 3) ∧
        (∀ t, wrote = .ok t → (s.lrec asid i).state = 0 → (∃ k ∈ slots, ¬ fits k) → fails 1) ∧
        (∀ t, wrote = .ok t → (s.lrec asid i).state = 0 → (∀ k ∈ slots, fits k) →
          (headerBad r' = true → fails 6) ∧
          (headerBad r' = false → s.tierFull 0 = true → exec .arm s = .next (s.holdNow 2 [])) ∧
          (headerBad r' = false → s.tierFull 0 = false → exec .arm s =
            .next ((t.arm asid i 0 r' (qPriv s.nowCtl)).acceptNow 0 (some { asid := asid, lrec := i })))))) ∧
  (∀ (s : State) (ws : List Nat) (ls : List Loc), s.packet 3 = some ws →
    let add := (ws.getD 3 0).testBit 0
    let old := ofBytes (ls.map fun l => Mem.read s.mem l.key)
    s.refusal ws false = 0 → ws.getD 1 0 % 8 = 0 → 7 ≤ bits (ws.getD 3 0) 7 4 → bits (ws.getD 3 0) 7 4 ≤ 10 →
    (s.ctx (qAsid s.nowCtl)).held ≠ 2 →
    s.keysOf (kWho (qAsid s.nowCtl)) (ws.getD 1 0) (if add then .atomic else .write) 8 = .ok ls →
    (add = true → ∀ l ∈ ls, s.readBad l 1 = false) → s.writeBad ls = false → (∀ l ∈ ls, s.owned l.key = false) →
    exec .signal s = .next ((s.performFor (s.sysRel (bits (ws.getD 3 0) 7 4)) (ls.zipWith (fun l b => (l.key, b))
      (bytesOf 8 (if add then old + ws.getD 2 0 else ws.getD 2 0)))).acceptNow 0 none)) ∧
  (∀ (s : State) (ws : List Nat), s.packet 4 = some ws → s.refusal ws false = 0 → ws.getD 1 0 % 8 = 0 →
    (∀ p, s.waitRead (qAsid s.nowCtl) ws = some p → exec .wait s = .next (s.acceptNow p none)) ∧
    (s.waitRead (qAsid s.nowCtl) ws = none → exec .wait s = .next (s.holdNow 1 ws))) ∧
  (∀ (s : State) (p : Nat),
    let q := s.inp.queue
    let x := s.queue q
    x.hold = 1 → s.xiQuiet = false → qOwner x.ctl ∉ s.down → s.recAllows (recPacket q (pkSeq (x.words.headD 0))) = true →
    s.waitRead (qAsid x.ctl) x.words = some p → exec .waitPoll s = .next (s.accept q (x.words.headD 0) p none)) ∧
  (∀ (s : State) (ws : List Nat), s.packet 5 = some ws → s.refusal ws false = 0 →
    ws.getD 2 0 % 4096 = 0 → ws.getD 3 0 % 4096 = 0 → 4096 ≤ ws.getD 3 0 →
    exec .inval s = .next (s.acceptNow 0
      (some { asid := ws.getD 1 0 % 1024, lo := ws.getD 2 0, hi := ws.getD 2 0 + ws.getD 3 0 }))) ∧
  (∀ (s : State) (p : Packet), (s.xi.open_.find? fun p => p.type == 5 && p.asid == s.inp.asid) = some p →
    (∀ e ∈ s.engines, ∀ x ∈ e.2.inbound, x.source < 256 → x.asid = s.inp.asid → x.va + 7 < p.lo ∨ p.hi ≤ x.va) →
    (∀ w ∈ s.dev.farWrites, w.who.asid = s.inp.asid → w.who.va + w.cells.length ≤ p.lo ∨ p.hi ≤ w.who.va) →
    ∃ t, exec .invalComplete s = .next t ∧ (t.ctx s.inp.asid).cached =
      (s.ctx s.inp.asid).cached.filter fun x => x.1 * 4096 + 4096 ≤ p.lo || p.hi ≤ x.1 * 4096) ∧
  (∀ (s : State) (ws : List Nat), s.packet 6 = some ws →
    let asid := ws.getD 1 0 % 1024
    let new := ws.getD 1 0 / 1024 % 4
    s.refusal ws (new == 3) = 0 →
    let m := s.ctxMove asid new (ws.getD 2 0)
    exec .ctx s = .next (m.2.acceptNow m.1 (if m.1 = 0 ∧ new = 1 then some { asid := asid } else none))) ∧
  (∀ s : State, s.ctxQuiet s.inp.asid = true →
    exec .ctxStopComplete s = .next (s.completePackets fun p => p.type == 6 && p.asid == s.inp.asid)) ∧
  (∀ (s : State) (ws : List Nat), s.packet 7 = some ws →
    let mode := ws.getD 1 0 % 4
    s.refusal ws (mode == 3 || ws.getD 2 0 % 64 != 0 || ws.getD 3 0 < 8 || 24 < ws.getD 3 0) = 0 →
    let u := s.acceptNow 0 none
    (mode = 0 → exec .recPkt s = .next { u with xi := { u.xi with recMode := 0 } }) ∧
    (mode ≠ 0 → (s.xi.recMode = 0 ∨ s.xi.recMode = mode) →
      exec .recPkt s = .next (u.startRec mode (ws.getD 2 0) (ws.getD 3 0) s.xi.nowQueue)) ∧
    (mode ≠ 0 → s.xi.recMode ≠ 0 → s.xi.recMode ≠ mode → exec .recPkt s = .next (s.acceptNow 4 none))) ∧
  (∀ s : State, (s.recRoom 1 = false ∨ (∃ k ∈ s.queueOrder, s.recRoom (s.recGroup k).length = false) →
      exec .recordStallTimeout s = .next (s.recStop 1)) ∧
    (s.xi.recMode ≠ 0 → exec .recordTailAdvance s = .next (s.recWrite 8 (bytesOf 8 s.inp.value)))) ∧
  (∀ (s : State) (ws : List Nat), s.packet 8 = some ws → s.dev.idfail = true → exec .update s = .next (s.acceptNow 7 none)) ∧
  (∀ (s : State) (ws : List Nat), s.packet 8 = some ws → s.refusal ws false = 0 → 0 < ws.getD 2 0 → ws.getD 2 0 ≤ 2 ^ 26 →
    ((s.xi.sby = 0 ∨ s.xi.sby = 2 ∨ (1 ≤ s.xi.upst ∧ s.xi.upst ≤ 3)) →
      exec .update s = .next (s.acceptNow 7 none)) ∧
    (∀ img sig, s.dev.idfail = false → s.xi.sby ≠ 0 → s.xi.sby ≠ 2 → (s.xi.upst < 1 ∨ 3 < s.xi.upst) →
      s.physRead (ws.getD 1 0) (ws.getD 2 0) = some img → s.physRead (ws.getD 3 0) 64 = some sig →
      let u := s.acceptNow 0 (some {})
      exec .update s = .next { u with xi := { u.xi with upst := 1, updQueue := u.xi.nowQueue, updImage := img, updSig := sig } })) ∧
  (∀ s : State,
    (s.xi.upst = 1 → imageLength s.xi.updImage = s.xi.updImage.length →
      Config.ed25519 s.fwKey (Config.sha512 s.xi.updImage) s.xi.updSig = true →
      exec .updateSignatureVerified s = .next { s with xi := { s.xi with upst := 2, sby := 2 } }) ∧
    (s.xi.upst = 1 → imageLength s.xi.updImage ≠ s.xi.updImage.length ∨
      Config.ed25519 s.fwKey (Config.sha512 s.xi.updImage) s.xi.updSig = false →
      exec .updateSignatureVerified s = .next (s.abortUpdate 8 s.xi.sby)) ∧
    (s.xi.upst = 2 → exec .updateStandbyReady s = .next { s with xi := { s.xi with upst := 3 } }
      ∧ exec .updateStandbyBootTimeout s = .next (s.abortUpdate 10 3)) ∧
    (s.xi.upst = 3 → s.ckHolds = false → exec .updateQuiesceTimeout s = .next (s.abortLate 11)) ∧
    (s.xi.upst = 3 → s.xi.now = [] → s.ckHolds = false →
      let v := Config.stateVersion s.activeImage
      let h := Config.imgHeader s.xi.updImage
      (v < h.2.1 ∨ h.2.2.1 < v → exec .updateFlip s = .next (s.abortLate 9)) ∧
      (h.2.1 ≤ v → v ≤ h.2.2.1 → ∃ t, exec .updateFlip s = .next t ∧ t.xi.active = 1 - s.xi.active ∧ t.xi.upst = 4 ∧
        t.xi.sby = 1 ∧ t.xi.gen = (s.xi.gen + 1) % 2 ^ 32 ∧ t.dev.flash.imgA = s.xi.updImage ∧ t.dev.flash.imgB = s.xi.updImage)) ∧
    (s.xi.sby = 1 → ∃ t, exec .xiostWatchdogFailover s = .next t ∧ t.xi.active = 1 - s.xi.active ∧ t.xi.sby = 3 ∧
      (if s.xi.active = 0 then t.dev.flash.imgA else t.dev.flash.imgB) = [] ∧
      t.xi.gen = (s.xi.gen + 1) % 2 ^ 32 ∧ t.mem = s.mem ∧ t.cores = s.cores)) ∧
  (∀ (s : State) (ws : List Nat), s.packet 9 = some ws →
    let old := ws.getD 1 0 % 2
    let p := qOwner s.nowCtl
    let qs := (List.range 4096).filter fun q => qOwner (s.queue q).ctl == old
    (s.refusal ws (old == p) ≠ 0 → exec .own s = .next (s.acceptNow (s.refusal ws (old == p)) none)) ∧
    (old ≠ p → s.refusal ws false = 0 → exec .own s = .next ((qs.foldl (fun s q => s.takeOver q p) s).acceptNow 0 none))) ∧
  ∀ s : State, s.inp.port < 2 →
    exec .hostLinkDown s = .next (({ s with down := if s.down.contains s.inp.port then s.down else s.inp.port :: s.down } : State).setLink
      s.inp.port { reason := s.inp.code % 6 }) ∧
    (s.inp.value ∈ [1, 2, 4, 8] → exec .hostLinkUp s = .next (({ s with down := s.down.filter (· != s.inp.port) } : State).setLink
      s.inp.port { state := 2, width := s.inp.value }))

/-- Where its condition holds, each of REGISTER_WRITE, RASCNT_CLEAR, ASIDFN_WRITE, VSELF_WRITE, FLR_VF, FLR_PF,
FLR_TIMEOUT, PORT_FUNDAMENTAL_RESET, PCIE_CONFIGURATION_REQUEST, PCIE_LANE_RETRAIN, PCIE_FLIT_RECEIVE,
ATS_INVALIDATION, HOST_BAR2_READ, HOST_BAR2_WRITE, VOMEL_PORT_UP, VOMEL_PORT_DOWN, VOMEL_LANE_RETRAIN,
VOMEL_FLIT_RECEIVE and PEER_INBOUND_ACCESS gives the state of its rule: a BAR2 access reaches striped memory or is
refused, and an access of a peer is performed when a window admits it and refused otherwise. The physical function
answers reads of BAR0, before the device is ready too, and refuses attestation requests that it does not know. The
model's own: FLR_VF and FLR_PF clear the function's configuration (taken from PCI Express: notes/assumptions/51.md,
PRESUMED), and which Vomel writes a flit acknowledges and which blocks and pages the far side refuses are what the
event brings (notes/assumptions/52.md, DEDUCED). -/
def Obligations.FabricEvents : Prop :=
  (∀ s : State, s.pfWrite = true →
    (s.inp.len = 8 → s.inp.addr % 8 = 0 → exec .registerWrite s = .next (s.barWrite s.inp.port s.inp.addr s.inp.value)) ∧
    (s.inp.len = 4 → s.inp.addr % 4 = 0 → s.inp.value = 0 → 0x2000 ≤ s.inp.addr → s.inp.addr < 0x3850 →
      exec .rascntClear s = .next { s with dev := { s.dev with counters := Tab.erase s.dev.counters s.inp.addr } }) ∧
    (s.inp.len = 1 → s.inp.asid < 1024 → exec .asidfnWrite s = .next { s with dev := { s.dev with
      asidfn := Tab.set s.dev.asidfn (s.inp.port * 1024 + s.inp.asid) (if 33 ≤ s.inp.value % 256 then 0xFF else s.inp.value % 256) } }) ∧
    (s.inp.len = 8 → exec .vselfWrite s = .next { s with dev := { s.dev with vself := s.inp.value % 256 } })) ∧
  (∀ s : State, s.dev.ready = true → s.inp.port < 2 →
    (1 ≤ s.inp.fn → s.inp.fn ≤ 32 → exec .flrVf s = .next (s.resetVf s.inp.port s.inp.fn)) ∧
    exec .flrPf s = .next (s.resetPf s.inp.port)) ∧
  (∀ s : State, s.inp.port < 2 →
    let u := if s.dev.ready then s.resetPf s.inp.port else s
    exec .portFundamentalReset s = .next (({ u with down := if u.down.contains s.inp.port then u.down else s.inp.port :: u.down } : State).setLink
      s.inp.port { state := 1 })) ∧
  (∀ s : State,
    let mine := fun (x : Nat × Nat) => x.1 / 64 == s.inp.port && (s.inp.flag || x.1 % 64 == s.inp.fn)
    let u := ((s.dev.flr.filter mine).map (·.2)).eraseDups.foldl (fun s a =>
      ((s.coresOf a).foldl (fun s c => s.endFailed c 1 (s.core c).trap.cause.toNat (vget (s.core c).trap.info 0 0).toNat
        (vget (s.core c).trap.info 1 0).toNat) s).stopNodes a) s
    exec .flrTimeout s = .next { u with dev := { u.dev with flr := u.dev.flr.filter fun x => !mine x } }) ∧
  (∀ s : State, s.inp.port < 2 → s.inp.fn ≤ 32 → s.dev.phy = true →
    let c := s.cfg s.inp.port s.inp.fn
    let answer := fun (t : State) (code v : Nat) => t.send [2, s.inp.port, s.inp.fn, code, v]
    let keep := fun (t : State) => if (t.cfg s.inp.port s.inp.fn).2.1 then t
      else t.atcDrop (s.inp.port * 64 + s.inp.fn) fun _ => true
    let put := fun (x : Nat × Bool × Bool) =>
      keep { s with dev := { s.dev with config := Tab.set s.dev.config (s.inp.port * 64 + s.inp.fn) x } }
    (s.inp.flag = false → s.inp.code = 0 → exec .pcieConfigurationRequest s = .next (answer (keep s) 0 c.1)) ∧
    (s.inp.flag = false → s.inp.code = 1 → exec .pcieConfigurationRequest s = .next (answer (keep s) 1 (b2n c.2.1))) ∧
    (s.inp.flag = false → s.inp.code = 2 → exec .pcieConfigurationRequest s = .next (answer (keep s) 2 (b2n c.2.2))) ∧
    (s.inp.flag = true → s.inp.code = 0 → s.inp.fn = 0 → 30 ≤ s.inp.value → s.inp.value ≤ 39 →
      exec .pcieConfigurationRequest s = .next (answer (put (s.inp.value, c.2)) 0 s.inp.value)) ∧
    (s.inp.flag = true → s.inp.code = 1 → exec .pcieConfigurationRequest s =
      .next (answer (put (c.1, s.inp.value.testBit 0, c.2.2)) 1 (s.inp.value % 2))) ∧
    (s.inp.fn = 0 → s.inp.code = 3 → exec .pcieConfigurationRequest s =
      .next (s.send [12, s.inp.port, s.inp.addr, s.barRead s.inp.port s.inp.addr s.inp.len])) ∧
    (s.inp.fn = 0 → s.inp.code = 4 → s.dev.ready = true → s.inp.value < 256 → s.inp.value ∉ spdmKnown →
      exec .pcieConfigurationRequest s = .next (s.send [11, s.inp.port, 0x7F, s.inp.value]))) ∧
  (∀ (s : State) (p i : Nat), s.dev.ready = false → i < 4 →
    s.barWord p 0 = s.devstat ∧ s.barWord p 0x1000 = s.xi.imgver * 2 ^ 16 ∧ s.barWord p (0x1200 + 8 * i) = word64 s.corestat i) ∧
  (∀ s : State, s.inp.port < 2 →
    (s.inp.flag = true → exec .pcieFlitReceive s = .next (s.count (0x3848 + 4 * s.inp.port) 1)) ∧
    (s.inp.flag = false → s.inp.nums.length < 2 → exec .pcieFlitReceive s = .next s) ∧
    (∀ a on r, s.inp.flag = false → s.inp.nums = a :: on :: r → exec .pcieFlitReceive s =
      .next (s.farRefuse (s.inp.port * 64 + s.inp.fn % 64) (farUnit (hostKey s.inp.port (a % 2 ^ 64))) (on != 0))) ∧
    (let n := min s.inp.value (Tab.get s.dev.links s.inp.port {}).width
     (Tab.get s.dev.links s.inp.port {}).state = 2 →
      (n = 0 → exec .pcieLaneRetrain s = .next (({ s with
        down := if s.down.contains s.inp.port then s.down else s.inp.port :: s.down } : State).setLink s.inp.port { reason := 3 })) ∧
      (n ≠ 0 → exec .pcieLaneRetrain s = .next (s.setLink s.inp.port { state := 2, width := pcieWidth n })))) ∧
  (∀ s : State, (s.cfg s.inp.port s.inp.fn).2.1 = true →
    exec .atsInvalidation s = .next ((s.atcDrop (s.inp.port * 64 + s.inp.fn) fun u =>
      u == farUnit (hostKey s.inp.port s.inp.addr)).send [3, s.inp.port, s.inp.fn, s.inp.addr])) ∧
  (∀ s : State,
    let ks := physKeys s.inp.addr s.inp.len
    (s.bar2Refused = true → exec .hostBar2Read s = .next (s.send [4, s.inp.port, 1])) ∧
    (s.bar2Refused = false → (∀ k ∈ ks, s.owned k = false) →
      ((∀ k ∈ ks, s.ueAt k 1 = false) →
        exec .hostBar2Read s = .next (s.send ([4, s.inp.port, 0] ++ ks.map fun k => (Mem.read s.mem k).toNat))) ∧
      ((∃ k ∈ ks, s.ueAt k 1 = true) → exec .hostBar2Read s = .next ((s.meetAll ks).send [4, s.inp.port, 2])))) ∧
  (∀ s : State, s.inp.len = s.inp.bytes.length →
    let ks := physKeys s.inp.addr s.inp.len
    (s.bar2Refused = true → exec .hostBar2Write s = .next (s.send [5, s.inp.port, 1])) ∧
    (s.bar2Refused = false → (∀ k ∈ ks, s.owned k = false) →
      (s.badSector 0 (ks.zip s.inp.bytes) = false → exec .hostBar2Write s = .next (s.perform (ks.zip s.inp.bytes))) ∧
      (s.badSector 0 (ks.zip s.inp.bytes) = true → exec .hostBar2Write s =
        .next (((s.meetAll ks).sectorStore 0 (ks.zip s.inp.bytes)).send [5, s.inp.port, 2])))) ∧
  (∀ s : State, s.inp.port < 18 →
    let k := s.inp.port
    let v := Tab.get s.dev.vports k {}
    (s.dev.ready = true →
      (143 < s.dev.vself → exec .vomelPortUp s = .next (s.vomelDown k 5)) ∧
      (s.dev.vself ≤ 143 → s.inp.flag = true → exec .vomelPortUp s = .next (s.vomelDown k 4)) ∧
      (s.dev.vself ≤ 143 → s.inp.flag = false → s.inp.value < 2 → exec .vomelPortUp s = .next (s.vomelDown k 3)) ∧
      (s.dev.vself ≤ 143 → s.inp.flag = false → s.inp.value ∈ [2, 4, 8] →
        exec .vomelPortUp s = .next (s.setLink (k + 2) { state := 2, width := s.inp.value }).reroute)) ∧
    exec .vomelPortDown s = .next (s.vomelDown k (s.inp.code % 6)) ∧
    (16 ≤ v.replays →
      let n := min s.inp.value (Tab.get s.dev.links (k + 2) {}).width
      (n < 2 → exec .vomelLaneRetrain s = .next (s.vomelDown k 3)) ∧
      (n ∈ [2, 4, 8] →
        let u := s.setLink (k + 2) { state := 2, width := n }
        exec .vomelLaneRetrain s = .next { u with dev := { u.dev with vports := Tab.set u.dev.vports k { v with replays := 0 } } })) ∧
    ((Tab.get s.dev.links (k + 2) {}).state = 2 → s.inp.bytes.length = 256 →
      let good := (crc64 (s.inp.bytes.take 248)).toNat = ofBytes (s.inp.bytes.drop 248)
      let put := fun (t : State) (v : VPort) => ({ t with dev := { t.dev with vports := Tab.set t.dev.vports k v } } : State)
      let counted := fun (t : State) => t.count (0x3800 + 4 * k) 1
      let goes := fun (t : State) => t.send ([6, k] ++ ((s.inp.bytes.drop 8).take 240).map (·.toNat))
      (¬ good → v.discarding = false ∨ s.inp.flag = false →
        exec .vomelFlitReceive s = .next (put s { v with discarding := true })) ∧
      (¬ good → v.discarding = true → s.inp.flag = true →
        exec .vomelFlitReceive s = .next (counted (put s { v with replays := v.replays + 1 }))) ∧
      (good → bits (ofBytes (s.inp.bytes.take 8)) 11 0 ≠ v.expect → exec .vomelFlitReceive s = .next s) ∧
      (good → bits (ofBytes (s.inp.bytes.take 8)) 11 0 = v.expect →
        let u := if v.discarding then counted s else s
        let w := (put u { expect := (v.expect + 1) % 4096, replays := if v.discarding then v.replays + 1 else 0 }).farAck k s.inp.value
        (s.inp.nums.length < 2 → exec .vomelFlitReceive s = .next (goes w)) ∧
        (∀ pa on r, s.inp.nums = pa :: on :: r → exec .vomelFlitReceive s = .next (goes
          (w.farRefuse ((16 + s.inp.ident) * 64) (farUnit (peerKey s.inp.ident (dramOf false pa))) (on != 0))))))) ∧
  ∀ s : State, s.dev.ready = true → s.inp.port < 18 →
    let x := s.inp
    let n := max 1 (if x.code = 1 then x.bytes.length else if x.code = 4 then (if x.nums.getD 0 0 = 1 then 8 else 4) else x.len)
    let ks := (List.range n).map fun i => dramOf x.flag (x.addr + i)
    let old := ofBytes (ks.map (Mem.read s.mem))
    let reply := fun (t : State) (l : List Nat) => t.send ([7, x.port, x.ident] ++ l)
    (s.peerAdmitted n = false → exec .peerInboundAccess s = .next (reply s [1])) ∧
    (s.peerAdmitted n = true → x.addr + n ≤ 2 ^ 39 → (∀ k ∈ ks, s.unbacked k = false) →
      (x.code = 4 → exec .peerInboundAccess s = .next (s.onEngine (engineOf (ks.headD 0)) fun e => { e with inbound := e.inbound ++
        [{ key := ks.headD 0, ty := x.nums.getD 0 0, value := x.nums.getD 1 0, wid := x.nums.getD 2 0, seqNo := x.nums.getD 3 0,
           asid := x.nums.getD 4 0, lrec := x.nums.getD 5 0, node := x.nums.getD 6 0, source := 256 + x.port, va := x.addr,
           order := s.ks.order, det := x.nums.getD 7 0 != 0 }] })) ∧
      (x.code ≠ 4 → (∀ k ∈ ks, s.owned k = false) →
        (x.code = 1 → s.badSector 0 (ks.zip x.bytes) = false →
          exec .peerInboundAccess s = .next (reply (s.perform (ks.zip x.bytes)) [0])) ∧
        (x.code = 1 → s.badSector 0 (ks.zip x.bytes) = true →
          exec .peerInboundAccess s = .next (reply ((s.meetAll ks).sectorStore 0 (ks.zip x.bytes)) [2])) ∧
        ((∀ k ∈ ks, s.ueAt k 1 = false) →
          (x.code = 0 → exec .peerInboundAccess s = .next (reply s (0 :: ks.map fun k => (Mem.read s.mem k).toNat))) ∧
          (x.code = 2 → exec .peerInboundAccess s = .next (reply (s.perform (ks.zip (bytesOf n
            (amoOp (x.nums.getD 0 0) (8 * n) old (x.nums.getD 1 0 % 2 ^ (8 * n)))))) [0, old])) ∧
          (x.code = 3 → exec .peerInboundAccess s = .next (reply (if old = x.nums.getD 2 0 % 2 ^ (8 * n)
            then s.perform (ks.zip (bytesOf n (x.nums.getD 1 0))) else s) [0, old])))))

/-- On a queue pair that runs: a tail notify issues what is posted; an acknowledged request leaves the ones in flight,
its data is written and its semaphore added to, and SQHEAD advances; an error ends the queue pair; a timeout sends
again, and after seven times ends it (notes/assumptions/47.md, DEDUCED); the request that fails is dropped with the
others in flight (notes/assumptions/68.md, DESIGN CHOICE). An incoming WRITE, READ or SEND under the right key is
performed and answered, and one under a wrong key, of an unsupported kind, or a SEND of more than 4,088 bytes or on
a queue pair with LOG2RQ 0 is answered with its NAK; a queue pair that carries a checkpoint takes none. A semaphore
add releases what the queue pair has written. -/
def Obligations.EthernetEvents : Prop :=
  (∀ s : State,
    let k := s.inp.port
    let n := s.inp.ident
    let e := s.qpEntry k n
    s.qpRuns k n = true →
    exec .ethTailNotify s = .next (s.issueWrs k n 64) ∧
    (∀ r rest s1 s2, s.fly k n = r :: rest → (wrOp r = 2 → s.ethOwned (qpAsid e) (word64 r 1) (wrLen r) = false) →
      (r.testBit 8 = true → s.ethOwned (qpAsid e) (word64 r 4) 8 = false) →
      (if wrOp r = 2 then s.ethWrite k n (qpAsid e) (word64 r 1) ((List.range (wrLen r)).map fun i => s.inp.bytes.getD i 0) else .ok s) = .ok s1 →
      (if r.testBit 8 then s1.semAdd k n (qpAsid e) (word64 r 4) (word64 r 5) else some s1) = some s2 →
      let s3 := (s2.setFly k n rest).qpWrite k n 24 (bytesOf 4 (qpSqHead e + 1))
      exec .ethWorkRequestComplete s = .next (({ s3 with dev := { s3.dev with
        ethRetry := Tab.erase s3.dev.ethRetry (qpKey k n) } } : State).issueWrs k n 64)) ∧
    (s.fly k n ≠ [] →
      let c := Tab.get s.dev.ethRetry (qpKey k n) 0
      (7 ≤ c → exec .ethRetransmissionTimeout s = .next (s.qpError k n 4)) ∧
      (c < 7 → exec .ethRetransmissionTimeout s = .next (({ s with dev := { s.dev with
        ethRetry := Tab.set s.dev.ethRetry (qpKey k n) (c + 1) } } : State).send [9, k, n, c + 1])) ∧
      (s.inp.code = 3 → exec .ethQpError s = .next (s.qpError k n 3))) ∧
    (s.inp.code = 5 → exec .ethQpError s = .next (((List.range 1024).filter fun i => qpReady (s.qpEntry k i)).foldl
      (fun t i => t.qpError k i 5) (s.setLink (20 + k) { reason := 1 }))) ∧
    (s.qpHeld k n = true → exec .ethIncomingWrite s = .next s ∧ exec .ethIncomingRead s = .next s ∧ exec .ethIncomingSend s = .next s) ∧
    (s.qpHeld k n = false → s.inp.flag = true → exec .ethIncomingWrite s = .next (s.ethAnswer 2 []) ∧ exec .ethIncomingRead s = .next (s.ethAnswer 2 [])
      ∧ exec .ethIncomingSend s = .next (s.ethAnswer 2 [])) ∧
    (s.qpHeld k n = false → s.inp.flag = false → s.inp.value ≠ qpRkey e →
      exec .ethIncomingWrite s = .next (s.ethAnswer 1 []) ∧ exec .ethIncomingRead s = .next (s.ethAnswer 1 [])) ∧
    (s.qpHeld k n = false → s.inp.flag = false → s.inp.value = qpRkey e →
      (∀ ls, s.keysOf (kWho (qpAsid e)) s.inp.addr .write s.inp.bytes.length = .ok ls → (∀ l ∈ ls, s.owned l.key = false) →
        let cells := ls.zipWith (fun l b => (l.key, b)) s.inp.bytes
        let good := ((cellBlocks 32 cells).filter fun b => !s.badCells (qpAsid e) b).flatten
        (s.badSector (qpAsid e) cells = false →
          exec .ethIncomingWrite s = .next ((s.performBy (ethAgent k n) {} [] none false good).ethAnswer 0 [])) ∧
        (s.badSector (qpAsid e) cells = true → exec .ethIncomingWrite s = .next ((({ s with
          ues := s.ues ++ [{ asid := qpAsid e, va := s.inp.addr }] } : State).performBy (ethAgent k n) {} [] none false good).ethAnswer 0 []))) ∧
      (∀ v, s.ethOwned (qpAsid e) s.inp.addr s.inp.len = false → s.kRead (qpAsid e) s.inp.addr s.inp.len = .ok v →
        exec .ethIncomingRead s = .next (s.ethAnswer 0 (bytesOf s.inp.len v)))) ∧
    (let slot := bits e 319 256 + 4096 * (qpRqHead e % 2 ^ bits e 25 22)
     let len := s.inp.bytes.length
     s.qpHeld k n = false → s.inp.flag = false →
      (4088 < len ∨ bits e 25 22 = 0 → exec .ethIncomingSend s = .next (s.ethAnswer 2 [])) ∧
      (len ≤ 4088 → bits e 25 22 ≠ 0 → s.ethOwned (qpAsid e) slot (8 + len) = false →
      s.ethOwned (qpAsid e) (bits e 383 320) 8 = false →
      (∀ w, s.kRead (qpAsid e) slot 8 = .ok w → w.testBit 63 = true → exec .ethIncomingSend s = .next (s.ethAnswer 3 [])) ∧
      (∀ w s1 s2 s4, s.kRead (qpAsid e) slot 8 = .ok w → w.testBit 63 = false →
        s.ethWrite k n (qpAsid e) (slot + 8) s.inp.bytes = .ok s1 → s1.ethWrite k n (qpAsid e) slot (bytesOf 8 (2 ^ 63 + len)) = .ok s2 →
        (s2.qpWrite k n 28 (bytesOf 4 (qpRqHead e + 1))).semAdd k n (qpAsid e) (bits e 383 320) 1 = some s4 →
        exec .ethIncomingSend s = .next (s4.ethAnswer 0 []))))) ∧
  ∀ s : State, s.inp.port < 6 → exec .ethCongestionNotification s = .next { s with dev := { s.dev with
    ethRate := Tab.set s.dev.ethRate s.inp.port (Tab.get s.dev.ethRate s.inp.port 0 + 1) } }

/-- With the supplies back POWER_UP gives the reset state with the flash and the memory of hosts and peers kept, and
before the device is ready and while its clocks run it carries out the present phase; a phase that overruns ends
power-up in failure; phase 5 zeroes the package's memory and no host's; SUPPLIES_REMOVED keeps the flash and that
memory alone and leaves a copy that was being written invalid, and RECORD_REWRITE_DONE completes one; the six
attestation requests are answered on a port that has negotiated what they need; a base die at 85 degrees holds its
stack until below 80, and slows its engines from 80 up; a course at 95 that is fenced or beside which another is
free is skipped, any other steps the clock down, and the clock steps up again only when no course keeps it down;
POWER_THROTTLE moves by one step; THERMAL_SHUTDOWN stops every clock. The model's own: a power-up phase is one event
whose input is what its tests find (notes/assumptions/49.md, DEDUCED), a phase that overruns without a code of its
own reports FAIL 0 (notes/assumptions/68.md, DESIGN CHOICE), and signatures and digests are constants without a body
(notes/assumptions/19.md, DESIGN CHOICE). -/
def Obligations.PowerAndAttestationEvents : Prop :=
  (∀ s : State,
    (s.dev.supply = false → exec .powerUp s = .next { State.reset with
      turns := s.turns, free := s.free, mem := s.farMem, ue := s.farUe, dev := { flash := s.dev.flash, refused := s.dev.refused } }) ∧
    (∀ a, linkOfKey a = none → Mem.read s.phase5.mem a = 0) ∧
    (s.MemOk → ∀ a, linkOfKey a ≠ none → Mem.read s.phase5.mem a = Mem.read s.mem a) ∧
    (s.dev.supply = true → s.dev.ready = false → s.dev.halted = false → s.dev.phase < 7 →
      exec .powerUp s = .next (([if s.inp.flag then s.learnFlash else s.phase0, s.phase1, s.phase2, s.phase3, s.phase4, s.phase5, s.phase6] : List State).getD s.dev.phase s))) ∧
  (∀ s : State, s.dev.ready = false → s.dev.phase ≤ 6 → ∃ t, exec .powerUpPhaseTimeout s = .next t ∧ t.dev.phase = 7 ∧
    (s.dev.phase = 0 → t.dev.failCode = if s.inp.flag then 2 else 1) ∧ (s.dev.phase = 3 → t.dev.failCode = 3)
      ∧ (s.dev.phase = 4 → t.dev.failCode = 4) ∧ t.mem = s.mem ∧ t.cores = s.cores) ∧
  (∀ (s : State) (i : Nat) (bs : List Byte), s.dev.flash.writing = some (i, bs) →
    exec .recordRewriteDone s = .next { s with dev := { s.dev with flash := { s.dev.flash with
      writing := none, copies := s.dev.flash.copies.set i bs } } } ∧
    ∃ t, exec .suppliesRemoved s = .next t ∧ t.dev.flash.copies = s.dev.flash.copies.set i tornCopy ∧ (∀ id, recordValid id tornCopy = false) ∧ t.dev.flash.images = s.dev.flash.images) ∧
  (∀ s : State, ∃ t, exec .suppliesRemoved s = .next t ∧ t.dev.supply = false ∧ t.mem = s.farMem ∧ t.cores = [] ∧ t.engines = []
    ∧ t.ctxs = [] ∧ t.ks = State.reset.ks ∧ t.xi = State.reset.xi
    ∧ (s.dev.flash.writing = none → t.dev.flash.copies = s.dev.flash.copies)) ∧
  (∀ s : State, s.inp.port < 2 → s.dev.ready = true → s.dev.idfail = false →
    let p := s.inp.port
    let have_ := Tab.get s.dev.spdm p 0
    let answer := fun (next req : Nat) (body : List Nat) =>
      ({ s with dev := { s.dev with spdm := Tab.set s.dev.spdm p next } } : State).send ([11, p, req] ++ body)
    exec .getVersion s = .next (answer 1 0x84 [0x12]) ∧
    (1 ≤ have_ → exec .getCapabilities s = .next (answer 2 0xE1 [])) ∧
    (2 ≤ have_ → exec .negotiateAlgorithms s = .next (answer 3 0xE3 [25519, 512])) ∧
    (have_ < 1 → exec .getCapabilities s = .next (s.send [11, p, 0x7F, 0xE1])) ∧
    (3 ≤ have_ →
      exec .getDigests s = .next (answer have_ 0x81 ((Config.sha512 s.dev.flash.chain).map (·.toNat))) ∧
      (s.inp.code = 0 → exec .getCertificate s = .next (answer have_ 0x82 (s.dev.flash.chain.map (·.toNat)))) ∧
      (1 ≤ s.inp.code → s.inp.code ≤ 5 → s.inp.flag = false →
        exec .getMeasurements s = .next (answer have_ 0xE0 ((s.measurement s.inp.code).map (·.toNat)))) ∧
      (s.inp.code = 255 → s.inp.flag = true →
        let ms := s.measurement 1 ++ s.measurement 2 ++ s.measurement 3 ++ s.measurement 4 ++ s.measurement 5
        exec .getMeasurements s = .next (answer have_ 0xE0 ((ms ++ Config.sign s.dev.flash.ident (ms ++ s.inp.bytes)).map (·.toNat)))))) ∧
  (∀ s : State, s.inp.code = 1 → s.inp.ident < 8 →
    ∃ t, exec .sensorSample s = .next t ∧ (85 ≤ s.inp.value → t.dev.dieHold.testBit s.inp.ident = true) ∧
      (s.inp.value < 80 → s.dev.dieHold < 256 → t.dev.dieHold.testBit s.inp.ident = false) ∧
      (80 ≤ s.inp.value → s.inp.value < 85 → t.dev.dieHold = s.dev.dieHold) ∧
      (80 ≤ s.inp.value → t.dev.dieSlow.testBit s.inp.ident = true) ∧
      (s.inp.value < 80 → s.dev.dieSlow < 256 → t.dev.dieSlow.testBit s.inp.ident = false) ∧
      ∀ i, i < 8 → i ≠ s.inp.ident → t.dev.dieHold.testBit i = s.dev.dieHold.testBit i) ∧
  (∀ s : State, s.inp.code = 0 → s.inp.ident < 4 → s.cur.core < 144 →
    let i := s.inp.ident
    let m := s.me.mat
    let t := s.courseSample s.cur.core i s.inp.value s.inp.len
    let clock := fun (u : State) => Tab.get u.dev.clocks s.cur.core 2400
    let skips := m.fenced.testBit i = true ∨ ∃ j, j < 4 ∧ j ≠ i ∧ m.fenced.testBit j = false ∧ m.heat.testBit j = false
    exec .sensorSample s = .next t ∧
    (95 ≤ s.inp.value → skips → (t.core s.cur.core).mat.heat = m.heat ||| 2 ^ i ∧ clock t = clock s) ∧
    (95 ≤ s.inp.value → ¬ skips → 1 ≤ s.inp.len → clock t = max 1200 (clock s - 600)) ∧
    (s.inp.value < 90 → 1 ≤ s.inp.len →
      (t.core s.cur.core).mat.heat = m.heat &&& (15 - 2 ^ i) ∧
      (Tab.get t.dev.slowed s.cur.core 0 ≠ 0 → clock t = clock s) ∧
      (Tab.get t.dev.slowed s.cur.core 0 = 0 → m.fenced.testBit i = false → clock t = min 2400 (clock s + 600)))) ∧
  (∀ s : State,
    (s.inp.flag = true → exec .powerThrottle s = .next { s with dev := { s.dev with powerSteps := min 4 (s.dev.powerSteps + 1) } }) ∧
    (s.inp.flag = false → exec .powerThrottle s = .next { s with dev := { s.dev with powerSteps := s.dev.powerSteps - 1 } })) ∧
  ∀ s : State, (s.inp.code = 0 ∧ 115 ≤ s.inp.value ∨ s.inp.code = 1 ∧ 105 ≤ s.inp.value ∨
      1 < s.inp.code ∧ (s.inp.value < 640 ∨ 720 < s.inp.value)) →
    exec .thermalShutdown s = .next { s with dev := { s.dev with halted := true, therm := true, failCode := 5, phase := 7 } }

/-- In the state after reset the memory is in its canonical form and every byte reads zero, the supplies are in range
and the clocks run; no core is enabled or runs and no engine runs; in every core PART reads 40, 32 and 24 units,
RCAP 8,192, FLAGS and RMODE.CTL of every stream 0, and every tile shape 0; DEVSTAT reads 0 and no queue is enabled.
That the memory of hosts and of peers reads zero too is the model's choice (notes/assumptions/5.md, DESIGN CHOICE). -/
def Obligations.ResetState : Prop :=
  let s := State.reset
  s.MemOk ∧ s.Powered ∧ (∀ k, Mem.read s.mem k = 0) ∧
    (∀ c, (s.core c).enabled = false ∧ (s.core c).running = false ∧ field (s.core c).part 6 0 = 40 ∧ field (s.core c).part 14 8 = 32
      ∧ field (s.core c).part 22 16 = 24 ∧ (s.core c).rcap = 8192
      ∧ (∀ k, ((s.core c).strm k).flags = 0 ∧ ((s.core c).strm k).ctl = 0) ∧ ∀ n, ((s.core c).tile n).shape = 0) ∧
    (∀ n, (s.engine n).running = false) ∧ s.devstat = 0 ∧ ∀ q, (s.queue q).en = false

/-- No two device physical addresses below 512 GiB share a DRAM location. After bytes have been written at one, where no
engine holds the rows and no sector is uncorrectable, a read of them gives them back, and a read of a range that
does not meet them gives what it gave before. -/
def Obligations.StripedMemoryReadsBack : Prop :=
  (∀ a b : Nat, a < 2 ^ 39 → b < 2 ^ 39 → striped a = striped b → a = b) ∧
  ∀ (s : State) (asid pa v n : Nat), s.MemOk → pa + n ≤ 2 ^ 39 →
    let cells := physCells pa (bytesOf n v)
    s.badCells asid cells = false → (∀ c ∈ cells, s.owned c.1 = false) →
    let t := s.physWrite asid pa (bytesOf n v)
    phys t.mem pa n = v % 2 ^ (8 * n) ∧
    (∀ qa m, qa + m ≤ 2 ^ 39 → (qa + m ≤ pa ∨ pa + n ≤ qa) → phys t.mem qa m = phys s.mem qa m) ∧ t.MemOk

/-- From every state whose memory lists its bytes at strictly rising keys and lists no zero byte, every step that
answers a next state, of whatever stream, engine or event, leaves the memory so; equal memories stay equal data. -/
def Obligations.StepKeepsMemoryCanonical : Prop := ∀ s t : State, s.MemOk → step s = .next t → t.MemOk
end

