-- ==== Sys2Proof/Laws/Memory.lean ====
section
/-! SUPPORT. Memory: reading after a write, and the canonical form that every operation keeps. -/

namespace Sys2Proof.Machine

/-! ### The canonical form -/

theorem Mem.wfFrom_cons (lo k : Nat) (b : Byte) (r : Mem) :
    Mem.wfFrom lo ((k, b) :: r) = true ↔ lo ≤ k ∧ b ≠ 0 ∧ Mem.wfFrom (k + 1) r = true := by
  simp [Mem.wfFrom, and_assoc]

/-- A memory above `hi` is one above every smaller bound. -/
theorem Mem.wfFrom_mono {lo hi : Nat} {m : Mem} (h : Mem.wfFrom hi m = true) (hl : lo ≤ hi) : Mem.wfFrom lo m = true := by
  cases m with
  | nil => rfl
  | cons p r =>
    obtain ⟨k, b⟩ := p
    rw [Mem.wfFrom_cons] at h ⊢
    exact ⟨by omega, h.2⟩

theorem Mem.wfFrom_write {lo k : Nat} {m : Mem} (b : Byte) (h : Mem.wfFrom lo m = true) (hk : lo ≤ k) :
    Mem.wfFrom lo (Mem.write m k b) = true := by
  induction m generalizing lo with
  | nil =>
    unfold Mem.write
    split
    · rfl
    · exact (Mem.wfFrom_cons ..).2 ⟨hk, by assumption, rfl⟩
  | cons p r ih =>
    obtain ⟨j, c⟩ := p
    rw [Mem.wfFrom_cons] at h
    obtain ⟨h1, h2, h3⟩ := h
    unfold Mem.write
    by_cases hkj : k < j
    · by_cases hb : b = 0
      · simp only [hkj, hb, ↓reduceIte]
        exact (Mem.wfFrom_cons ..).2 ⟨h1, h2, h3⟩
      · simp only [hkj, hb, ↓reduceIte]
        exact (Mem.wfFrom_cons ..).2 ⟨hk, hb, (Mem.wfFrom_cons ..).2 ⟨hkj, h2, h3⟩⟩
    · by_cases he : k = j
      · subst he
        by_cases hb : b = 0
        · simp only [hb, ↓reduceIte, Nat.lt_irrefl]
          exact Mem.wfFrom_mono h3 (by omega)
        · simp only [hb, ↓reduceIte, Nat.lt_irrefl]
          exact (Mem.wfFrom_cons ..).2 ⟨hk, hb, h3⟩
      · simp only [hkj, he, ↓reduceIte]
        exact (Mem.wfFrom_cons ..).2 ⟨h1, h2, ih h3 (by omega)⟩

/-- Writing a byte keeps the canonical form. -/
theorem Mem.wf_write {m : Mem} (k : Nat) (b : Byte) (h : m.wf = true) : (Mem.write m k b).wf = true :=
  Mem.wfFrom_write b h (Nat.zero_le k)

/-- Writing cells keeps the canonical form. -/
theorem Mem.wf_writeCells {m : Mem} (cells : List Host.Cell) (h : m.wf = true) : (m.writeCells cells).wf = true := by
  unfold Mem.writeCells
  induction cells generalizing m with
  | nil => exact h
  | cons c r ih => exact ih (Mem.wf_write _ _ h)

theorem Mem.wfFrom_filter {lo : Nat} {m : Mem} (p : Host.Cell → Bool) (h : Mem.wfFrom lo m = true) :
    Mem.wfFrom lo (m.filter p) = true := by
  induction m generalizing lo with
  | nil => rfl
  | cons q r ih =>
    obtain ⟨k, b⟩ := q
    rw [Mem.wfFrom_cons] at h
    by_cases hp : p (k, b) = true
    · rw [List.filter_cons_of_pos hp]
      exact (Mem.wfFrom_cons ..).2 ⟨h.1, h.2.1, ih h.2.2⟩
    · rw [List.filter_cons_of_neg hp]
      exact Mem.wfFrom_mono (ih h.2.2) (by omega)

/-- Clearing a range of keys keeps the canonical form. -/
theorem Mem.wf_clear {m : Mem} (lo hi : Nat) (h : m.wf = true) : (m.clear lo hi).wf = true :=
  Mem.wfFrom_filter _ h

/-! ### Reading after a write -/

/-- Below every listed key a canonical memory reads zero. -/
theorem Mem.read_below {lo k : Nat} {m : Mem} (h : Mem.wfFrom lo m = true) (hk : k < lo) : Mem.read m k = 0 := by
  cases m with
  | nil => rfl
  | cons p r =>
    obtain ⟨j, b⟩ := p
    rw [Mem.wfFrom_cons] at h
    simp [Mem.read, show j ≠ k by omega, show k < j by omega]

theorem Mem.read_writeFrom {lo : Nat} {m : Mem} (h : Mem.wfFrom lo m = true) (k : Nat) (b : Byte) (a : Nat) :
    Mem.read (Mem.write m k b) a = if a = k then b else Mem.read m a := by
  induction m generalizing lo with
  | nil =>
    unfold Mem.write
    by_cases hb : b = 0#8
    · simp [hb, Mem.read]
    · by_cases ha : a = k
      · simp [hb, ha, Mem.read]
      · simp [hb, ha, Ne.symm ha, Mem.read]
  | cons p r ih =>
    obtain ⟨j, c⟩ := p
    rw [Mem.wfFrom_cons] at h
    obtain ⟨-, -, h3⟩ := h
    unfold Mem.write
    by_cases hkj : k < j
    · by_cases hb : b = 0#8
      · by_cases ha : a = k
        · subst ha
          simp [hkj, hb, Mem.read, show j ≠ a by omega]
        · simp [hkj, hb, ha]
      · by_cases ha : a = k
        · simp [hkj, hb, ha, Mem.read]
        · by_cases hak : a < k
          · simp [hkj, hb, ha, Ne.symm ha, hak, Mem.read, show j ≠ a by omega, show a < j by omega]
          · simp [hkj, hb, ha, Ne.symm ha, hak, Mem.read]
    · by_cases he : k = j
      · subst he
        by_cases hb : b = 0#8
        · by_cases ha : a = k
          · subst ha
            simp [hb, Mem.read_below h3 (Nat.lt_succ_self a)]
          · by_cases hak : a < k
            · simp [hb, ha, Ne.symm ha, hak, Mem.read, Mem.read_below h3 (show a < k + 1 by omega)]
            · simp [hb, ha, Ne.symm ha, hak, Mem.read]
        · by_cases ha : a = k
          · simp [hb, ha, Mem.read]
          · simp [hb, ha, Ne.symm ha, Mem.read]
      · by_cases haj : a = j
        · subst haj
          simp [hkj, he, Mem.read, Ne.symm he]
        · by_cases hlt : a < j
          · simp [hkj, he, Mem.read, Ne.symm haj, hlt, show a ≠ k by omega]
          · simp [hkj, he, Mem.read, Ne.symm haj, hlt, ih h3]

/-- A byte reads as it was last written, and no other byte changes. -/
theorem Mem.read_write {m : Mem} (h : m.wf = true) (k : Nat) (b : Byte) (a : Nat) :
    Mem.read (Mem.write m k b) a = if a = k then b else Mem.read m a := Mem.read_writeFrom h k b a

/-- Writing cells changes no byte that none of them names. -/
theorem Mem.read_writeCells {m : Mem} (h : m.wf = true) (cells : List Host.Cell) (a : Nat)
    (ha : ∀ c ∈ cells, c.1 ≠ a) : Mem.read (m.writeCells cells) a = Mem.read m a := by
  unfold Mem.writeCells
  induction cells generalizing m with
  | nil => rfl
  | cons c r ih =>
    rw [List.foldl_cons, ih (Mem.wf_write _ _ h) (fun x hx => ha x (List.mem_cons_of_mem _ hx)), Mem.read_write h,
      if_neg (Ne.symm (ha c List.mem_cons_self))]

/-- Clearing a range reads zero there and as before elsewhere. -/
theorem Mem.read_clearFrom {from_ : Nat} {m : Mem} (h : Mem.wfFrom from_ m = true) (lo hi a : Nat) :
    Mem.read (m.clear lo hi) a = if lo ≤ a ∧ a < hi then 0 else Mem.read m a := by
  unfold Mem.clear
  induction m generalizing from_ with
  | nil => simp [Mem.read]
  | cons p r ih =>
    obtain ⟨j, b⟩ := p
    rw [Mem.wfFrom_cons] at h
    have ih := ih h.2.2
    by_cases hj : lo ≤ j ∧ j < hi
    · have hf : decide (j < lo) || decide (hi ≤ j) = false := by simp; omega
      rw [List.filter_cons_of_neg (by simpa using hj), ih]
      by_cases ha : lo ≤ a ∧ a < hi
      · simp [ha]
      · simp only [ha, ↓reduceIte]
        by_cases haj : j = a
        · subst haj; exact absurd hj ha
        · by_cases hlt : a < j
          · simp [Mem.read, haj, hlt, Mem.read_below h.2.2 (show a < j + 1 by omega)]
          · simp [Mem.read, haj, hlt]
    · rw [List.filter_cons_of_pos (by simp; omega)]
      by_cases haj : j = a
      · subst haj; simp [Mem.read, hj]
      · by_cases hlt : a < j
        · by_cases ha : lo ≤ a ∧ a < hi <;> simp [Mem.read, haj, hlt, ha]
        · simp [Mem.read, haj, hlt, ih]

theorem Mem.read_clear {m : Mem} (h : m.wf = true) (lo hi a : Nat) :
    Mem.read (m.clear lo hi) a = if lo ≤ a ∧ a < hi then 0 else Mem.read m a := Mem.read_clearFrom h lo hi a

end Sys2Proof.Machine
end

