-- ==== Sys2Proof/Laws/PerInstr.lean ====
section
/-! SUPPORT. Statements made instruction by instruction. Family Enc: the encoding of a well-formed instruction is one 32-bit word
(spec/03 R66; spec/09 R248). -/

section

set_option Elab.async false
set_option linter.unusedSimpArgs false

namespace Sys2Proof.Laws.Enc

/-- A well-formed instruction encodes to a word of 32 bits. -/
def Statement (i : Instr) : Prop := ∀ k, i.wf k = true → encode i < 2 ^ 32

/-- A bit of an encoding is 0 or 1. -/
theorem bit_le (b : Bool) : b2n b ≤ 1 := by cases b <;> simp [b2n]

/-- A source field of any kind fits in six bits. -/
theorem src_lt (x : Src) (h : x.isS = true ∨ x.isV = true ∨ x.isW = true ∨ x.isX = true ∨ x.isM = true ∨ x.isTQ = true) :
    x.code < 64 := by
  cases x <;> simp [Src.isS, Src.isV, Src.isW, Src.isX, Src.isM, Src.isTQ, Src.code] at * <;> omega

/-- The even register of a pair is at most 30. -/
theorem pair_le (n : Nat) (h : pairReg n = true) : n ≤ 30 := by simp [pairReg] at h; omega

/-- A system register number is at most 64. -/
theorem sys_le (n : Nat) (h : isSysReg n = true) : n ≤ 64 := by simp [isSysReg] at h; omega

/-- A destination tag of VCVT is at most 13. -/
theorem cvt_le (n : Nat) (h : cvtTag n = true) : n ≤ 13 := by simp [cvtTag] at h; omega

/-- A count source of LOOP fits in six bits. -/
theorem loop_lt (k : Strm) (x : Src) (h : loopSrc k x = true) : x.code < 64 := by
  cases k <;> cases x <;> simp [loopSrc, Src.isS, Src.code] at * <;> omega

theorem add (f : RR) : Statement (.add f) := by
  intro form h
  rcases form with (_|_|_|_)|_
  · replace h : (f.ok || false) = true := h
    simp only [Bool.or_false, Bool.false_or, Bool.and_eq_true, Bool.or_eq_true, decide_eq_true_eq, beq_iff_eq, bne_iff_ne, RR.ok] at h
    change 0x04000000 + putRR f < 2 ^ 32; simp only [putRR]; have := bit_le f.w; have := src_lt f.a (by simp_all)
    have := src_lt f.b (by simp_all); have := bit_le f.e; omega
  · cases h
  · cases h
  · cases h
  · cases h

theorem sub (f : RR) : Statement (.sub f) := by
  intro form h
  rcases form with (_|_|_|_)|_
  · replace h : (f.ok || false) = true := h
    simp only [Bool.or_false, Bool.false_or, Bool.and_eq_true, Bool.or_eq_true, decide_eq_true_eq, beq_iff_eq, bne_iff_ne, RR.ok] at h
    change 0x04000002 + putRR f < 2 ^ 32; simp only [putRR]; have := bit_le f.w; have := src_lt f.a (by simp_all)
    have := src_lt f.b (by simp_all); have := bit_le f.e; omega
  · cases h
  · cases h
  · cases h
  · cases h

theorem mul (f : RR) : Statement (.mul f) := by
  intro form h
  rcases form with (_|_|_|_)|_
  · replace h : (f.ok || false) = true := h
    simp only [Bool.or_false, Bool.false_or, Bool.and_eq_true, Bool.or_eq_true, decide_eq_true_eq, beq_iff_eq, bne_iff_ne, RR.ok] at h
    change 0x04000004 + putRR f < 2 ^ 32; simp only [putRR]; have := bit_le f.w; have := src_lt f.a (by simp_all)
    have := src_lt f.b (by simp_all); have := bit_le f.e; omega
  · cases h
  · cases h
  · cases h
  · cases h

theorem mulh (f : RR) : Statement (.mulh f) := by
  intro form h
  rcases form with (_|_|_|_)|_
  · replace h : (f.ok || false) = true := h
    simp only [Bool.or_false, Bool.false_or, Bool.and_eq_true, Bool.or_eq_true, decide_eq_true_eq, beq_iff_eq, bne_iff_ne, RR.ok] at h
    change 0x04000006 + putRR f < 2 ^ 32; simp only [putRR]; have := bit_le f.w; have := src_lt f.a (by simp_all)
    have := src_lt f.b (by simp_all); have := bit_le f.e; omega
  · cases h
  · cases h
  · cases h
  · cases h

theorem div (f : RR) : Statement (.div f) := by
  intro form h
  rcases form with (_|_|_|_)|_
  · replace h : (f.ok || false) = true := h
    simp only [Bool.or_false, Bool.false_or, Bool.and_eq_true, Bool.or_eq_true, decide_eq_true_eq, beq_iff_eq, bne_iff_ne, RR.ok] at h
    change 0x04000008 + putRR f < 2 ^ 32; simp only [putRR]; have := bit_le f.w; have := src_lt f.a (by simp_all)
    have := src_lt f.b (by simp_all); have := bit_le f.e; omega
  · cases h
  · cases h
  · cases h
  · cases h

theorem rem (f : RR) : Statement (.rem f) := by
  intro form h
  rcases form with (_|_|_|_)|_
  · replace h : (f.ok || false) = true := h
    simp only [Bool.or_false, Bool.false_or, Bool.and_eq_true, Bool.or_eq_true, decide_eq_true_eq, beq_iff_eq, bne_iff_ne, RR.ok] at h
    change 0x0400000A + putRR f < 2 ^ 32; simp only [putRR]; have := bit_le f.w; have := src_lt f.a (by simp_all)
    have := src_lt f.b (by simp_all); have := bit_le f.e; omega
  · cases h
  · cases h
  · cases h
  · cases h

theorem and (f : RR) : Statement (.and f) := by
  intro form h
  rcases form with (_|_|_|_)|_
  · replace h : (f.ok || false) = true := h
    simp only [Bool.or_false, Bool.false_or, Bool.and_eq_true, Bool.or_eq_true, decide_eq_true_eq, beq_iff_eq, bne_iff_ne, RR.ok] at h
    change 0x0400000C + putRR f < 2 ^ 32; simp only [putRR]; have := bit_le f.w; have := src_lt f.a (by simp_all)
    have := src_lt f.b (by simp_all); have := bit_le f.e; omega
  · cases h
  · cases h
  · cases h
  · cases h

theorem or (f : RR) : Statement (.or f) := by
  intro form h
  rcases form with (_|_|_|_)|_
  · replace h : (f.ok || false) = true := h
    simp only [Bool.or_false, Bool.false_or, Bool.and_eq_true, Bool.or_eq_true, decide_eq_true_eq, beq_iff_eq, bne_iff_ne, RR.ok] at h
    change 0x0400000E + putRR f < 2 ^ 32; simp only [putRR]; have := bit_le f.w; have := src_lt f.a (by simp_all)
    have := src_lt f.b (by simp_all); have := bit_le f.e; omega
  · cases h
  · cases h
  · cases h
  · cases h

theorem xor (f : RR) : Statement (.xor f) := by
  intro form h
  rcases form with (_|_|_|_)|_
  · replace h : (f.ok || false) = true := h
    simp only [Bool.or_false, Bool.false_or, Bool.and_eq_true, Bool.or_eq_true, decide_eq_true_eq, beq_iff_eq, bne_iff_ne, RR.ok] at h
    change 0x04000010 + putRR f < 2 ^ 32; simp only [putRR]; have := bit_le f.w; have := src_lt f.a (by simp_all)
    have := src_lt f.b (by simp_all); have := bit_le f.e; omega
  · cases h
  · cases h
  · cases h
  · cases h

theorem andn (f : RR) : Statement (.andn f) := by
  intro form h
  rcases form with (_|_|_|_)|_
  · replace h : (f.ok || false) = true := h
    simp only [Bool.or_false, Bool.false_or, Bool.and_eq_true, Bool.or_eq_true, decide_eq_true_eq, beq_iff_eq, bne_iff_ne, RR.ok] at h
    change 0x04000012 + putRR f < 2 ^ 32; simp only [putRR]; have := bit_le f.w; have := src_lt f.a (by simp_all)
    have := src_lt f.b (by simp_all); have := bit_le f.e; omega
  · cases h
  · cases h
  · cases h
  · cases h

theorem shl (f : RR) : Statement (.shl f) := by
  intro form h
  rcases form with (_|_|_|_)|_
  · replace h : (f.ok || false) = true := h
    simp only [Bool.or_false, Bool.false_or, Bool.and_eq_true, Bool.or_eq_true, decide_eq_true_eq, beq_iff_eq, bne_iff_ne, RR.ok] at h
    change 0x04000014 + putRR f < 2 ^ 32; simp only [putRR]; have := bit_le f.w; have := src_lt f.a (by simp_all)
    have := src_lt f.b (by simp_all); have := bit_le f.e; omega
  · cases h
  · cases h
  · cases h
  · cases h

theorem shr (f : RR) : Statement (.shr f) := by
  intro form h
  rcases form with (_|_|_|_)|_
  · replace h : (f.ok || false) = true := h
    simp only [Bool.or_false, Bool.false_or, Bool.and_eq_true, Bool.or_eq_true, decide_eq_true_eq, beq_iff_eq, bne_iff_ne, RR.ok] at h
    change 0x04000016 + putRR f < 2 ^ 32; simp only [putRR]; have := bit_le f.w; have := src_lt f.a (by simp_all)
    have := src_lt f.b (by simp_all); have := bit_le f.e; omega
  · cases h
  · cases h
  · cases h
  · cases h

theorem shra (f : RR) : Statement (.shra f) := by
  intro form h
  rcases form with (_|_|_|_)|_
  · replace h : (f.ok || false) = true := h
    simp only [Bool.or_false, Bool.false_or, Bool.and_eq_true, Bool.or_eq_true, decide_eq_true_eq, beq_iff_eq, bne_iff_ne, RR.ok] at h
    change 0x04000018 + putRR f < 2 ^ 32; simp only [putRR]; have := bit_le f.w; have := src_lt f.a (by simp_all)
    have := src_lt f.b (by simp_all); have := bit_le f.e; omega
  · cases h
  · cases h
  · cases h
  · cases h

theorem rot (f : RR) : Statement (.rot f) := by
  intro form h
  rcases form with (_|_|_|_)|_
  · replace h : (f.ok || false) = true := h
    simp only [Bool.or_false, Bool.false_or, Bool.and_eq_true, Bool.or_eq_true, decide_eq_true_eq, beq_iff_eq, bne_iff_ne, RR.ok] at h
    change 0x0400001A + putRR f < 2 ^ 32; simp only [putRR]; have := bit_le f.w; have := src_lt f.a (by simp_all)
    have := src_lt f.b (by simp_all); have := bit_le f.e; omega
  · cases h
  · cases h
  · cases h
  · cases h

theorem min (f : RR) : Statement (.min f) := by
  intro form h
  rcases form with (_|_|_|_)|_
  · replace h : (f.ok || false) = true := h
    simp only [Bool.or_false, Bool.false_or, Bool.and_eq_true, Bool.or_eq_true, decide_eq_true_eq, beq_iff_eq, bne_iff_ne, RR.ok] at h
    change 0x0400001C + putRR f < 2 ^ 32; simp only [putRR]; have := bit_le f.w; have := src_lt f.a (by simp_all)
    have := src_lt f.b (by simp_all); have := bit_le f.e; omega
  · cases h
  · cases h
  · cases h
  · cases h

theorem max (f : RR) : Statement (.max f) := by
  intro form h
  rcases form with (_|_|_|_)|_
  · replace h : (f.ok || false) = true := h
    simp only [Bool.or_false, Bool.false_or, Bool.and_eq_true, Bool.or_eq_true, decide_eq_true_eq, beq_iff_eq, bne_iff_ne, RR.ok] at h
    change 0x0400001E + putRR f < 2 ^ 32; simp only [putRR]; have := bit_le f.w; have := src_lt f.a (by simp_all)
    have := src_lt f.b (by simp_all); have := bit_le f.e; omega
  · cases h
  · cases h
  · cases h
  · cases h

theorem seteq (f : RR) : Statement (.seteq f) := by
  intro form h
  rcases form with (_|_|_|_)|_
  · replace h : (f.ok || false) = true := h
    simp only [Bool.or_false, Bool.false_or, Bool.and_eq_true, Bool.or_eq_true, decide_eq_true_eq, beq_iff_eq, bne_iff_ne, RR.ok] at h
    change 0x04000020 + putRR f < 2 ^ 32; simp only [putRR]; have := bit_le f.w; have := src_lt f.a (by simp_all)
    have := src_lt f.b (by simp_all); have := bit_le f.e; omega
  · cases h
  · cases h
  · cases h
  · cases h

theorem setlt (f : RR) : Statement (.setlt f) := by
  intro form h
  rcases form with (_|_|_|_)|_
  · replace h : (f.ok || false) = true := h
    simp only [Bool.or_false, Bool.false_or, Bool.and_eq_true, Bool.or_eq_true, decide_eq_true_eq, beq_iff_eq, bne_iff_ne, RR.ok] at h
    change 0x04000022 + putRR f < 2 ^ 32; simp only [putRR]; have := bit_le f.w; have := src_lt f.a (by simp_all)
    have := src_lt f.b (by simp_all); have := bit_le f.e; omega
  · cases h
  · cases h
  · cases h
  · cases h

theorem setltu (f : RR) : Statement (.setltu f) := by
  intro form h
  rcases form with (_|_|_|_)|_
  · replace h : (f.ok || false) = true := h
    simp only [Bool.or_false, Bool.false_or, Bool.and_eq_true, Bool.or_eq_true, decide_eq_true_eq, beq_iff_eq, bne_iff_ne, RR.ok] at h
    change 0x04000024 + putRR f < 2 ^ 32; simp only [putRR]; have := bit_le f.w; have := src_lt f.a (by simp_all)
    have := src_lt f.b (by simp_all); have := bit_le f.e; omega
  · cases h
  · cases h
  · cases h
  · cases h

theorem popc (f : R1) : Statement (.popc f) := by
  intro form h
  rcases form with (_|_|_|_)|_
  · replace h : (f.ok || false) = true := h
    simp only [Bool.or_false, Bool.false_or, Bool.and_eq_true, Bool.or_eq_true, decide_eq_true_eq, beq_iff_eq, bne_iff_ne, R1.ok] at h
    change 0x04000026 + putR1 f < 2 ^ 32; simp only [putR1]; have := bit_le f.w; have := src_lt f.a (by simp_all)
    have := bit_le f.e; omega
  · cases h
  · cases h
  · cases h
  · cases h

theorem clz (f : R1) : Statement (.clz f) := by
  intro form h
  rcases form with (_|_|_|_)|_
  · replace h : (f.ok || false) = true := h
    simp only [Bool.or_false, Bool.false_or, Bool.and_eq_true, Bool.or_eq_true, decide_eq_true_eq, beq_iff_eq, bne_iff_ne, R1.ok] at h
    change 0x04000028 + putR1 f < 2 ^ 32; simp only [putR1]; have := bit_le f.w; have := src_lt f.a (by simp_all)
    have := bit_le f.e; omega
  · cases h
  · cases h
  · cases h
  · cases h

theorem ctz (f : R1) : Statement (.ctz f) := by
  intro form h
  rcases form with (_|_|_|_)|_
  · replace h : (f.ok || false) = true := h
    simp only [Bool.or_false, Bool.false_or, Bool.and_eq_true, Bool.or_eq_true, decide_eq_true_eq, beq_iff_eq, bne_iff_ne, R1.ok] at h
    change 0x0400002A + putR1 f < 2 ^ 32; simp only [putR1]; have := bit_le f.w; have := src_lt f.a (by simp_all)
    have := bit_le f.e; omega
  · cases h
  · cases h
  · cases h
  · cases h

theorem brev (f : R1) : Statement (.brev f) := by
  intro form h
  rcases form with (_|_|_|_)|_
  · replace h : (f.ok || false) = true := h
    simp only [Bool.or_false, Bool.false_or, Bool.and_eq_true, Bool.or_eq_true, decide_eq_true_eq, beq_iff_eq, bne_iff_ne, R1.ok] at h
    change 0x0400002C + putR1 f < 2 ^ 32; simp only [putR1]; have := bit_le f.w; have := src_lt f.a (by simp_all)
    have := bit_le f.e; omega
  · cases h
  · cases h
  · cases h
  · cases h

theorem bext (f : RR) : Statement (.bext f) := by
  intro form h
  rcases form with (_|_|_|_)|_
  · replace h : (f.ok || false) = true := h
    simp only [Bool.or_false, Bool.false_or, Bool.and_eq_true, Bool.or_eq_true, decide_eq_true_eq, beq_iff_eq, bne_iff_ne, RR.ok] at h
    change 0x08000000 + putRR f < 2 ^ 32; simp only [putRR]; have := bit_le f.w; have := src_lt f.a (by simp_all)
    have := src_lt f.b (by simp_all); have := bit_le f.e; omega
  · cases h
  · cases h
  · cases h
  · cases h

theorem bextu (f : RR) : Statement (.bextu f) := by
  intro form h
  rcases form with (_|_|_|_)|_
  · replace h : (f.ok || false) = true := h
    simp only [Bool.or_false, Bool.false_or, Bool.and_eq_true, Bool.or_eq_true, decide_eq_true_eq, beq_iff_eq, bne_iff_ne, RR.ok] at h
    change 0x08000002 + putRR f < 2 ^ 32; simp only [putRR]; have := bit_le f.w; have := src_lt f.a (by simp_all)
    have := src_lt f.b (by simp_all); have := bit_le f.e; omega
  · cases h
  · cases h
  · cases h
  · cases h

theorem bins (f : RR) : Statement (.bins f) := by
  intro form h
  rcases form with (_|_|_|_)|_
  · replace h : (f.ok || false) = true := h
    simp only [Bool.or_false, Bool.false_or, Bool.and_eq_true, Bool.or_eq_true, decide_eq_true_eq, beq_iff_eq, bne_iff_ne, RR.ok] at h
    change 0x08000004 + putRR f < 2 ^ 32; simp only [putRR]; have := bit_le f.w; have := src_lt f.a (by simp_all)
    have := src_lt f.b (by simp_all); have := bit_le f.e; omega
  · cases h
  · cases h
  · cases h
  · cases h

theorem fshl (f : RR) : Statement (.fshl f) := by
  intro form h
  rcases form with (_|_|_|_)|_
  · replace h : (f.ok || false) = true := h
    simp only [Bool.or_false, Bool.false_or, Bool.and_eq_true, Bool.or_eq_true, decide_eq_true_eq, beq_iff_eq, bne_iff_ne, RR.ok] at h
    change 0x08000006 + putRR f < 2 ^ 32; simp only [putRR]; have := bit_le f.w; have := src_lt f.a (by simp_all)
    have := src_lt f.b (by simp_all); have := bit_le f.e; omega
  · cases h
  · cases h
  · cases h
  · cases h

theorem fshr (f : RR) : Statement (.fshr f) := by
  intro form h
  rcases form with (_|_|_|_)|_
  · replace h : (f.ok || false) = true := h
    simp only [Bool.or_false, Bool.false_or, Bool.and_eq_true, Bool.or_eq_true, decide_eq_true_eq, beq_iff_eq, bne_iff_ne, RR.ok] at h
    change 0x08000008 + putRR f < 2 ^ 32; simp only [putRR]; have := bit_le f.w; have := src_lt f.a (by simp_all)
    have := src_lt f.b (by simp_all); have := bit_le f.e; omega
  · cases h
  · cases h
  · cases h
  · cases h

theorem addi (f : RI) : Statement (.addi f) := by
  intro form h
  rcases form with (_|_|_|_)|_
  · replace h : (f.ok || false) = true := h
    simp only [Bool.or_false, Bool.false_or, Bool.and_eq_true, Bool.or_eq_true, decide_eq_true_eq, beq_iff_eq, bne_iff_ne, RI.ok] at h
    change 0x10000000 + putRI f < 2 ^ 32; simp only [putRI]; have := bit_le f.w; have := src_lt f.a (by simp_all)
    have := bit_le f.e; omega
  · cases h
  · cases h
  · cases h
  · cases h

theorem andi (f : RI) : Statement (.andi f) := by
  intro form h
  rcases form with (_|_|_|_)|_
  · replace h : (f.ok || false) = true := h
    simp only [Bool.or_false, Bool.false_or, Bool.and_eq_true, Bool.or_eq_true, decide_eq_true_eq, beq_iff_eq, bne_iff_ne, RI.ok] at h
    change 0x14000000 + putRI f < 2 ^ 32; simp only [putRI]; have := bit_le f.w; have := src_lt f.a (by simp_all)
    have := bit_le f.e; omega
  · cases h
  · cases h
  · cases h
  · cases h

theorem ori (f : RI) : Statement (.ori f) := by
  intro form h
  rcases form with (_|_|_|_)|_
  · replace h : (f.ok || false) = true := h
    simp only [Bool.or_false, Bool.false_or, Bool.and_eq_true, Bool.or_eq_true, decide_eq_true_eq, beq_iff_eq, bne_iff_ne, RI.ok] at h
    change 0x18000000 + putRI f < 2 ^ 32; simp only [putRI]; have := bit_le f.w; have := src_lt f.a (by simp_all)
    have := bit_le f.e; omega
  · cases h
  · cases h
  · cases h
  · cases h

theorem xori (f : RI) : Statement (.xori f) := by
  intro form h
  rcases form with (_|_|_|_)|_
  · replace h : (f.ok || false) = true := h
    simp only [Bool.or_false, Bool.false_or, Bool.and_eq_true, Bool.or_eq_true, decide_eq_true_eq, beq_iff_eq, bne_iff_ne, RI.ok] at h
    change 0x1C000000 + putRI f < 2 ^ 32; simp only [putRI]; have := bit_le f.w; have := src_lt f.a (by simp_all)
    have := bit_le f.e; omega
  · cases h
  · cases h
  · cases h
  · cases h

theorem shli (f : RSh) : Statement (.shli f) := by
  intro form h
  rcases form with (_|_|_|_)|_
  · replace h : (f.ok || false) = true := h
    simp only [Bool.or_false, Bool.false_or, Bool.and_eq_true, Bool.or_eq_true, decide_eq_true_eq, beq_iff_eq, bne_iff_ne, RSh.ok] at h
    change 0x20000000 + putRSh f < 2 ^ 32; simp only [putRSh]; have := bit_le f.w; have := src_lt f.a (by simp_all)
    have := bit_le f.e; omega
  · cases h
  · cases h
  · cases h
  · cases h

theorem shri (f : RSh) : Statement (.shri f) := by
  intro form h
  rcases form with (_|_|_|_)|_
  · replace h : (f.ok || false) = true := h
    simp only [Bool.or_false, Bool.false_or, Bool.and_eq_true, Bool.or_eq_true, decide_eq_true_eq, beq_iff_eq, bne_iff_ne, RSh.ok] at h
    change 0x24000000 + putRSh f < 2 ^ 32; simp only [putRSh]; have := bit_le f.w; have := src_lt f.a (by simp_all)
    have := bit_le f.e; omega
  · cases h
  · cases h
  · cases h
  · cases h

theorem shrai (f : RSh) : Statement (.shrai f) := by
  intro form h
  rcases form with (_|_|_|_)|_
  · replace h : (f.ok || false) = true := h
    simp only [Bool.or_false, Bool.false_or, Bool.and_eq_true, Bool.or_eq_true, decide_eq_true_eq, beq_iff_eq, bne_iff_ne, RSh.ok] at h
    change 0x28000000 + putRSh f < 2 ^ 32; simp only [putRSh]; have := bit_le f.w; have := src_lt f.a (by simp_all)
    have := bit_le f.e; omega
  · cases h
  · cases h
  · cases h
  · cases h

theorem roti (f : RSh) : Statement (.roti f) := by
  intro form h
  rcases form with (_|_|_|_)|_
  · replace h : (f.ok || false) = true := h
    simp only [Bool.or_false, Bool.false_or, Bool.and_eq_true, Bool.or_eq_true, decide_eq_true_eq, beq_iff_eq, bne_iff_ne, RSh.ok] at h
    change 0x2C000000 + putRSh f < 2 ^ 32; simp only [putRSh]; have := bit_le f.w; have := src_lt f.a (by simp_all)
    have := bit_le f.e; omega
  · cases h
  · cases h
  · cases h
  · cases h

theorem mini (f : RI) : Statement (.mini f) := by
  intro form h
  rcases form with (_|_|_|_)|_
  · replace h : (f.ok || false) = true := h
    simp only [Bool.or_false, Bool.false_or, Bool.and_eq_true, Bool.or_eq_true, decide_eq_true_eq, beq_iff_eq, bne_iff_ne, RI.ok] at h
    change 0x30000000 + putRI f < 2 ^ 32; simp only [putRI]; have := bit_le f.w; have := src_lt f.a (by simp_all)
    have := bit_le f.e; omega
  · cases h
  · cases h
  · cases h
  · cases h

theorem maxi (f : RI) : Statement (.maxi f) := by
  intro form h
  rcases form with (_|_|_|_)|_
  · replace h : (f.ok || false) = true := h
    simp only [Bool.or_false, Bool.false_or, Bool.and_eq_true, Bool.or_eq_true, decide_eq_true_eq, beq_iff_eq, bne_iff_ne, RI.ok] at h
    change 0x34000000 + putRI f < 2 ^ 32; simp only [putRI]; have := bit_le f.w; have := src_lt f.a (by simp_all)
    have := bit_le f.e; omega
  · cases h
  · cases h
  · cases h
  · cases h

theorem seteqi (f : RI) : Statement (.seteqi f) := by
  intro form h
  rcases form with (_|_|_|_)|_
  · replace h : (f.ok || false) = true := h
    simp only [Bool.or_false, Bool.false_or, Bool.and_eq_true, Bool.or_eq_true, decide_eq_true_eq, beq_iff_eq, bne_iff_ne, RI.ok] at h
    change 0x38000000 + putRI f < 2 ^ 32; simp only [putRI]; have := bit_le f.w; have := src_lt f.a (by simp_all)
    have := bit_le f.e; omega
  · cases h
  · cases h
  · cases h
  · cases h

theorem setlti (f : RI) : Statement (.setlti f) := by
  intro form h
  rcases form with (_|_|_|_)|_
  · replace h : (f.ok || false) = true := h
    simp only [Bool.or_false, Bool.false_or, Bool.and_eq_true, Bool.or_eq_true, decide_eq_true_eq, beq_iff_eq, bne_iff_ne, RI.ok] at h
    change 0x3C000000 + putRI f < 2 ^ 32; simp only [putRI]; have := bit_le f.w; have := src_lt f.a (by simp_all)
    have := bit_le f.e; omega
  · cases h
  · cases h
  · cases h
  · cases h

theorem setltui (f : RI) : Statement (.setltui f) := by
  intro form h
  rcases form with (_|_|_|_)|_
  · replace h : (f.ok || false) = true := h
    simp only [Bool.or_false, Bool.false_or, Bool.and_eq_true, Bool.or_eq_true, decide_eq_true_eq, beq_iff_eq, bne_iff_ne, RI.ok] at h
    change 0x40000000 + putRI f < 2 ^ 32; simp only [putRI]; have := bit_le f.w; have := src_lt f.a (by simp_all)
    have := bit_le f.e; omega
  · cases h
  · cases h
  · cases h
  · cases h

theorem movhi (f : LI) : Statement (.movhi f) := by
  intro form h
  rcases form with (_|_|_|_)|_
  · replace h : (f.ok || false) = true := h
    simp only [Bool.or_false, Bool.false_or, Bool.and_eq_true, Bool.or_eq_true, decide_eq_true_eq, beq_iff_eq, bne_iff_ne, LI.ok] at h
    change 0x44000000 + putLI f < 2 ^ 32; simp only [putLI]; have := bit_le f.w; have := bit_le f.e; omega
  · cases h
  · cases h
  · cases h
  · cases h

theorem beq (f : TS) : Statement (.beq f) := by
  intro form h
  rcases form with (_|_|_|_)|_
  · replace h : (f.ok || false) = true := h
    simp only [Bool.or_false, Bool.false_or, Bool.and_eq_true, Bool.or_eq_true, decide_eq_true_eq, beq_iff_eq, bne_iff_ne, TS.ok] at h
    change 0x48000000 + putTS f < 2 ^ 32; simp only [putTS]; have := src_lt f.c (by simp_all)
    have := src_lt f.a (by simp_all); have := bit_le f.e; omega
  · cases h
  · cases h
  · cases h
  · cases h

theorem bne (f : TS) : Statement (.bne f) := by
  intro form h
  rcases form with (_|_|_|_)|_
  · replace h : (f.ok || false) = true := h
    simp only [Bool.or_false, Bool.false_or, Bool.and_eq_true, Bool.or_eq_true, decide_eq_true_eq, beq_iff_eq, bne_iff_ne, TS.ok] at h
    change 0x4C000000 + putTS f < 2 ^ 32; simp only [putTS]; have := src_lt f.c (by simp_all)
    have := src_lt f.a (by simp_all); have := bit_le f.e; omega
  · cases h
  · cases h
  · cases h
  · cases h

theorem blt (f : TS) : Statement (.blt f) := by
  intro form h
  rcases form with (_|_|_|_)|_
  · replace h : (f.ok || false) = true := h
    simp only [Bool.or_false, Bool.false_or, Bool.and_eq_true, Bool.or_eq_true, decide_eq_true_eq, beq_iff_eq, bne_iff_ne, TS.ok] at h
    change 0x50000000 + putTS f < 2 ^ 32; simp only [putTS]; have := src_lt f.c (by simp_all)
    have := src_lt f.a (by simp_all); have := bit_le f.e; omega
  · cases h
  · cases h
  · cases h
  · cases h

theorem bge (f : TS) : Statement (.bge f) := by
  intro form h
  rcases form with (_|_|_|_)|_
  · replace h : (f.ok || false) = true := h
    simp only [Bool.or_false, Bool.false_or, Bool.and_eq_true, Bool.or_eq_true, decide_eq_true_eq, beq_iff_eq, bne_iff_ne, TS.ok] at h
    change 0x54000000 + putTS f < 2 ^ 32; simp only [putTS]; have := src_lt f.c (by simp_all)
    have := src_lt f.a (by simp_all); have := bit_le f.e; omega
  · cases h
  · cases h
  · cases h
  · cases h

theorem bltu (f : TS) : Statement (.bltu f) := by
  intro form h
  rcases form with (_|_|_|_)|_
  · replace h : (f.ok || false) = true := h
    simp only [Bool.or_false, Bool.false_or, Bool.and_eq_true, Bool.or_eq_true, decide_eq_true_eq, beq_iff_eq, bne_iff_ne, TS.ok] at h
    change 0x58000000 + putTS f < 2 ^ 32; simp only [putTS]; have := src_lt f.c (by simp_all)
    have := src_lt f.a (by simp_all); have := bit_le f.e; omega
  · cases h
  · cases h
  · cases h
  · cases h

theorem bgeu (f : TS) : Statement (.bgeu f) := by
  intro form h
  rcases form with (_|_|_|_)|_
  · replace h : (f.ok || false) = true := h
    simp only [Bool.or_false, Bool.false_or, Bool.and_eq_true, Bool.or_eq_true, decide_eq_true_eq, beq_iff_eq, bne_iff_ne, TS.ok] at h
    change 0x5C000000 + putTS f < 2 ^ 32; simp only [putTS]; have := src_lt f.c (by simp_all)
    have := src_lt f.a (by simp_all); have := bit_le f.e; omega
  · cases h
  · cases h
  · cases h
  · cases h

theorem jmp (f : Imm) : Statement (.jmp f) := by
  intro form h
  rcases form with (_|_|_|_)|_
  · replace h : (f.i < 524288 || false) = true := h
    simp only [Bool.or_false, Bool.false_or, Bool.and_eq_true, Bool.or_eq_true, decide_eq_true_eq, beq_iff_eq, bne_iff_ne] at h
    change 0x60000000 + putImm f < 2 ^ 32; simp only [putImm]; have := bit_le f.e; omega
  · cases h
  · cases h
  · cases h
  · cases h

theorem jal (f : LI) : Statement (.jal f) := by
  intro form h
  rcases form with (_|_|_|_)|_
  · replace h : (f.ok || false) = true := h
    simp only [Bool.or_false, Bool.false_or, Bool.and_eq_true, Bool.or_eq_true, decide_eq_true_eq, beq_iff_eq, bne_iff_ne, LI.ok] at h
    change 0x64000000 + putLI f < 2 ^ 32; simp only [putLI]; have := bit_le f.w; have := bit_le f.e; omega
  · cases h
  · cases h
  · cases h
  · cases h

theorem jr (f : RI) : Statement (.jr f) := by
  intro form h
  rcases form with (_|_|_|_)|_
  · replace h : (f.ok || false) = true := h
    simp only [Bool.or_false, Bool.false_or, Bool.and_eq_true, Bool.or_eq_true, decide_eq_true_eq, beq_iff_eq, bne_iff_ne, RI.ok] at h
    change 0x68000000 + putRI f < 2 ^ 32; simp only [putRI]; have := bit_le f.w; have := src_lt f.a (by simp_all)
    have := bit_le f.e; omega
  · cases h
  · cases h
  · cases h
  · cases h

theorem xmovXToS (f : R1) : Statement (.xmovXToS f) := by
  intro form h
  rcases form with (_|_|_|_)|_
  · replace h : (f.ok2 || false) = true := h
    simp only [Bool.or_false, Bool.false_or, Bool.and_eq_true, Bool.or_eq_true, decide_eq_true_eq, beq_iff_eq, bne_iff_ne, R1.ok2] at h
    change 0x6C000000 + putR1 f < 2 ^ 32; simp only [putR1]; have := bit_le f.w; have := src_lt f.a (by simp_all)
    have := bit_le f.e; omega
  · cases h
  · cases h
  · cases h
  · cases h

theorem xmovSToX (f : R1) : Statement (.xmovSToX f) := by
  intro form h
  rcases form with (_|_|_|_)|_
  · replace h : (f.ok3 || false) = true := h
    simp only [Bool.or_false, Bool.false_or, Bool.and_eq_true, Bool.or_eq_true, decide_eq_true_eq, beq_iff_eq, bne_iff_ne, R1.ok3] at h
    change 0x6C000002 + putR1 f < 2 ^ 32; simp only [putR1]; have := bit_le f.w; have := src_lt f.a (by simp_all)
    have := bit_le f.e; omega
  · cases h
  · cases h
  · cases h
  · cases h

theorem ld (f : LdF) : Statement (.ld f) := by
  intro form h
  rcases form with (_|_|_|_)|_
  · replace h : ((!f.w || f.d == 0) && f.d < 32 && f.a.isS && f.z < 7 && f.o < 1024 || false) = true := h
    simp only [Bool.or_false, Bool.false_or, Bool.and_eq_true, Bool.or_eq_true, decide_eq_true_eq, beq_iff_eq, bne_iff_ne] at h
    change 0x70000000 + putLdF f < 2 ^ 32; simp only [putLdF]; have := bit_le f.w; have := src_lt f.a (by simp_all)
    have := bit_le f.e; omega
  · cases h
  · cases h
  · cases h
  · cases h

theorem st (f : StF) : Statement (.st f) := by
  intro form h
  rcases form with (_|_|_|_)|_
  · replace h : (f.c.isS && f.a.isS && f.z < 4 && f.o < 2048 || false) = true := h
    simp only [Bool.or_false, Bool.false_or, Bool.and_eq_true, Bool.or_eq_true, decide_eq_true_eq, beq_iff_eq, bne_iff_ne] at h
    change 0x74000000 + putStF f < 2 ^ 32; simp only [putStF]; have := src_lt f.c (by simp_all)
    have := src_lt f.a (by simp_all); have := bit_le f.e; omega
  · cases h
  · cases h
  · cases h
  · cases h

theorem lda (f : LdaF) : Statement (.lda f) := by
  intro form h
  rcases form with (_|_|_|_)|_
  · replace h : ((!f.w || f.d == 0) && f.d < 32 && f.a.isS && f.s < 11 && f.o < 256 || false) = true := h
    simp only [Bool.or_false, Bool.false_or, Bool.and_eq_true, Bool.or_eq_true, decide_eq_true_eq, beq_iff_eq, bne_iff_ne] at h
    change 0x78000000 + putLdaF f < 2 ^ 32; simp only [putLdaF]; have := bit_le f.w
    have := src_lt f.a (by simp_all); have := bit_le f.f; have := bit_le f.e; omega
  · cases h
  · cases h
  · cases h
  · cases h

theorem strel (f : StrelF) : Statement (.strel f) := by
  intro form h
  rcases form with (_|_|_|_)|_
  · replace h : (f.c.isS && f.a.isS && f.s < 11 && f.o < 256 || false) = true := h
    simp only [Bool.or_false, Bool.false_or, Bool.and_eq_true, Bool.or_eq_true, decide_eq_true_eq, beq_iff_eq, bne_iff_ne] at h
    change 0x7C000000 + putStrelF f < 2 ^ 32; simp only [putStrelF]; have := src_lt f.c (by simp_all)
    have := src_lt f.a (by simp_all); have := bit_le f.f; have := bit_le f.e; omega
  · cases h
  · cases h
  · cases h
  · cases h

theorem cas (f : CasF) : Statement (.cas f) := by
  intro form h
  rcases form with (_|_|_|_)|_
  · replace h : ((!f.w || f.d == 0) && f.d < 32 && f.a.isS && f.b.isS && f.s < 8 || false) = true := h
    simp only [Bool.or_false, Bool.false_or, Bool.and_eq_true, Bool.or_eq_true, decide_eq_true_eq, beq_iff_eq, bne_iff_ne] at h
    change 0x80000000 + putCasF f < 2 ^ 32; simp only [putCasF]; have := bit_le f.w
    have := src_lt f.a (by simp_all); have := src_lt f.b (by simp_all); have := bit_le f.z; have := bit_le f.e
    omega
  · cases h
  · cases h
  · cases h
  · cases h

theorem amo (f : AmoF) : Statement (.amo f) := by
  intro form h
  rcases form with (_|_|_|_)|_
  · replace h : ((!f.w || f.d == 0) && f.d < 32 && f.a.isS && f.b.isS && f.s < 8 && f.o < 8 || false) = true := h
    simp only [Bool.or_false, Bool.false_or, Bool.and_eq_true, Bool.or_eq_true, decide_eq_true_eq, beq_iff_eq, bne_iff_ne] at h
    change 0x84000000 + putAmoF f < 2 ^ 32; simp only [putAmoF]; have := bit_le f.w
    have := src_lt f.a (by simp_all); have := src_lt f.b (by simp_all); have := bit_le f.z; have := bit_le f.e
    omega
  · cases h
  · cases h
  · cases h
  · cases h

theorem nadd (f : NaddF) : Statement (.nadd f) := by
  intro form h
  rcases form with (_|_|_|_)|_
  · replace h : (f.c.isS && f.a.isS && f.t < 3 && f.o < 2048 || false) = true := h
    simp only [Bool.or_false, Bool.false_or, Bool.and_eq_true, Bool.or_eq_true, decide_eq_true_eq, beq_iff_eq, bne_iff_ne] at h
    change 0x88000000 + putNaddF f < 2 ^ 32; simp only [putNaddF]; have := src_lt f.c (by simp_all)
    have := src_lt f.a (by simp_all); have := bit_le f.e; omega
  · cases h
  · cases h
  · cases h
  · cases h

theorem fence (f : ScopeF) : Statement (.fence f) := by
  intro form h
  rcases form with (_|_|_|_)|_
  · replace h : (f.s < 11 || false) = true := h
    simp only [Bool.or_false, Bool.false_or, Bool.and_eq_true, Bool.or_eq_true, decide_eq_true_eq, beq_iff_eq, bne_iff_ne] at h
    change 0x8C000000 + putScopeF f < 2 ^ 32; simp only [putScopeF]; have := bit_le f.e; omega
  · cases h
  · cases h
  · cases h
  · cases h

theorem bind (f : BindF) : Statement (.bind f) := by
  intro form h
  rcases form with (_|_|_|_)|_
  · replace h : ((!f.w || f.d == 0) && f.d < 32 && f.a.isS && pairReg f.b && f.s < 11 || false) = true := h
    simp only [Bool.or_false, Bool.false_or, Bool.and_eq_true, Bool.or_eq_true, decide_eq_true_eq, beq_iff_eq, bne_iff_ne] at h
    change 0x90000000 + putBindF f < 2 ^ 32; simp only [putBindF]; have := bit_le f.w
    have := src_lt f.a (by simp_all); have := bit_le f.e; have := pair_le f.b (by simp_all); omega
  · cases h
  · cases h
  · cases h
  · cases h

theorem unbind (f : R1) : Statement (.unbind f) := by
  intro form h
  rcases form with (_|_|_|_)|_
  · replace h : (f.ok || false) = true := h
    simp only [Bool.or_false, Bool.false_or, Bool.and_eq_true, Bool.or_eq_true, decide_eq_true_eq, beq_iff_eq, bne_iff_ne, R1.ok] at h
    change 0x94000000 + putR1 f < 2 ^ 32; simp only [putR1]; have := bit_le f.w; have := src_lt f.a (by simp_all)
    have := bit_le f.e; omega
  · cases h
  · cases h
  · cases h
  · cases h

theorem acq (f : AcqF) : Statement (.acq f) := by
  intro form h
  rcases form with (_|_|_|_)|_
  · replace h : (f.ok || false) = true := h
    simp only [Bool.or_false, Bool.false_or, Bool.and_eq_true, Bool.or_eq_true, decide_eq_true_eq, beq_iff_eq, bne_iff_ne, AcqF.ok] at h
    change 0x98000000 + putAcqF f < 2 ^ 32; simp only [putAcqF]; have := src_lt f.a (by simp_all)
    have := bit_le f.f; have := bit_le f.e; omega
  · cases h
  · cases h
  · cases h
  · cases h

theorem rel (f : AcqF) : Statement (.rel f) := by
  intro form h
  rcases form with (_|_|_|_)|_
  · replace h : (f.ok || false) = true := h
    simp only [Bool.or_false, Bool.false_or, Bool.and_eq_true, Bool.or_eq_true, decide_eq_true_eq, beq_iff_eq, bne_iff_ne, AcqF.ok] at h
    change 0x9C000000 + putAcqF f < 2 ^ 32; simp only [putAcqF]; have := src_lt f.a (by simp_all)
    have := bit_le f.f; have := bit_le f.e; omega
  · cases h
  · cases h
  · cases h
  · cases h

theorem lpatch (f : RR) : Statement (.lpatch f) := by
  intro form h
  rcases form with (_|_|_|_)|_
  · replace h : (f.ok || false) = true := h
    simp only [Bool.or_false, Bool.false_or, Bool.and_eq_true, Bool.or_eq_true, decide_eq_true_eq, beq_iff_eq, bne_iff_ne, RR.ok] at h
    change 0xA0000000 + putRR f < 2 ^ 32; simp only [putRR]; have := bit_le f.w; have := src_lt f.a (by simp_all)
    have := src_lt f.b (by simp_all); have := bit_le f.e; omega
  · cases h
  · cases h
  · cases h
  · cases h

theorem larm (f : R1) : Statement (.larm f) := by
  intro form h
  rcases form with (_|_|_|_)|_
  · replace h : (f.ok || false) = true := h
    simp only [Bool.or_false, Bool.false_or, Bool.and_eq_true, Bool.or_eq_true, decide_eq_true_eq, beq_iff_eq, bne_iff_ne, R1.ok] at h
    change 0xA4000000 + putR1 f < 2 ^ 32; simp only [putR1]; have := bit_le f.w; have := src_lt f.a (by simp_all)
    have := bit_le f.e; omega
  · cases h
  · cases h
  · cases h
  · cases h

theorem larmw (f : R1) : Statement (.larmw f) := by
  intro form h
  rcases form with (_|_|_|_)|_
  · replace h : (f.ok || false) = true := h
    simp only [Bool.or_false, Bool.false_or, Bool.and_eq_true, Bool.or_eq_true, decide_eq_true_eq, beq_iff_eq, bne_iff_ne, R1.ok] at h
    change 0xA8000000 + putR1 f < 2 ^ 32; simp only [putR1]; have := bit_le f.w; have := src_lt f.a (by simp_all)
    have := bit_le f.e; omega
  · cases h
  · cases h
  · cases h
  · cases h

theorem eput (f : RR) : Statement (.eput f) := by
  intro form h
  rcases form with (_|_|_|_)|_
  · replace h : (f.ok || false) = true := h
    simp only [Bool.or_false, Bool.false_or, Bool.and_eq_true, Bool.or_eq_true, decide_eq_true_eq, beq_iff_eq, bne_iff_ne, RR.ok] at h
    change 0xAC000000 + putRR f < 2 ^ 32; simp only [putRR]; have := bit_le f.w; have := src_lt f.a (by simp_all)
    have := src_lt f.b (by simp_all); have := bit_le f.e; omega
  · cases h
  · cases h
  · cases h
  · cases h

theorem eputW (f : SrcPair) : Statement (.eputW f) := by
  intro form h
  rcases form with (_|_|_|_)|_
  · replace h : (f.ok || false) = true := h
    simp only [Bool.or_false, Bool.false_or, Bool.and_eq_true, Bool.or_eq_true, decide_eq_true_eq, beq_iff_eq, bne_iff_ne, SrcPair.ok] at h
    change 0xAC000002 + putSrcPair f < 2 ^ 32; simp only [putSrcPair]; have := src_lt f.a (by simp_all)
    have := src_lt f.b (by simp_all); have := bit_le f.e; omega
  · cases h
  · cases h
  · cases h
  · cases h

theorem susp (f : SrcPair) : Statement (.susp f) := by
  intro form h
  rcases form with (_|_|_|_)|_
  · replace h : (f.ok || false) = true := h
    simp only [Bool.or_false, Bool.false_or, Bool.and_eq_true, Bool.or_eq_true, decide_eq_true_eq, beq_iff_eq, bne_iff_ne, SrcPair.ok] at h
    change 0xB0000000 + putSrcPair f < 2 ^ 32; simp only [putSrcPair]; have := src_lt f.a (by simp_all)
    have := src_lt f.b (by simp_all); have := bit_le f.e; omega
  · cases h
  · cases h
  · cases h
  · cases h

theorem suspBar (f : SrcPair) : Statement (.suspBar f) := by
  intro form h
  rcases form with (_|_|_|_)|_
  · replace h : (f.ok || false) = true := h
    simp only [Bool.or_false, Bool.false_or, Bool.and_eq_true, Bool.or_eq_true, decide_eq_true_eq, beq_iff_eq, bne_iff_ne, SrcPair.ok] at h
    change 0xB0000002 + putSrcPair f < 2 ^ 32; simp only [putSrcPair]; have := src_lt f.a (by simp_all)
    have := src_lt f.b (by simp_all); have := bit_le f.e; omega
  · cases h
  · cases h
  · cases h
  · cases h

theorem suspEnd (f : EndF) : Statement (.suspEnd f) := by
  intro form h
  rcases form with (_|_|_|_)|_
  · replace h : (true || false) = true := h; change 0xB0000004 + putEndF f < 2 ^ 32; simp only [putEndF]
    have := bit_le f.e; omega
  · cases h
  · cases h
  · cases h
  · cases h

theorem yield (f : DstF) : Statement (.yield f) := by
  intro form h
  rcases form with (_|_|_|_)|_
  · replace h : ((!f.w || f.d == 0) && f.d < 32 || false) = true := h
    simp only [Bool.or_false, Bool.false_or, Bool.and_eq_true, Bool.or_eq_true, decide_eq_true_eq, beq_iff_eq, bne_iff_ne] at h
    change 0xB4000000 + putDstF f < 2 ^ 32; simp only [putDstF]; have := bit_le f.w; have := bit_le f.e; omega
  · cases h
  · cases h
  · cases h
  · cases h

theorem wid (f : DstNum) : Statement (.wid f) := by
  intro form h
  rcases form with (_|_|_|_)|_
  · replace h : ((!f.w || f.d == 0) && f.d < 32 && f.n ≤ 6 || false) = true := h
    simp only [Bool.or_false, Bool.false_or, Bool.and_eq_true, Bool.or_eq_true, decide_eq_true_eq, beq_iff_eq, bne_iff_ne] at h
    change 0xB8000000 + putDstNum f < 2 ^ 32; simp only [putDstNum]; have := bit_le f.w; have := bit_le f.e; omega
  · cases h
  · cases h
  · cases h
  · cases h

theorem npbegin (f : EndF) : Statement (.npbegin f) := by
  intro form h
  rcases form with (_|_|_|_)|_
  · replace h : (true || false) = true := h; change 0xBC000000 + putEndF f < 2 ^ 32; simp only [putEndF]
    have := bit_le f.e; omega
  · cases h
  · cases h
  · cases h
  · cases h

theorem npend (f : EndF) : Statement (.npend f) := by
  intro form h
  rcases form with (_|_|_|_)|_
  · replace h : (true || false) = true := h; change 0xC0000000 + putEndF f < 2 ^ 32; simp only [putEndF]
    have := bit_le f.e; omega
  · cases h
  · cases h
  · cases h
  · cases h

theorem trap (f : Imm) : Statement (.trap f) := by
  intro form h
  rcases form with (_|_|_|_)|_
  · replace h : (f.ok || false) = true := h
    simp only [Bool.or_false, Bool.false_or, Bool.and_eq_true, Bool.or_eq_true, decide_eq_true_eq, beq_iff_eq, bne_iff_ne, Imm.ok] at h
    change 0xC4000000 + putImm2 f < 2 ^ 32; simp only [putImm2]; have := bit_le f.e; omega
  · cases h
  · cases h
  · cases h
  · cases h

theorem eret (f : EndF) : Statement (.eret f) := by
  intro form h
  rcases form with (_|_|_|_)|_
  · replace h : (true || false) = true := h; change 0xC8000000 + putEndF f < 2 ^ 32; simp only [putEndF]
    have := bit_le f.e; omega
  · cases h
  · cases h
  · cases h
  · cases h

theorem eretRun (f : EretRunF) : Statement (.eretRun f) := by
  intro form h
  rcases form with (_|_|_|_)|_
  · replace h : ((!f.w || f.d == 0) && f.d < 32 && f.a.isS && f.b.isS && 1 ≤ f.x && f.x ≤ 3 || false) = true := h
    simp only [Bool.or_false, Bool.false_or, Bool.and_eq_true, Bool.or_eq_true, decide_eq_true_eq, beq_iff_eq, bne_iff_ne] at h
    change 0xC8000002 + putEretRunF f < 2 ^ 32; simp only [putEretRunF]; have := bit_le f.w
    have := src_lt f.a (by simp_all); have := src_lt f.b (by simp_all); have := bit_le f.e; omega
  · cases h
  · cases h
  · cases h
  · cases h

theorem eretFail (f : EndF) : Statement (.eretFail f) := by
  intro form h
  rcases form with (_|_|_|_)|_
  · replace h : (true || false) = true := h; change 0xC8000004 + putEndF f < 2 ^ 32; simp only [putEndF]
    have := bit_le f.e; omega
  · cases h
  · cases h
  · cases h
  · cases h

theorem sysrd (f : DstNum) : Statement (.sysrd f) := by
  intro form h
  rcases form with (_|_|_|_)|_
  · replace h : ((!f.w || f.d == 0) && f.d < 32 && isSysReg f.n || false) = true := h
    simp only [Bool.or_false, Bool.false_or, Bool.and_eq_true, Bool.or_eq_true, decide_eq_true_eq, beq_iff_eq, bne_iff_ne] at h
    change 0xCC000000 + putDstNum2 f < 2 ^ 32; simp only [putDstNum2]; have := bit_le f.w; have := bit_le f.e
    have := sys_le f.n (by simp_all); omega
  · cases h
  · cases h
  · cases h
  · cases h

theorem syswr (f : SyswrF) : Statement (.syswr f) := by
  intro form h
  rcases form with (_|_|_|_)|_
  · replace h : (f.c.isS && isSysReg f.n || false) = true := h
    simp only [Bool.or_false, Bool.false_or, Bool.and_eq_true, Bool.or_eq_true, decide_eq_true_eq, beq_iff_eq, bne_iff_ne] at h
    change 0xD0000000 + putSyswrF f < 2 ^ 32; simp only [putSyswrF]; have := src_lt f.c (by simp_all)
    have := bit_le f.e; have := sys_le f.n (by simp_all); omega
  · cases h
  · cases h
  · cases h
  · cases h

theorem brk (f : Imm) : Statement (.brk f) := by
  intro form h
  rcases form with (_|_|_|_)|_
  · replace h : (f.ok || false) = true := h
    simp only [Bool.or_false, Bool.false_or, Bool.and_eq_true, Bool.or_eq_true, decide_eq_true_eq, beq_iff_eq, bne_iff_ne, Imm.ok] at h
    change 0xD4000000 + putImm2 f < 2 ^ 32; simp only [putImm2]; have := bit_le f.e; omega
  · cases h
  · cases h
  · cases h
  · cases h

theorem wfe (f : RR) : Statement (.wfe f) := by
  intro form h
  rcases form with (_|_|_|_)|_
  · replace h : (f.ok || false) = true := h
    simp only [Bool.or_false, Bool.false_or, Bool.and_eq_true, Bool.or_eq_true, decide_eq_true_eq, beq_iff_eq, bne_iff_ne, RR.ok] at h
    change 0xD8000000 + putRR f < 2 ^ 32; simp only [putRR]; have := bit_le f.w; have := src_lt f.a (by simp_all)
    have := src_lt f.b (by simp_all); have := bit_le f.e; omega
  · cases h
  · cases h
  · cases h
  · cases h

theorem tkgive (f : ScopeF) : Statement (.tkgive f) := by
  intro form h
  rcases form with (_|_|_|_)|_
  · replace h : (false || tokenMask .s f.s) = true := h
    simp only [Bool.or_false, Bool.false_or, Bool.and_eq_true, Bool.or_eq_true, decide_eq_true_eq, beq_iff_eq, bne_iff_ne, tokenMask] at h
    change 0xF0000000 + putScopeF2 f < 2 ^ 32; simp only [putScopeF2]; have := bit_le f.e; omega
  · replace h : (false || tokenMask .a f.s) = true := h
    simp only [Bool.or_false, Bool.false_or, Bool.and_eq_true, Bool.or_eq_true, decide_eq_true_eq, beq_iff_eq, bne_iff_ne, tokenMask] at h
    change 0xF0000000 + putScopeF2 f < 2 ^ 32; simp only [putScopeF2]; have := bit_le f.e; omega
  · replace h : (false || tokenMask .v f.s) = true := h
    simp only [Bool.or_false, Bool.false_or, Bool.and_eq_true, Bool.or_eq_true, decide_eq_true_eq, beq_iff_eq, bne_iff_ne, tokenMask] at h
    change 0xF0000000 + putScopeF2 f < 2 ^ 32; simp only [putScopeF2]; have := bit_le f.e; omega
  · replace h : (false || tokenMask .m f.s) = true := h
    simp only [Bool.or_false, Bool.false_or, Bool.and_eq_true, Bool.or_eq_true, decide_eq_true_eq, beq_iff_eq, bne_iff_ne, tokenMask] at h
    change 0xF0000000 + putScopeF2 f < 2 ^ 32; simp only [putScopeF2]; have := bit_le f.e; omega
  · cases h

theorem tktake (f : ScopeF) : Statement (.tktake f) := by
  intro form h
  rcases form with (_|_|_|_)|_
  · replace h : (false || tokenMask .s f.s) = true := h
    simp only [Bool.or_false, Bool.false_or, Bool.and_eq_true, Bool.or_eq_true, decide_eq_true_eq, beq_iff_eq, bne_iff_ne, tokenMask] at h
    change 0xF1000000 + putScopeF2 f < 2 ^ 32; simp only [putScopeF2]; have := bit_le f.e; omega
  · replace h : (false || tokenMask .a f.s) = true := h
    simp only [Bool.or_false, Bool.false_or, Bool.and_eq_true, Bool.or_eq_true, decide_eq_true_eq, beq_iff_eq, bne_iff_ne, tokenMask] at h
    change 0xF1000000 + putScopeF2 f < 2 ^ 32; simp only [putScopeF2]; have := bit_le f.e; omega
  · replace h : (false || tokenMask .v f.s) = true := h
    simp only [Bool.or_false, Bool.false_or, Bool.and_eq_true, Bool.or_eq_true, decide_eq_true_eq, beq_iff_eq, bne_iff_ne, tokenMask] at h
    change 0xF1000000 + putScopeF2 f < 2 ^ 32; simp only [putScopeF2]; have := bit_le f.e; omega
  · replace h : (false || tokenMask .m f.s) = true := h
    simp only [Bool.or_false, Bool.false_or, Bool.and_eq_true, Bool.or_eq_true, decide_eq_true_eq, beq_iff_eq, bne_iff_ne, tokenMask] at h
    change 0xF1000000 + putScopeF2 f < 2 ^ 32; simp only [putScopeF2]; have := bit_le f.e; omega
  · cases h

theorem loopImm (f : LoopImmF) : Statement (.loopImm f) := by
  intro form h
  rcases form with (_|_|_|_)|_
  · replace h : (false || f.n < 3 && 1 ≤ f.c && f.c < 4096 && f.l < 256) = true := h
    simp only [Bool.or_false, Bool.false_or, Bool.and_eq_true, Bool.or_eq_true, decide_eq_true_eq, beq_iff_eq, bne_iff_ne] at h
    change 0xF4800000 + putLoopImmF f < 2 ^ 32; simp only [putLoopImmF]; have := bit_le f.e; omega
  · replace h : (false || f.n < 3 && 1 ≤ f.c && f.c < 4096 && f.l < 256) = true := h
    simp only [Bool.or_false, Bool.false_or, Bool.and_eq_true, Bool.or_eq_true, decide_eq_true_eq, beq_iff_eq, bne_iff_ne] at h
    change 0xF4800000 + putLoopImmF f < 2 ^ 32; simp only [putLoopImmF]; have := bit_le f.e; omega
  · replace h : (false || f.n < 3 && 1 ≤ f.c && f.c < 4096 && f.l < 256) = true := h
    simp only [Bool.or_false, Bool.false_or, Bool.and_eq_true, Bool.or_eq_true, decide_eq_true_eq, beq_iff_eq, bne_iff_ne] at h
    change 0xF4800000 + putLoopImmF f < 2 ^ 32; simp only [putLoopImmF]; have := bit_le f.e; omega
  · replace h : (false || f.n < 3 && 1 ≤ f.c && f.c < 4096 && f.l < 256) = true := h
    simp only [Bool.or_false, Bool.false_or, Bool.and_eq_true, Bool.or_eq_true, decide_eq_true_eq, beq_iff_eq, bne_iff_ne] at h
    change 0xF4800000 + putLoopImmF f < 2 ^ 32; simp only [putLoopImmF]; have := bit_le f.e; omega
  · cases h

theorem loopReg (f : LoopRegF) : Statement (.loopReg f) := by
  intro form h
  rcases form with (_|_|_|_)|_
  · replace h : (false || f.n < 3 && loopSrc .s f.s && f.l < 256) = true := h
    simp only [Bool.or_false, Bool.false_or, Bool.and_eq_true, Bool.or_eq_true, decide_eq_true_eq, beq_iff_eq, bne_iff_ne] at h
    change 0xF4000000 + putLoopRegF f < 2 ^ 32; simp only [putLoopRegF]; have := loop_lt _ f.s h.1.2
    have := bit_le f.e; omega
  · replace h : (false || f.n < 3 && loopSrc .a f.s && f.l < 256) = true := h
    simp only [Bool.or_false, Bool.false_or, Bool.and_eq_true, Bool.or_eq_true, decide_eq_true_eq, beq_iff_eq, bne_iff_ne] at h
    change 0xF4000000 + putLoopRegF f < 2 ^ 32; simp only [putLoopRegF]; have := loop_lt _ f.s h.1.2
    have := bit_le f.e; omega
  · replace h : (false || f.n < 3 && loopSrc .v f.s && f.l < 256) = true := h
    simp only [Bool.or_false, Bool.false_or, Bool.and_eq_true, Bool.or_eq_true, decide_eq_true_eq, beq_iff_eq, bne_iff_ne] at h
    change 0xF4000000 + putLoopRegF f < 2 ^ 32; simp only [putLoopRegF]; have := loop_lt _ f.s h.1.2
    have := bit_le f.e; omega
  · replace h : (false || f.n < 3 && loopSrc .m f.s && f.l < 256) = true := h
    simp only [Bool.or_false, Bool.false_or, Bool.and_eq_true, Bool.or_eq_true, decide_eq_true_eq, beq_iff_eq, bne_iff_ne] at h
    change 0xF4000000 + putLoopRegF f < 2 ^ 32; simp only [putLoopRegF]; have := loop_lt _ f.s h.1.2
    have := bit_le f.e; omega
  · cases h

theorem dpair (f : PairF) : Statement (.dpair f) := by
  intro form h
  rcases form with (_|_|_|_)|_
  · replace h : (false || f.i < 1024 && f.j < 1024) = true := h
    simp only [Bool.or_false, Bool.false_or, Bool.and_eq_true, Bool.or_eq_true, decide_eq_true_eq, beq_iff_eq, bne_iff_ne] at h
    change 0xFC000000 + putPairF f < 2 ^ 32; simp only [putPairF]; omega
  · replace h : (false || f.i < 1024 && f.j < 1024) = true := h
    simp only [Bool.or_false, Bool.false_or, Bool.and_eq_true, Bool.or_eq_true, decide_eq_true_eq, beq_iff_eq, bne_iff_ne] at h
    change 0xFC000000 + putPairF f < 2 ^ 32; simp only [putPairF]; omega
  · replace h : (false || f.i < 1024 && f.j < 1024) = true := h
    simp only [Bool.or_false, Bool.false_or, Bool.and_eq_true, Bool.or_eq_true, decide_eq_true_eq, beq_iff_eq, bne_iff_ne] at h
    change 0xFC000000 + putPairF f < 2 ^ 32; simp only [putPairF]; omega
  · replace h : (false || f.i < 1024 && f.j < 1024) = true := h
    simp only [Bool.or_false, Bool.false_or, Bool.and_eq_true, Bool.or_eq_true, decide_eq_true_eq, beq_iff_eq, bne_iff_ne] at h
    change 0xFC000000 + putPairF f < 2 ^ 32; simp only [putPairF]; omega
  · cases h

theorem aadd (f : RR) : Statement (.aadd f) := by
  intro form h
  rcases form with (_|_|_|_)|_
  · cases h
  · replace h : (f.ok || false) = true := h
    simp only [Bool.or_false, Bool.false_or, Bool.and_eq_true, Bool.or_eq_true, decide_eq_true_eq, beq_iff_eq, bne_iff_ne, RR.ok] at h
    change 0x04000000 + putRR f < 2 ^ 32; simp only [putRR]; have := bit_le f.w; have := src_lt f.a (by simp_all)
    have := src_lt f.b (by simp_all); have := bit_le f.e; omega
  · cases h
  · cases h
  · cases h

theorem asub (f : RR) : Statement (.asub f) := by
  intro form h
  rcases form with (_|_|_|_)|_
  · cases h
  · replace h : (f.ok || false) = true := h
    simp only [Bool.or_false, Bool.false_or, Bool.and_eq_true, Bool.or_eq_true, decide_eq_true_eq, beq_iff_eq, bne_iff_ne, RR.ok] at h
    change 0x04000002 + putRR f < 2 ^ 32; simp only [putRR]; have := bit_le f.w; have := src_lt f.a (by simp_all)
    have := src_lt f.b (by simp_all); have := bit_le f.e; omega
  · cases h
  · cases h
  · cases h

theorem amul (f : RR) : Statement (.amul f) := by
  intro form h
  rcases form with (_|_|_|_)|_
  · cases h
  · replace h : (f.ok || false) = true := h
    simp only [Bool.or_false, Bool.false_or, Bool.and_eq_true, Bool.or_eq_true, decide_eq_true_eq, beq_iff_eq, bne_iff_ne, RR.ok] at h
    change 0x04000004 + putRR f < 2 ^ 32; simp only [putRR]; have := bit_le f.w; have := src_lt f.a (by simp_all)
    have := src_lt f.b (by simp_all); have := bit_le f.e; omega
  · cases h
  · cases h
  · cases h

theorem ashl (f : RR) : Statement (.ashl f) := by
  intro form h
  rcases form with (_|_|_|_)|_
  · cases h
  · replace h : (f.ok || false) = true := h
    simp only [Bool.or_false, Bool.false_or, Bool.and_eq_true, Bool.or_eq_true, decide_eq_true_eq, beq_iff_eq, bne_iff_ne, RR.ok] at h
    change 0x04000006 + putRR f < 2 ^ 32; simp only [putRR]; have := bit_le f.w; have := src_lt f.a (by simp_all)
    have := src_lt f.b (by simp_all); have := bit_le f.e; omega
  · cases h
  · cases h
  · cases h

theorem ashr (f : RR) : Statement (.ashr f) := by
  intro form h
  rcases form with (_|_|_|_)|_
  · cases h
  · replace h : (f.ok || false) = true := h
    simp only [Bool.or_false, Bool.false_or, Bool.and_eq_true, Bool.or_eq_true, decide_eq_true_eq, beq_iff_eq, bne_iff_ne, RR.ok] at h
    change 0x04000008 + putRR f < 2 ^ 32; simp only [putRR]; have := bit_le f.w; have := src_lt f.a (by simp_all)
    have := src_lt f.b (by simp_all); have := bit_le f.e; omega
  · cases h
  · cases h
  · cases h

theorem aand (f : RR) : Statement (.aand f) := by
  intro form h
  rcases form with (_|_|_|_)|_
  · cases h
  · replace h : (f.ok || false) = true := h
    simp only [Bool.or_false, Bool.false_or, Bool.and_eq_true, Bool.or_eq_true, decide_eq_true_eq, beq_iff_eq, bne_iff_ne, RR.ok] at h
    change 0x0400000A + putRR f < 2 ^ 32; simp only [putRR]; have := bit_le f.w; have := src_lt f.a (by simp_all)
    have := src_lt f.b (by simp_all); have := bit_le f.e; omega
  · cases h
  · cases h
  · cases h

theorem aor (f : RR) : Statement (.aor f) := by
  intro form h
  rcases form with (_|_|_|_)|_
  · cases h
  · replace h : (f.ok || false) = true := h
    simp only [Bool.or_false, Bool.false_or, Bool.and_eq_true, Bool.or_eq_true, decide_eq_true_eq, beq_iff_eq, bne_iff_ne, RR.ok] at h
    change 0x0400000C + putRR f < 2 ^ 32; simp only [putRR]; have := bit_le f.w; have := src_lt f.a (by simp_all)
    have := src_lt f.b (by simp_all); have := bit_le f.e; omega
  · cases h
  · cases h
  · cases h

theorem amin (f : RR) : Statement (.amin f) := by
  intro form h
  rcases form with (_|_|_|_)|_
  · cases h
  · replace h : (f.ok || false) = true := h
    simp only [Bool.or_false, Bool.false_or, Bool.and_eq_true, Bool.or_eq_true, decide_eq_true_eq, beq_iff_eq, bne_iff_ne, RR.ok] at h
    change 0x0400000E + putRR f < 2 ^ 32; simp only [putRR]; have := bit_le f.w; have := src_lt f.a (by simp_all)
    have := src_lt f.b (by simp_all); have := bit_le f.e; omega
  · cases h
  · cases h
  · cases h

theorem amax (f : RR) : Statement (.amax f) := by
  intro form h
  rcases form with (_|_|_|_)|_
  · cases h
  · replace h : (f.ok || false) = true := h
    simp only [Bool.or_false, Bool.false_or, Bool.and_eq_true, Bool.or_eq_true, decide_eq_true_eq, beq_iff_eq, bne_iff_ne, RR.ok] at h
    change 0x04000010 + putRR f < 2 ^ 32; simp only [putRR]; have := bit_le f.w; have := src_lt f.a (by simp_all)
    have := src_lt f.b (by simp_all); have := bit_le f.e; omega
  · cases h
  · cases h
  · cases h

theorem aaddi (f : RI) : Statement (.aaddi f) := by
  intro form h
  rcases form with (_|_|_|_)|_
  · cases h
  · replace h : (f.ok || false) = true := h
    simp only [Bool.or_false, Bool.false_or, Bool.and_eq_true, Bool.or_eq_true, decide_eq_true_eq, beq_iff_eq, bne_iff_ne, RI.ok] at h
    change 0x08000000 + putRI f < 2 ^ 32; simp only [putRI]; have := bit_le f.w; have := src_lt f.a (by simp_all)
    have := bit_le f.e; omega
  · cases h
  · cases h
  · cases h

theorem amuli (f : RI) : Statement (.amuli f) := by
  intro form h
  rcases form with (_|_|_|_)|_
  · cases h
  · replace h : (f.ok || false) = true := h
    simp only [Bool.or_false, Bool.false_or, Bool.and_eq_true, Bool.or_eq_true, decide_eq_true_eq, beq_iff_eq, bne_iff_ne, RI.ok] at h
    change 0x0C000000 + putRI f < 2 ^ 32; simp only [putRI]; have := bit_le f.w; have := src_lt f.a (by simp_all)
    have := bit_le f.e; omega
  · cases h
  · cases h
  · cases h

theorem ashli (f : RSh) : Statement (.ashli f) := by
  intro form h
  rcases form with (_|_|_|_)|_
  · cases h
  · replace h : (f.ok || false) = true := h
    simp only [Bool.or_false, Bool.false_or, Bool.and_eq_true, Bool.or_eq_true, decide_eq_true_eq, beq_iff_eq, bne_iff_ne, RSh.ok] at h
    change 0x10000000 + putRSh f < 2 ^ 32; simp only [putRSh]; have := bit_le f.w; have := src_lt f.a (by simp_all)
    have := bit_le f.e; omega
  · cases h
  · cases h
  · cases h

theorem ashri (f : RSh) : Statement (.ashri f) := by
  intro form h
  rcases form with (_|_|_|_)|_
  · cases h
  · replace h : (f.ok || false) = true := h
    simp only [Bool.or_false, Bool.false_or, Bool.and_eq_true, Bool.or_eq_true, decide_eq_true_eq, beq_iff_eq, bne_iff_ne, RSh.ok] at h
    change 0x14000000 + putRSh f < 2 ^ 32; simp only [putRSh]; have := bit_le f.w; have := src_lt f.a (by simp_all)
    have := bit_le f.e; omega
  · cases h
  · cases h
  · cases h

theorem aandi (f : RI) : Statement (.aandi f) := by
  intro form h
  rcases form with (_|_|_|_)|_
  · cases h
  · replace h : (f.ok || false) = true := h
    simp only [Bool.or_false, Bool.false_or, Bool.and_eq_true, Bool.or_eq_true, decide_eq_true_eq, beq_iff_eq, bne_iff_ne, RI.ok] at h
    change 0x18000000 + putRI f < 2 ^ 32; simp only [putRI]; have := bit_le f.w; have := src_lt f.a (by simp_all)
    have := bit_le f.e; omega
  · cases h
  · cases h
  · cases h

theorem aori (f : RI) : Statement (.aori f) := by
  intro form h
  rcases form with (_|_|_|_)|_
  · cases h
  · replace h : (f.ok || false) = true := h
    simp only [Bool.or_false, Bool.false_or, Bool.and_eq_true, Bool.or_eq_true, decide_eq_true_eq, beq_iff_eq, bne_iff_ne, RI.ok] at h
    change 0x1C000000 + putRI f < 2 ^ 32; simp only [putRI]; have := bit_le f.w; have := src_lt f.a (by simp_all)
    have := bit_le f.e; omega
  · cases h
  · cases h
  · cases h

theorem amini (f : RI) : Statement (.amini f) := by
  intro form h
  rcases form with (_|_|_|_)|_
  · cases h
  · replace h : (f.ok || false) = true := h
    simp only [Bool.or_false, Bool.false_or, Bool.and_eq_true, Bool.or_eq_true, decide_eq_true_eq, beq_iff_eq, bne_iff_ne, RI.ok] at h
    change 0x20000000 + putRI f < 2 ^ 32; simp only [putRI]; have := bit_le f.w; have := src_lt f.a (by simp_all)
    have := bit_le f.e; omega
  · cases h
  · cases h
  · cases h

theorem amaxi (f : RI) : Statement (.amaxi f) := by
  intro form h
  rcases form with (_|_|_|_)|_
  · cases h
  · replace h : (f.ok || false) = true := h
    simp only [Bool.or_false, Bool.false_or, Bool.and_eq_true, Bool.or_eq_true, decide_eq_true_eq, beq_iff_eq, bne_iff_ne, RI.ok] at h
    change 0x24000000 + putRI f < 2 ^ 32; simp only [putRI]; have := bit_le f.w; have := src_lt f.a (by simp_all)
    have := bit_le f.e; omega
  · cases h
  · cases h
  · cases h

theorem abr (f : TS) : Statement (.abr f) := by
  intro form h
  rcases form with (_|_|_|_)|_
  · cases h
  · replace h : (f.ok || false) = true := h
    simp only [Bool.or_false, Bool.false_or, Bool.and_eq_true, Bool.or_eq_true, decide_eq_true_eq, beq_iff_eq, bne_iff_ne, TS.ok] at h
    change 0x28000000 + putTS f < 2 ^ 32; simp only [putTS]; have := src_lt f.c (by simp_all)
    have := src_lt f.a (by simp_all); have := bit_le f.e; omega
  · cases h
  · cases h
  · cases h

theorem xmovXToA (f : R1) : Statement (.xmovXToA f) := by
  intro form h
  rcases form with (_|_|_|_)|_
  · cases h
  · replace h : (f.ok2 || false) = true := h
    simp only [Bool.or_false, Bool.false_or, Bool.and_eq_true, Bool.or_eq_true, decide_eq_true_eq, beq_iff_eq, bne_iff_ne, R1.ok2] at h
    change 0x2C000000 + putR1 f < 2 ^ 32; simp only [putR1]; have := bit_le f.w; have := src_lt f.a (by simp_all)
    have := bit_le f.e; omega
  · cases h
  · cases h
  · cases h

theorem xmovAToX (f : R1) : Statement (.xmovAToX f) := by
  intro form h
  rcases form with (_|_|_|_)|_
  · cases h
  · replace h : (f.ok3 || false) = true := h
    simp only [Bool.or_false, Bool.false_or, Bool.and_eq_true, Bool.or_eq_true, decide_eq_true_eq, beq_iff_eq, bne_iff_ne, R1.ok3] at h
    change 0x2C000002 + putR1 f < 2 ^ 32; simp only [putR1]; have := bit_le f.w; have := src_lt f.a (by simp_all)
    have := bit_le f.e; omega
  · cases h
  · cases h
  · cases h

theorem tdmake (f : TdmakeF) : Statement (.tdmake f) := by
  intro form h
  rcases form with (_|_|_|_)|_
  · cases h
  · replace h : (f.d < 16 && f.a.isS && f.i < 8192 || false) = true := h
    simp only [Bool.or_false, Bool.false_or, Bool.and_eq_true, Bool.or_eq_true, decide_eq_true_eq, beq_iff_eq, bne_iff_ne] at h
    change 0x30000000 + putTdmakeF f < 2 ^ 32; simp only [putTdmakeF]; have := src_lt f.a (by simp_all)
    have := bit_le f.e; omega
  · cases h
  · cases h
  · cases h

theorem tdinfo (f : TdinfoF) : Statement (.tdinfo f) := by
  intro form h
  rcases form with (_|_|_|_)|_
  · cases h
  · replace h : ((!f.w || f.d == 0) && f.d < 32 && f.a < 16 && f.b.isS || false) = true := h
    simp only [Bool.or_false, Bool.false_or, Bool.and_eq_true, Bool.or_eq_true, decide_eq_true_eq, beq_iff_eq, bne_iff_ne] at h
    change 0x34000000 + putTdinfoF f < 2 ^ 32; simp only [putTdinfoF]; have := bit_le f.w
    have := src_lt f.b (by simp_all); have := bit_le f.e; omega
  · cases h
  · cases h
  · cases h

theorem tld (f : TldF) : Statement (.tld f) := by
  intro form h
  rcases form with (_|_|_|_)|_
  · cases h
  · replace h : (f.d < 16 && f.a < 16 && pairReg f.b || false) = true := h
    simp only [Bool.or_false, Bool.false_or, Bool.and_eq_true, Bool.or_eq_true, decide_eq_true_eq, beq_iff_eq, bne_iff_ne] at h
    change 0x38000000 + putTldF f < 2 ^ 32; simp only [putTldF]; have := bit_le f.s; have := bit_le f.t
    have := bit_le f.e; have := pair_le f.b (by simp_all); omega
  · cases h
  · cases h
  · cases h

theorem tst (f : TstF) : Statement (.tst f) := by
  intro form h
  rcases form with (_|_|_|_)|_
  · cases h
  · replace h : (f.d < 16 && f.a < 16 && pairReg f.b || false) = true := h
    simp only [Bool.or_false, Bool.false_or, Bool.and_eq_true, Bool.or_eq_true, decide_eq_true_eq, beq_iff_eq, bne_iff_ne] at h
    change 0x3C000000 + putTstF f < 2 ^ 32; simp only [putTstF]; have := bit_le f.v; have := bit_le f.s
    have := bit_le f.t; have := bit_le f.e; have := pair_le f.b (by simp_all); omega
  · cases h
  · cases h
  · cases h

theorem vld (f : VldF) : Statement (.vld f) := by
  intro form h
  rcases form with (_|_|_|_)|_
  · cases h
  · replace h : (f.ok || false) = true := h
    simp only [Bool.or_false, Bool.false_or, Bool.and_eq_true, Bool.or_eq_true, decide_eq_true_eq, beq_iff_eq, bne_iff_ne, VldF.ok] at h
    change 0x40000000 + putVldF f < 2 ^ 32; simp only [putVldF]; have := bit_le f.e
    have := pair_le f.b (by simp_all); omega
  · cases h
  · cases h
  · cases h

theorem vst (f : VldF) : Statement (.vst f) := by
  intro form h
  rcases form with (_|_|_|_)|_
  · cases h
  · replace h : (f.ok || false) = true := h
    simp only [Bool.or_false, Bool.false_or, Bool.and_eq_true, Bool.or_eq_true, decide_eq_true_eq, beq_iff_eq, bne_iff_ne, VldF.ok] at h
    change 0x44000000 + putVldF f < 2 ^ 32; simp only [putVldF]; have := bit_le f.e
    have := pair_le f.b (by simp_all); omega
  · cases h
  · cases h
  · cases h

theorem qbind (f : SlotSrc) : Statement (.qbind f) := by
  intro form h
  rcases form with (_|_|_|_)|_
  · cases h
  · replace h : (f.d < 16 && f.a < 16 && f.b.isS || false) = true := h
    simp only [Bool.or_false, Bool.false_or, Bool.and_eq_true, Bool.or_eq_true, decide_eq_true_eq, beq_iff_eq, bne_iff_ne] at h
    change 0x48000000 + putSlotSrc f < 2 ^ 32; simp only [putSlotSrc]; have := src_lt f.b (by simp_all)
    have := bit_le f.e; omega
  · cases h
  · cases h
  · cases h

theorem qunbind (f : Dst) : Statement (.qunbind f) := by
  intro form h
  rcases form with (_|_|_|_)|_
  · cases h
  · replace h : (f.ok || false) = true := h
    simp only [Bool.or_false, Bool.false_or, Bool.and_eq_true, Bool.or_eq_true, decide_eq_true_eq, beq_iff_eq, bne_iff_ne, Dst.ok] at h
    change 0x4C000000 + putDst f < 2 ^ 32; simp only [putDst]; have := bit_le f.e; omega
  · cases h
  · cases h
  · cases h

theorem qpos (f : QposF) : Statement (.qpos f) := by
  intro form h
  rcases form with (_|_|_|_)|_
  · cases h
  · replace h : ((!f.w || f.d == 0) && f.d < 32 && f.a < 16 || false) = true := h
    simp only [Bool.or_false, Bool.false_or, Bool.and_eq_true, Bool.or_eq_true, decide_eq_true_eq, beq_iff_eq, bne_iff_ne] at h
    change 0x50000000 + putQposF f < 2 ^ 32; simp only [putQposF]; have := bit_le f.w; have := bit_le f.e; omega
  · cases h
  · cases h
  · cases h

theorem tcopy (f : TcopyF) : Statement (.tcopy f) := by
  intro form h
  rcases form with (_|_|_|_)|_
  · cases h
  · replace h : (f.d < 32 && f.a < 16 && f.b < 16 && f.h < 8 || false) = true := h
    simp only [Bool.or_false, Bool.false_or, Bool.and_eq_true, Bool.or_eq_true, decide_eq_true_eq, beq_iff_eq, bne_iff_ne] at h
    change 0x54000000 + putTcopyF f < 2 ^ 32; simp only [putTcopyF]; have := bit_le f.k; have := bit_le f.c
    have := bit_le f.e; omega
  · cases h
  · cases h
  · cases h

theorem tcopyTile (f : TcopyTileF) : Statement (.tcopyTile f) := by
  intro form h
  rcases form with (_|_|_|_)|_
  · cases h
  · replace h : (f.d < 32 && f.a < 16 && f.b < 16 && f.h < 8 || false) = true := h
    simp only [Bool.or_false, Bool.false_or, Bool.and_eq_true, Bool.or_eq_true, decide_eq_true_eq, beq_iff_eq, bne_iff_ne] at h
    change 0x54000040 + putTcopyTileF f < 2 ^ 32; simp only [putTcopyTileF]; have := bit_le f.k; have := bit_le f.e
    omega
  · cases h
  · cases h
  · cases h

theorem cwait (f : CwaitF) : Statement (.cwait f) := by
  intro form h
  rcases form with (_|_|_|_)|_
  · cases h
  · replace h : (f.a.isS && f.h < 8 || false) = true := h
    simp only [Bool.or_false, Bool.false_or, Bool.and_eq_true, Bool.or_eq_true, decide_eq_true_eq, beq_iff_eq, bne_iff_ne] at h
    change 0x58000000 + putCwaitF f < 2 ^ 32; simp only [putCwaitF]; have := src_lt f.a (by simp_all)
    have := bit_le f.e; omega
  · cases h
  · cases h
  · cases h

theorem cresume (f : ChanF) : Statement (.cresume f) := by
  intro form h
  rcases form with (_|_|_|_)|_
  · cases h
  · replace h : (f.ok || false) = true := h
    simp only [Bool.or_false, Bool.false_or, Bool.and_eq_true, Bool.or_eq_true, decide_eq_true_eq, beq_iff_eq, bne_iff_ne, ChanF.ok] at h
    change 0x5C000000 + putChanF f < 2 ^ 32; simp only [putChanF]; have := bit_le f.e; omega
  · cases h
  · cases h
  · cases h

theorem cresumeAbort (f : ChanF) : Statement (.cresumeAbort f) := by
  intro form h
  rcases form with (_|_|_|_)|_
  · cases h
  · replace h : (f.ok || false) = true := h
    simp only [Bool.or_false, Bool.false_or, Bool.and_eq_true, Bool.or_eq_true, decide_eq_true_eq, beq_iff_eq, bne_iff_ne, ChanF.ok] at h
    change 0x5C000010 + putChanF f < 2 ^ 32; simp only [putChanF]; have := bit_le f.e; omega
  · cases h
  · cases h
  · cases h

theorem cstage (f : DstNum) : Statement (.cstage f) := by
  intro form h
  rcases form with (_|_|_|_)|_
  · cases h
  · replace h : ((!f.w || f.d == 0) && f.d < 32 && 1 ≤ f.n && f.n < 256 || false) = true := h
    simp only [Bool.or_false, Bool.false_or, Bool.and_eq_true, Bool.or_eq_true, decide_eq_true_eq, beq_iff_eq, bne_iff_ne] at h
    change 0x60000000 + putDstNum3 f < 2 ^ 32; simp only [putDstNum3]; have := bit_le f.w; have := bit_le f.e; omega
  · cases h
  · cases h
  · cases h

theorem barinit (f : SrcPair) : Statement (.barinit f) := by
  intro form h
  rcases form with (_|_|_|_)|_
  · cases h
  · replace h : (f.ok || false) = true := h
    simp only [Bool.or_false, Bool.false_or, Bool.and_eq_true, Bool.or_eq_true, decide_eq_true_eq, beq_iff_eq, bne_iff_ne, SrcPair.ok] at h
    change 0x64000000 + putSrcPair f < 2 ^ 32; simp only [putSrcPair]; have := src_lt f.a (by simp_all)
    have := src_lt f.b (by simp_all); have := bit_le f.e; omega
  · cases h
  · cases h
  · cases h

theorem bararrive (f : ArriveF) : Statement (.bararrive f) := by
  intro form h
  rcases form with (_|_|_|_)|_
  · cases h
  · replace h : ((!f.w || f.d == 0) && f.d < 32 && f.a.isS && f.b.isS && f.s < 11 || false) = true := h
    simp only [Bool.or_false, Bool.false_or, Bool.and_eq_true, Bool.or_eq_true, decide_eq_true_eq, beq_iff_eq, bne_iff_ne] at h
    change 0x68000000 + putArriveF f < 2 ^ 32; simp only [putArriveF]; have := bit_le f.w
    have := src_lt f.a (by simp_all); have := src_lt f.b (by simp_all); have := bit_le f.e; omega
  · cases h
  · cases h
  · cases h

theorem barwait (f : BarwaitF) : Statement (.barwait f) := by
  intro form h
  rcases form with (_|_|_|_)|_
  · cases h
  · replace h : (f.a.isS && f.b.isS && f.s < 11 || false) = true := h
    simp only [Bool.or_false, Bool.false_or, Bool.and_eq_true, Bool.or_eq_true, decide_eq_true_eq, beq_iff_eq, bne_iff_ne] at h
    change 0x6C000000 + putBarwaitF f < 2 ^ 32; simp only [putBarwaitF]; have := src_lt f.a (by simp_all)
    have := src_lt f.b (by simp_all); have := bit_le f.e; omega
  · cases h
  · cases h
  · cases h

theorem crcget (f : RR) : Statement (.crcget f) := by
  intro form h
  rcases form with (_|_|_|_)|_
  · cases h
  · replace h : (f.ok || false) = true := h
    simp only [Bool.or_false, Bool.false_or, Bool.and_eq_true, Bool.or_eq_true, decide_eq_true_eq, beq_iff_eq, bne_iff_ne, RR.ok] at h
    change 0x70000000 + putRR f < 2 ^ 32; simp only [putRR]; have := bit_le f.w; have := src_lt f.a (by simp_all)
    have := src_lt f.b (by simp_all); have := bit_le f.e; omega
  · cases h
  · cases h
  · cases h

theorem vadd (f : VF) : Statement (.vadd f) := by
  intro form h
  rcases form with (_|_|_|_)|_
  · cases h
  · cases h
  · replace h : (f.ok || false) = true := h
    simp only [Bool.or_false, Bool.false_or, Bool.and_eq_true, Bool.or_eq_true, decide_eq_true_eq, beq_iff_eq, bne_iff_ne, VF.ok] at h
    change 0x04000000 + putVF f < 2 ^ 32; simp only [putVF]; have := bit_le f.w; have := src_lt f.a (by simp_all)
    have := src_lt f.b (by simp_all); have := bit_le f.z; have := bit_le f.c; have := bit_le f.l; have := bit_le f.k
    have := bit_le f.e; omega
  · cases h
  · cases h

theorem vsub (f : VF) : Statement (.vsub f) := by
  intro form h
  rcases form with (_|_|_|_)|_
  · cases h
  · cases h
  · replace h : (f.ok || false) = true := h
    simp only [Bool.or_false, Bool.false_or, Bool.and_eq_true, Bool.or_eq_true, decide_eq_true_eq, beq_iff_eq, bne_iff_ne, VF.ok] at h
    change 0x08000000 + putVF f < 2 ^ 32; simp only [putVF]; have := bit_le f.w; have := src_lt f.a (by simp_all)
    have := src_lt f.b (by simp_all); have := bit_le f.z; have := bit_le f.c; have := bit_le f.l; have := bit_le f.k
    have := bit_le f.e; omega
  · cases h
  · cases h

theorem vmul (f : VF) : Statement (.vmul f) := by
  intro form h
  rcases form with (_|_|_|_)|_
  · cases h
  · cases h
  · replace h : (f.ok || false) = true := h
    simp only [Bool.or_false, Bool.false_or, Bool.and_eq_true, Bool.or_eq_true, decide_eq_true_eq, beq_iff_eq, bne_iff_ne, VF.ok] at h
    change 0x0C000000 + putVF f < 2 ^ 32; simp only [putVF]; have := bit_le f.w; have := src_lt f.a (by simp_all)
    have := src_lt f.b (by simp_all); have := bit_le f.z; have := bit_le f.c; have := bit_le f.l; have := bit_le f.k
    have := bit_le f.e; omega
  · cases h
  · cases h

theorem vfma (f : VF) : Statement (.vfma f) := by
  intro form h
  rcases form with (_|_|_|_)|_
  · cases h
  · cases h
  · replace h : (f.ok || false) = true := h
    simp only [Bool.or_false, Bool.false_or, Bool.and_eq_true, Bool.or_eq_true, decide_eq_true_eq, beq_iff_eq, bne_iff_ne, VF.ok] at h
    change 0x10000000 + putVF f < 2 ^ 32; simp only [putVF]; have := bit_le f.w; have := src_lt f.a (by simp_all)
    have := src_lt f.b (by simp_all); have := bit_le f.z; have := bit_le f.c; have := bit_le f.l; have := bit_le f.k
    have := bit_le f.e; omega
  · cases h
  · cases h

theorem vdiv (f : VF) : Statement (.vdiv f) := by
  intro form h
  rcases form with (_|_|_|_)|_
  · cases h
  · cases h
  · replace h : (f.ok || false) = true := h
    simp only [Bool.or_false, Bool.false_or, Bool.and_eq_true, Bool.or_eq_true, decide_eq_true_eq, beq_iff_eq, bne_iff_ne, VF.ok] at h
    change 0x14000000 + putVF f < 2 ^ 32; simp only [putVF]; have := bit_le f.w; have := src_lt f.a (by simp_all)
    have := src_lt f.b (by simp_all); have := bit_le f.z; have := bit_le f.c; have := bit_le f.l; have := bit_le f.k
    have := bit_le f.e; omega
  · cases h
  · cases h

theorem vmin (f : VF) : Statement (.vmin f) := by
  intro form h
  rcases form with (_|_|_|_)|_
  · cases h
  · cases h
  · replace h : (f.ok || false) = true := h
    simp only [Bool.or_false, Bool.false_or, Bool.and_eq_true, Bool.or_eq_true, decide_eq_true_eq, beq_iff_eq, bne_iff_ne, VF.ok] at h
    change 0x18000000 + putVF f < 2 ^ 32; simp only [putVF]; have := bit_le f.w; have := src_lt f.a (by simp_all)
    have := src_lt f.b (by simp_all); have := bit_le f.z; have := bit_le f.c; have := bit_le f.l; have := bit_le f.k
    have := bit_le f.e; omega
  · cases h
  · cases h

theorem vmax (f : VF) : Statement (.vmax f) := by
  intro form h
  rcases form with (_|_|_|_)|_
  · cases h
  · cases h
  · replace h : (f.ok || false) = true := h
    simp only [Bool.or_false, Bool.false_or, Bool.and_eq_true, Bool.or_eq_true, decide_eq_true_eq, beq_iff_eq, bne_iff_ne, VF.ok] at h
    change 0x1C000000 + putVF f < 2 ^ 32; simp only [putVF]; have := bit_le f.w; have := src_lt f.a (by simp_all)
    have := src_lt f.b (by simp_all); have := bit_le f.z; have := bit_le f.c; have := bit_le f.l; have := bit_le f.k
    have := bit_le f.e; omega
  · cases h
  · cases h

theorem vand (f : VF) : Statement (.vand f) := by
  intro form h
  rcases form with (_|_|_|_)|_
  · cases h
  · cases h
  · replace h : (f.ok || false) = true := h
    simp only [Bool.or_false, Bool.false_or, Bool.and_eq_true, Bool.or_eq_true, decide_eq_true_eq, beq_iff_eq, bne_iff_ne, VF.ok] at h
    change 0x20000000 + putVF f < 2 ^ 32; simp only [putVF]; have := bit_le f.w; have := src_lt f.a (by simp_all)
    have := src_lt f.b (by simp_all); have := bit_le f.z; have := bit_le f.c; have := bit_le f.l; have := bit_le f.k
    have := bit_le f.e; omega
  · cases h
  · cases h

theorem vor (f : VF) : Statement (.vor f) := by
  intro form h
  rcases form with (_|_|_|_)|_
  · cases h
  · cases h
  · replace h : (f.ok || false) = true := h
    simp only [Bool.or_false, Bool.false_or, Bool.and_eq_true, Bool.or_eq_true, decide_eq_true_eq, beq_iff_eq, bne_iff_ne, VF.ok] at h
    change 0x24000000 + putVF f < 2 ^ 32; simp only [putVF]; have := bit_le f.w; have := src_lt f.a (by simp_all)
    have := src_lt f.b (by simp_all); have := bit_le f.z; have := bit_le f.c; have := bit_le f.l; have := bit_le f.k
    have := bit_le f.e; omega
  · cases h
  · cases h

theorem vxor (f : VF) : Statement (.vxor f) := by
  intro form h
  rcases form with (_|_|_|_)|_
  · cases h
  · cases h
  · replace h : (f.ok || false) = true := h
    simp only [Bool.or_false, Bool.false_or, Bool.and_eq_true, Bool.or_eq_true, decide_eq_true_eq, beq_iff_eq, bne_iff_ne, VF.ok] at h
    change 0x28000000 + putVF f < 2 ^ 32; simp only [putVF]; have := bit_le f.w; have := src_lt f.a (by simp_all)
    have := src_lt f.b (by simp_all); have := bit_le f.z; have := bit_le f.c; have := bit_le f.l; have := bit_le f.k
    have := bit_le f.e; omega
  · cases h
  · cases h

theorem vshl (f : VF) : Statement (.vshl f) := by
  intro form h
  rcases form with (_|_|_|_)|_
  · cases h
  · cases h
  · replace h : (f.ok || false) = true := h
    simp only [Bool.or_false, Bool.false_or, Bool.and_eq_true, Bool.or_eq_true, decide_eq_true_eq, beq_iff_eq, bne_iff_ne, VF.ok] at h
    change 0x2C000000 + putVF f < 2 ^ 32; simp only [putVF]; have := bit_le f.w; have := src_lt f.a (by simp_all)
    have := src_lt f.b (by simp_all); have := bit_le f.z; have := bit_le f.c; have := bit_le f.l; have := bit_le f.k
    have := bit_le f.e; omega
  · cases h
  · cases h

theorem vshr (f : VF) : Statement (.vshr f) := by
  intro form h
  rcases form with (_|_|_|_)|_
  · cases h
  · cases h
  · replace h : (f.ok || false) = true := h
    simp only [Bool.or_false, Bool.false_or, Bool.and_eq_true, Bool.or_eq_true, decide_eq_true_eq, beq_iff_eq, bne_iff_ne, VF.ok] at h
    change 0x30000000 + putVF f < 2 ^ 32; simp only [putVF]; have := bit_le f.w; have := src_lt f.a (by simp_all)
    have := src_lt f.b (by simp_all); have := bit_le f.z; have := bit_le f.c; have := bit_le f.l; have := bit_le f.k
    have := bit_le f.e; omega
  · cases h
  · cases h

theorem vcmp (f : VcmpF) : Statement (.vcmp f) := by
  intro form h
  rcases form with (_|_|_|_)|_
  · cases h
  · cases h
  · replace h : ((!f.w || f.d == 0) && f.p < 4 && (!f.w || f.p == 0) && f.d < 8 && f.a.isV && f.b.isV && f.m < 8 && (!f.z || f.m != 0) && (!f.l || f.a.isReg) && (!f.k || f.b.isReg) || false) = true := h
    simp only [Bool.or_false, Bool.false_or, Bool.and_eq_true, Bool.or_eq_true, decide_eq_true_eq, beq_iff_eq, bne_iff_ne] at h
    change 0x34000000 + putVcmpF f < 2 ^ 32; simp only [putVcmpF]; have := bit_le f.w
    have := src_lt f.a (by simp_all); have := src_lt f.b (by simp_all); have := bit_le f.z; have := bit_le f.l
    have := bit_le f.k; have := bit_le f.e; omega
  · cases h
  · cases h

theorem vsel (f : VselF) : Statement (.vsel f) := by
  intro form h
  rcases form with (_|_|_|_)|_
  · cases h
  · cases h
  · replace h : ((!f.w || f.d == 0) && f.d < 32 && f.a.isV && f.b.isV && 1 ≤ f.m && f.m < 8 && (!f.l || f.a.isReg) && (!f.k || f.b.isReg) || false) = true := h
    simp only [Bool.or_false, Bool.false_or, Bool.and_eq_true, Bool.or_eq_true, decide_eq_true_eq, beq_iff_eq, bne_iff_ne] at h
    change 0x38000000 + putVselF f < 2 ^ 32; simp only [putVselF]; have := bit_le f.w
    have := src_lt f.a (by simp_all); have := src_lt f.b (by simp_all); have := bit_le f.c; have := bit_le f.l
    have := bit_le f.k; have := bit_le f.e; omega
  · cases h
  · cases h

theorem vmov (f : VUn) : Statement (.vmov f) := by
  intro form h
  rcases form with (_|_|_|_)|_
  · cases h
  · cases h
  · replace h : (f.ok || false) = true := h
    simp only [Bool.or_false, Bool.false_or, Bool.and_eq_true, Bool.or_eq_true, decide_eq_true_eq, beq_iff_eq, bne_iff_ne, VUn.ok] at h
    change 0x3C000000 + putVUn f < 2 ^ 32; simp only [putVUn]; have := bit_le f.w; have := src_lt f.a (by simp_all)
    have := bit_le f.z; have := bit_le f.c; have := bit_le f.l; have := bit_le f.e; omega
  · cases h
  · cases h

theorem vneg (f : VUn) : Statement (.vneg f) := by
  intro form h
  rcases form with (_|_|_|_)|_
  · cases h
  · cases h
  · replace h : (f.ok || false) = true := h
    simp only [Bool.or_false, Bool.false_or, Bool.and_eq_true, Bool.or_eq_true, decide_eq_true_eq, beq_iff_eq, bne_iff_ne, VUn.ok] at h
    change 0x3C000100 + putVUn f < 2 ^ 32; simp only [putVUn]; have := bit_le f.w; have := src_lt f.a (by simp_all)
    have := bit_le f.z; have := bit_le f.c; have := bit_le f.l; have := bit_le f.e; omega
  · cases h
  · cases h

theorem vabs (f : VUn) : Statement (.vabs f) := by
  intro form h
  rcases form with (_|_|_|_)|_
  · cases h
  · cases h
  · replace h : (f.ok || false) = true := h
    simp only [Bool.or_false, Bool.false_or, Bool.and_eq_true, Bool.or_eq_true, decide_eq_true_eq, beq_iff_eq, bne_iff_ne, VUn.ok] at h
    change 0x3C000200 + putVUn f < 2 ^ 32; simp only [putVUn]; have := bit_le f.w; have := src_lt f.a (by simp_all)
    have := bit_le f.z; have := bit_le f.c; have := bit_le f.l; have := bit_le f.e; omega
  · cases h
  · cases h

theorem vsqrt (f : VUn) : Statement (.vsqrt f) := by
  intro form h
  rcases form with (_|_|_|_)|_
  · cases h
  · cases h
  · replace h : (f.ok || false) = true := h
    simp only [Bool.or_false, Bool.false_or, Bool.and_eq_true, Bool.or_eq_true, decide_eq_true_eq, beq_iff_eq, bne_iff_ne, VUn.ok] at h
    change 0x3C000300 + putVUn f < 2 ^ 32; simp only [putVUn]; have := bit_le f.w; have := src_lt f.a (by simp_all)
    have := bit_le f.z; have := bit_le f.c; have := bit_le f.l; have := bit_le f.e; omega
  · cases h
  · cases h

theorem vexp2 (f : VUn) : Statement (.vexp2 f) := by
  intro form h
  rcases form with (_|_|_|_)|_
  · cases h
  · cases h
  · replace h : (f.ok || false) = true := h
    simp only [Bool.or_false, Bool.false_or, Bool.and_eq_true, Bool.or_eq_true, decide_eq_true_eq, beq_iff_eq, bne_iff_ne, VUn.ok] at h
    change 0x3C000400 + putVUn f < 2 ^ 32; simp only [putVUn]; have := bit_le f.w; have := src_lt f.a (by simp_all)
    have := bit_le f.z; have := bit_le f.c; have := bit_le f.l; have := bit_le f.e; omega
  · cases h
  · cases h

theorem vlog2 (f : VUn) : Statement (.vlog2 f) := by
  intro form h
  rcases form with (_|_|_|_)|_
  · cases h
  · cases h
  · replace h : (f.ok || false) = true := h
    simp only [Bool.or_false, Bool.false_or, Bool.and_eq_true, Bool.or_eq_true, decide_eq_true_eq, beq_iff_eq, bne_iff_ne, VUn.ok] at h
    change 0x3C000500 + putVUn f < 2 ^ 32; simp only [putVUn]; have := bit_le f.w; have := src_lt f.a (by simp_all)
    have := bit_le f.z; have := bit_le f.c; have := bit_le f.l; have := bit_le f.e; omega
  · cases h
  · cases h

theorem vrcp (f : VUn) : Statement (.vrcp f) := by
  intro form h
  rcases form with (_|_|_|_)|_
  · cases h
  · cases h
  · replace h : (f.ok || false) = true := h
    simp only [Bool.or_false, Bool.false_or, Bool.and_eq_true, Bool.or_eq_true, decide_eq_true_eq, beq_iff_eq, bne_iff_ne, VUn.ok] at h
    change 0x3C000600 + putVUn f < 2 ^ 32; simp only [putVUn]; have := bit_le f.w; have := src_lt f.a (by simp_all)
    have := bit_le f.z; have := bit_le f.c; have := bit_le f.l; have := bit_le f.e; omega
  · cases h
  · cases h

theorem vrsqrt (f : VUn) : Statement (.vrsqrt f) := by
  intro form h
  rcases form with (_|_|_|_)|_
  · cases h
  · cases h
  · replace h : (f.ok || false) = true := h
    simp only [Bool.or_false, Bool.false_or, Bool.and_eq_true, Bool.or_eq_true, decide_eq_true_eq, beq_iff_eq, bne_iff_ne, VUn.ok] at h
    change 0x3C000700 + putVUn f < 2 ^ 32; simp only [putVUn]; have := bit_le f.w; have := src_lt f.a (by simp_all)
    have := bit_le f.z; have := bit_le f.c; have := bit_le f.l; have := bit_le f.e; omega
  · cases h
  · cases h

theorem vtanh (f : VUn) : Statement (.vtanh f) := by
  intro form h
  rcases form with (_|_|_|_)|_
  · cases h
  · cases h
  · replace h : (f.ok || false) = true := h
    simp only [Bool.or_false, Bool.false_or, Bool.and_eq_true, Bool.or_eq_true, decide_eq_true_eq, beq_iff_eq, bne_iff_ne, VUn.ok] at h
    change 0x3C000800 + putVUn f < 2 ^ 32; simp only [putVUn]; have := bit_le f.w; have := src_lt f.a (by simp_all)
    have := bit_le f.z; have := bit_le f.c; have := bit_le f.l; have := bit_le f.e; omega
  · cases h
  · cases h

theorem vsigm (f : VUn) : Statement (.vsigm f) := by
  intro form h
  rcases form with (_|_|_|_)|_
  · cases h
  · cases h
  · replace h : (f.ok || false) = true := h
    simp only [Bool.or_false, Bool.false_or, Bool.and_eq_true, Bool.or_eq_true, decide_eq_true_eq, beq_iff_eq, bne_iff_ne, VUn.ok] at h
    change 0x3C000900 + putVUn f < 2 ^ 32; simp only [putVUn]; have := bit_le f.w; have := src_lt f.a (by simp_all)
    have := bit_le f.z; have := bit_le f.c; have := bit_le f.l; have := bit_le f.e; omega
  · cases h
  · cases h

theorem vcvt (f : VcvtF) : Statement (.vcvt f) := by
  intro form h
  rcases form with (_|_|_|_)|_
  · cases h
  · cases h
  · replace h : ((!f.w || f.d == 0) && f.d < 32 && f.a.isV && cvtTag f.b && f.m < 8 && (!f.z || f.m != 0) && (!f.l || f.a.isReg) || false) = true := h
    simp only [Bool.or_false, Bool.false_or, Bool.and_eq_true, Bool.or_eq_true, decide_eq_true_eq, beq_iff_eq, bne_iff_ne] at h
    change 0x40000000 + putVcvtF f < 2 ^ 32; simp only [putVcvtF]; have := bit_le f.w
    have := src_lt f.a (by simp_all); have := bit_le f.z; have := bit_le f.c; have := bit_le f.l; have := bit_le f.e
    have := cvt_le f.b (by simp_all); omega
  · cases h
  · cases h

theorem vquant (f : VquantF) : Statement (.vquant f) := by
  intro form h
  rcases form with (_|_|_|_)|_
  · cases h
  · cases h
  · replace h : (f.d < 32 && f.d % 2 == 0 && f.a.isV && f.b < 64 && f.b % 8 < 5 && f.b / 8 % 4 != 0 && (!f.l || f.a.isReg) || false) = true := h
    simp only [Bool.or_false, Bool.false_or, Bool.and_eq_true, Bool.or_eq_true, decide_eq_true_eq, beq_iff_eq, bne_iff_ne] at h
    change 0x44000000 + putVquantF f < 2 ^ 32; simp only [putVquantF]; have := src_lt f.a (by simp_all)
    have := bit_le f.c; have := bit_le f.l; have := bit_le f.e; omega
  · cases h
  · cases h

theorem vbcast (f : VbcastF) : Statement (.vbcast f) := by
  intro form h
  rcases form with (_|_|_|_)|_
  · cases h
  · cases h
  · replace h : ((!f.w || f.d == 0) && f.d < 32 && f.a.isW && f.b.isW && (!f.l || f.a.isReg) && (!f.k || f.b.isReg) || false) = true := h
    simp only [Bool.or_false, Bool.false_or, Bool.and_eq_true, Bool.or_eq_true, decide_eq_true_eq, beq_iff_eq, bne_iff_ne] at h
    change 0x48000000 + putVbcastF f < 2 ^ 32; simp only [putVbcastF]; have := bit_le f.w
    have := src_lt f.a (by simp_all); have := src_lt f.b (by simp_all); have := bit_le f.l; have := bit_le f.k
    have := bit_le f.e; omega
  · cases h
  · cases h

theorem viota (f : VOne) : Statement (.viota f) := by
  intro form h
  rcases form with (_|_|_|_)|_
  · cases h
  · cases h
  · replace h : (f.ok || false) = true := h
    simp only [Bool.or_false, Bool.false_or, Bool.and_eq_true, Bool.or_eq_true, decide_eq_true_eq, beq_iff_eq, bne_iff_ne, VOne.ok] at h
    change 0x4C000000 + putVOne f < 2 ^ 32; simp only [putVOne]; have := bit_le f.w
    have := src_lt f.a (by simp_all); have := bit_le f.l; have := bit_le f.e; omega
  · cases h
  · cases h

theorem vrsum (f : VredF) : Statement (.vrsum f) := by
  intro form h
  rcases form with (_|_|_|_)|_
  · cases h
  · cases h
  · replace h : (f.ok || false) = true := h
    simp only [Bool.or_false, Bool.false_or, Bool.and_eq_true, Bool.or_eq_true, decide_eq_true_eq, beq_iff_eq, bne_iff_ne, VredF.ok] at h
    change 0x50000000 + putVredF f < 2 ^ 32; simp only [putVredF]; have := bit_le f.w
    have := src_lt f.a (by simp_all); have := bit_le f.l; have := bit_le f.e; omega
  · cases h
  · cases h

theorem vrmax (f : VredF) : Statement (.vrmax f) := by
  intro form h
  rcases form with (_|_|_|_)|_
  · cases h
  · cases h
  · replace h : (f.ok || false) = true := h
    simp only [Bool.or_false, Bool.false_or, Bool.and_eq_true, Bool.or_eq_true, decide_eq_true_eq, beq_iff_eq, bne_iff_ne, VredF.ok] at h
    change 0x54000000 + putVredF f < 2 ^ 32; simp only [putVredF]; have := bit_le f.w
    have := src_lt f.a (by simp_all); have := bit_le f.l; have := bit_le f.e; omega
  · cases h
  · cases h

theorem vrmin (f : VredF) : Statement (.vrmin f) := by
  intro form h
  rcases form with (_|_|_|_)|_
  · cases h
  · cases h
  · replace h : (f.ok || false) = true := h
    simp only [Bool.or_false, Bool.false_or, Bool.and_eq_true, Bool.or_eq_true, decide_eq_true_eq, beq_iff_eq, bne_iff_ne, VredF.ok] at h
    change 0x58000000 + putVredF f < 2 ^ 32; simp only [putVredF]; have := bit_le f.w
    have := src_lt f.a (by simp_all); have := bit_le f.l; have := bit_le f.e; omega
  · cases h
  · cases h

theorem vcompress (f : VTwo) : Statement (.vcompress f) := by
  intro form h
  rcases form with (_|_|_|_)|_
  · cases h
  · cases h
  · replace h : (f.ok || false) = true := h
    simp only [Bool.or_false, Bool.false_or, Bool.and_eq_true, Bool.or_eq_true, decide_eq_true_eq, beq_iff_eq, bne_iff_ne, VTwo.ok] at h
    change 0x5C000000 + putVTwo f < 2 ^ 32; simp only [putVTwo]; have := bit_le f.w
    have := src_lt f.a (by simp_all); have := src_lt f.b (by simp_all); have := bit_le f.c; have := bit_le f.l
    have := bit_le f.k; have := bit_le f.e; omega
  · cases h
  · cases h

theorem vexpand (f : VTwo) : Statement (.vexpand f) := by
  intro form h
  rcases form with (_|_|_|_)|_
  · cases h
  · cases h
  · replace h : (f.ok || false) = true := h
    simp only [Bool.or_false, Bool.false_or, Bool.and_eq_true, Bool.or_eq_true, decide_eq_true_eq, beq_iff_eq, bne_iff_ne, VTwo.ok] at h
    change 0x60000000 + putVTwo f < 2 ^ 32; simp only [putVTwo]; have := bit_le f.w
    have := src_lt f.a (by simp_all); have := src_lt f.b (by simp_all); have := bit_le f.c; have := bit_le f.l
    have := bit_le f.k; have := bit_le f.e; omega
  · cases h
  · cases h

theorem vslice (f : VTwoX) : Statement (.vslice f) := by
  intro form h
  rcases form with (_|_|_|_)|_
  · cases h
  · cases h
  · replace h : (f.ok || false) = true := h
    simp only [Bool.or_false, Bool.false_or, Bool.and_eq_true, Bool.or_eq_true, decide_eq_true_eq, beq_iff_eq, bne_iff_ne, VTwoX.ok] at h
    change 0x64000000 + putVTwoX f < 2 ^ 32; simp only [putVTwoX]; have := bit_le f.w
    have := src_lt f.a (by simp_all); have := src_lt f.b (by simp_all); have := bit_le f.c; have := bit_le f.l
    have := bit_le f.e; omega
  · cases h
  · cases h

theorem vcat (f : VTwo) : Statement (.vcat f) := by
  intro form h
  rcases form with (_|_|_|_)|_
  · cases h
  · cases h
  · replace h : ((!f.w || f.d == 0) && f.d < 32 && f.a.isV && f.b.isV && (!f.l || f.a.isReg) && (!f.k || f.b.isReg) || false) = true := h
    simp only [Bool.or_false, Bool.false_or, Bool.and_eq_true, Bool.or_eq_true, decide_eq_true_eq, beq_iff_eq, bne_iff_ne] at h
    change 0x68000000 + putVTwo f < 2 ^ 32; simp only [putVTwo]; have := bit_le f.w
    have := src_lt f.a (by simp_all); have := src_lt f.b (by simp_all); have := bit_le f.c; have := bit_le f.l
    have := bit_le f.k; have := bit_le f.e; omega
  · cases h
  · cases h

theorem vextend (f : VTwoX) : Statement (.vextend f) := by
  intro form h
  rcases form with (_|_|_|_)|_
  · cases h
  · cases h
  · replace h : (f.ok || false) = true := h
    simp only [Bool.or_false, Bool.false_or, Bool.and_eq_true, Bool.or_eq_true, decide_eq_true_eq, beq_iff_eq, bne_iff_ne, VTwoX.ok] at h
    change 0x6C000000 + putVTwoX f < 2 ^ 32; simp only [putVTwoX]; have := bit_le f.w
    have := src_lt f.a (by simp_all); have := src_lt f.b (by simp_all); have := bit_le f.c; have := bit_le f.l
    have := bit_le f.e; omega
  · cases h
  · cases h

theorem vcoal (f : VOne) : Statement (.vcoal f) := by
  intro form h
  rcases form with (_|_|_|_)|_
  · cases h
  · cases h
  · replace h : (f.ok || false) = true := h
    simp only [Bool.or_false, Bool.false_or, Bool.and_eq_true, Bool.or_eq_true, decide_eq_true_eq, beq_iff_eq, bne_iff_ne, VOne.ok] at h
    change 0x70000000 + putVOne f < 2 ^ 32; simp only [putVOne]; have := bit_le f.w
    have := src_lt f.a (by simp_all); have := bit_le f.l; have := bit_le f.e; omega
  · cases h
  · cases h

theorem vruns (f : VlenF) : Statement (.vruns f) := by
  intro form h
  rcases form with (_|_|_|_)|_
  · cases h
  · cases h
  · replace h : (f.ok || false) = true := h
    simp only [Bool.or_false, Bool.false_or, Bool.and_eq_true, Bool.or_eq_true, decide_eq_true_eq, beq_iff_eq, bne_iff_ne, VlenF.ok] at h
    change 0x74000000 + putVlenF f < 2 ^ 32; simp only [putVlenF]; have := bit_le f.w
    have := src_lt f.a (by cases hb : f.b <;> simp_all); have := bit_le f.b; have := bit_le f.e; omega
  · cases h
  · cases h

theorem vlen (f : VlenF) : Statement (.vlen f) := by
  intro form h
  rcases form with (_|_|_|_)|_
  · cases h
  · cases h
  · replace h : (f.ok || false) = true := h
    simp only [Bool.or_false, Bool.false_or, Bool.and_eq_true, Bool.or_eq_true, decide_eq_true_eq, beq_iff_eq, bne_iff_ne, VlenF.ok] at h
    change 0x78000000 + putVlenF f < 2 ^ 32; simp only [putVlenF]; have := bit_le f.w
    have := src_lt f.a (by cases hb : f.b <;> simp_all); have := bit_le f.b; have := bit_le f.e; omega
  · cases h
  · cases h

theorem vspill (f : VstF) : Statement (.vspill f) := by
  intro form h
  rcases form with (_|_|_|_)|_
  · cases h
  · cases h
  · replace h : (f.ok || false) = true := h
    simp only [Bool.or_false, Bool.false_or, Bool.and_eq_true, Bool.or_eq_true, decide_eq_true_eq, beq_iff_eq, bne_iff_ne, VstF.ok] at h
    change 0x7C000000 + putVstF f < 2 ^ 32; simp only [putVstF]; have := src_lt f.a (by simp_all)
    have := src_lt f.b (by simp_all); have := bit_le f.l; have := bit_le f.e; omega
  · cases h
  · cases h

theorem vfill (f : VfillF) : Statement (.vfill f) := by
  intro form h
  rcases form with (_|_|_|_)|_
  · cases h
  · cases h
  · replace h : ((!f.w || f.d == 0) && f.d < 32 && f.b.isX || false) = true := h
    simp only [Bool.or_false, Bool.false_or, Bool.and_eq_true, Bool.or_eq_true, decide_eq_true_eq, beq_iff_eq, bne_iff_ne] at h
    change 0x80000000 + putVfillF f < 2 ^ 32; simp only [putVfillF]; have := bit_le f.w
    have := src_lt f.b (by simp_all); have := bit_le f.e; omega
  · cases h
  · cases h

theorem vlds (f : VldsF) : Statement (.vlds f) := by
  intro form h
  rcases form with (_|_|_|_)|_
  · cases h
  · cases h
  · replace h : ((!f.w || f.d == 0) && f.d < 32 && f.b.isX || false) = true := h
    simp only [Bool.or_false, Bool.false_or, Bool.and_eq_true, Bool.or_eq_true, decide_eq_true_eq, beq_iff_eq, bne_iff_ne] at h
    change 0x84000000 + putVldsF f < 2 ^ 32; simp only [putVldsF]; have := bit_le f.w
    have := src_lt f.b (by simp_all); have := bit_le f.c; have := bit_le f.e; omega
  · cases h
  · cases h

theorem vsts (f : VstF) : Statement (.vsts f) := by
  intro form h
  rcases form with (_|_|_|_)|_
  · cases h
  · cases h
  · replace h : (f.ok || false) = true := h
    simp only [Bool.or_false, Bool.false_or, Bool.and_eq_true, Bool.or_eq_true, decide_eq_true_eq, beq_iff_eq, bne_iff_ne, VstF.ok] at h
    change 0x88000000 + putVstF f < 2 ^ 32; simp only [putVstF]; have := src_lt f.a (by simp_all)
    have := src_lt f.b (by simp_all); have := bit_le f.l; have := bit_le f.e; omega
  · cases h
  · cases h

theorem vgather (f : VgatherF) : Statement (.vgather f) := by
  intro form h
  rcases form with (_|_|_|_)|_
  · cases h
  · cases h
  · replace h : ((!f.w || f.d == 0) && f.d < 32 && f.a.isW && f.b.isX && f.m < 8 && (!f.z || f.m != 0) && (!f.l || f.a.isReg) || false) = true := h
    simp only [Bool.or_false, Bool.false_or, Bool.and_eq_true, Bool.or_eq_true, decide_eq_true_eq, beq_iff_eq, bne_iff_ne] at h
    change 0x8C000000 + putVgatherF f < 2 ^ 32; simp only [putVgatherF]; have := bit_le f.w
    have := src_lt f.a (by simp_all); have := src_lt f.b (by simp_all); have := bit_le f.z; have := bit_le f.c
    have := bit_le f.l; have := bit_le f.e; omega
  · cases h
  · cases h

theorem vscatter (f : VscatterF) : Statement (.vscatter f) := by
  intro form h
  rcases form with (_|_|_|_)|_
  · cases h
  · cases h
  · replace h : (f.d < 32 && f.a.isW && f.b.isX && f.m < 8 && (!f.l || f.a.isReg) || false) = true := h
    simp only [Bool.or_false, Bool.false_or, Bool.and_eq_true, Bool.or_eq_true, decide_eq_true_eq, beq_iff_eq, bne_iff_ne] at h
    change 0x90000000 + putVscatterF f < 2 ^ 32; simp only [putVscatterF]; have := src_lt f.a (by simp_all)
    have := src_lt f.b (by simp_all); have := bit_le f.l; have := bit_le f.e; omega
  · cases h
  · cases h

theorem vmovxToV (f : R1) : Statement (.vmovxToV f) := by
  intro form h
  rcases form with (_|_|_|_)|_
  · cases h
  · cases h
  · replace h : (f.ok2 || false) = true := h
    simp only [Bool.or_false, Bool.false_or, Bool.and_eq_true, Bool.or_eq_true, decide_eq_true_eq, beq_iff_eq, bne_iff_ne, R1.ok2] at h
    change 0x94000000 + putR1 f < 2 ^ 32; simp only [putR1]; have := bit_le f.w; have := src_lt f.a (by simp_all)
    have := bit_le f.e; omega
  · cases h
  · cases h

theorem vmovxToX (f : R1) : Statement (.vmovxToX f) := by
  intro form h
  rcases form with (_|_|_|_)|_
  · cases h
  · cases h
  · replace h : ((!f.w || f.d == 0) && f.d < 8 && f.a.isW || false) = true := h
    simp only [Bool.or_false, Bool.false_or, Bool.and_eq_true, Bool.or_eq_true, decide_eq_true_eq, beq_iff_eq, bne_iff_ne] at h
    change 0x94000100 + putR1 f < 2 ^ 32; simp only [putR1]; have := bit_le f.w; have := src_lt f.a (by simp_all)
    have := bit_le f.e; omega
  · cases h
  · cases h

theorem mand (f : RR) : Statement (.mand f) := by
  intro form h
  rcases form with (_|_|_|_)|_
  · cases h
  · cases h
  · replace h : (f.ok2 || false) = true := h
    simp only [Bool.or_false, Bool.false_or, Bool.and_eq_true, Bool.or_eq_true, decide_eq_true_eq, beq_iff_eq, bne_iff_ne, RR.ok2] at h
    change 0x98000000 + putRR f < 2 ^ 32; simp only [putRR]; have := bit_le f.w; have := src_lt f.a (by simp_all)
    have := src_lt f.b (by simp_all); have := bit_le f.e; omega
  · cases h
  · cases h

theorem mor (f : RR) : Statement (.mor f) := by
  intro form h
  rcases form with (_|_|_|_)|_
  · cases h
  · cases h
  · replace h : (f.ok2 || false) = true := h
    simp only [Bool.or_false, Bool.false_or, Bool.and_eq_true, Bool.or_eq_true, decide_eq_true_eq, beq_iff_eq, bne_iff_ne, RR.ok2] at h
    change 0x98000002 + putRR f < 2 ^ 32; simp only [putRR]; have := bit_le f.w; have := src_lt f.a (by simp_all)
    have := src_lt f.b (by simp_all); have := bit_le f.e; omega
  · cases h
  · cases h

theorem mxor (f : RR) : Statement (.mxor f) := by
  intro form h
  rcases form with (_|_|_|_)|_
  · cases h
  · cases h
  · replace h : (f.ok2 || false) = true := h
    simp only [Bool.or_false, Bool.false_or, Bool.and_eq_true, Bool.or_eq_true, decide_eq_true_eq, beq_iff_eq, bne_iff_ne, RR.ok2] at h
    change 0x98000004 + putRR f < 2 ^ 32; simp only [putRR]; have := bit_le f.w; have := src_lt f.a (by simp_all)
    have := src_lt f.b (by simp_all); have := bit_le f.e; omega
  · cases h
  · cases h

theorem mnot (f : R1) : Statement (.mnot f) := by
  intro form h
  rcases form with (_|_|_|_)|_
  · cases h
  · cases h
  · replace h : (f.ok4 || false) = true := h
    simp only [Bool.or_false, Bool.false_or, Bool.and_eq_true, Bool.or_eq_true, decide_eq_true_eq, beq_iff_eq, bne_iff_ne, R1.ok4] at h
    change 0x98000006 + putR1 f < 2 ^ 32; simp only [putR1]; have := bit_le f.w; have := src_lt f.a (by simp_all)
    have := bit_le f.e; omega
  · cases h
  · cases h

theorem mpopc (f : R1) : Statement (.mpopc f) := by
  intro form h
  rcases form with (_|_|_|_)|_
  · cases h
  · cases h
  · replace h : (f.ok4 || false) = true := h
    simp only [Bool.or_false, Bool.false_or, Bool.and_eq_true, Bool.or_eq_true, decide_eq_true_eq, beq_iff_eq, bne_iff_ne, R1.ok4] at h
    change 0x98000008 + putR1 f < 2 ^ 32; simp only [putR1]; have := bit_le f.w; have := src_lt f.a (by simp_all)
    have := bit_le f.e; omega
  · cases h
  · cases h

theorem mshape (f : MshapeF) : Statement (.mshape f) := by
  intro form h
  rcases form with (_|_|_|_)|_
  · cases h
  · cases h
  · cases h
  · replace h : (f.d < 16 && f.a.isX || false) = true := h
    simp only [Bool.or_false, Bool.false_or, Bool.and_eq_true, Bool.or_eq_true, decide_eq_true_eq, beq_iff_eq, bne_iff_ne] at h
    change 0x04000000 + putMshapeF f < 2 ^ 32; simp only [putMshapeF]; have := src_lt f.a (by simp_all)
    have := bit_le f.e; omega
  · cases h

theorem cshape (f : MshapeF) : Statement (.cshape f) := by
  intro form h
  rcases form with (_|_|_|_)|_
  · cases h
  · cases h
  · cases h
  · replace h : (f.d < 8 && f.a.isX || false) = true := h
    simp only [Bool.or_false, Bool.false_or, Bool.and_eq_true, Bool.or_eq_true, decide_eq_true_eq, beq_iff_eq, bne_iff_ne] at h
    change 0x08000000 + putMshapeF f < 2 ^ 32; simp only [putMshapeF]; have := src_lt f.a (by simp_all)
    have := bit_le f.e; omega
  · cases h

theorem mzeroC (f : Dst) : Statement (.mzeroC f) := by
  intro form h
  rcases form with (_|_|_|_)|_
  · cases h
  · cases h
  · cases h
  · replace h : (f.d < 8 || false) = true := h
    simp only [Bool.or_false, Bool.false_or, Bool.and_eq_true, Bool.or_eq_true, decide_eq_true_eq, beq_iff_eq, bne_iff_ne] at h
    change 0x0C000000 + putDst f < 2 ^ 32; simp only [putDst]; have := bit_le f.e; omega
  · cases h

theorem mzeroT (f : Dst) : Statement (.mzeroT f) := by
  intro form h
  rcases form with (_|_|_|_)|_
  · cases h
  · cases h
  · cases h
  · replace h : (f.ok || false) = true := h
    simp only [Bool.or_false, Bool.false_or, Bool.and_eq_true, Bool.or_eq_true, decide_eq_true_eq, beq_iff_eq, bne_iff_ne, Dst.ok] at h
    change 0x0C000002 + putDst f < 2 ^ 32; simp only [putDst]; have := bit_le f.e; omega
  · cases h

theorem mlds (f : MldsF) : Statement (.mlds f) := by
  intro form h
  rcases form with (_|_|_|_)|_
  · cases h
  · cases h
  · cases h
  · replace h : (f.a < 16 || false) = true := h
    simp only [Bool.or_false, Bool.false_or, Bool.and_eq_true, Bool.or_eq_true, decide_eq_true_eq, beq_iff_eq, bne_iff_ne] at h
    change 0x10000000 + putMldsF f < 2 ^ 32; simp only [putMldsF]; have := bit_le f.e; omega
  · cases h

theorem mldsSp (f : MldsSpF) : Statement (.mldsSp f) := by
  intro form h
  rcases form with (_|_|_|_)|_
  · cases h
  · cases h
  · cases h
  · replace h : (f.a < 16 && f.b < 16 || false) = true := h
    simp only [Bool.or_false, Bool.false_or, Bool.and_eq_true, Bool.or_eq_true, decide_eq_true_eq, beq_iff_eq, bne_iff_ne] at h
    change 0x10000002 + putMldsSpF f < 2 ^ 32; simp only [putMldsSpF]; have := bit_le f.e; omega
  · cases h

theorem mswap (f : EndF) : Statement (.mswap f) := by
  intro form h
  rcases form with (_|_|_|_)|_
  · cases h
  · cases h
  · cases h
  · replace h : (true || false) = true := h; change 0x14000000 + putEndF f < 2 ^ 32; simp only [putEndF]
    have := bit_le f.e; omega
  · cases h

theorem mma (f : MmaF) : Statement (.mma f) := by
  intro form h
  rcases form with (_|_|_|_)|_
  · cases h
  · cases h
  · cases h
  · replace h : (f.d < 8 && f.a.isTQ && f.b.isX || false) = true := h
    simp only [Bool.or_false, Bool.false_or, Bool.and_eq_true, Bool.or_eq_true, decide_eq_true_eq, beq_iff_eq, bne_iff_ne] at h
    change 0x18000000 + putMmaF f < 2 ^ 32; simp only [putMmaF]; have := src_lt f.a (by simp_all)
    have := src_lt f.b (by simp_all); have := bit_le f.p; have := bit_le f.s; have := bit_le f.e; omega
  · cases h

theorem mnest (f : MnestF) : Statement (.mnest f) := by
  intro form h
  rcases form with (_|_|_|_)|_
  · cases h
  · cases h
  · cases h
  · replace h : (f.n < 6 && f.a.isX || false) = true := h
    simp only [Bool.or_false, Bool.false_or, Bool.and_eq_true, Bool.or_eq_true, decide_eq_true_eq, beq_iff_eq, bne_iff_ne] at h
    change 0x1C000000 + putMnestF f < 2 ^ 32; simp only [putMnestF]; have := src_lt f.a (by simp_all)
    have := bit_le f.e; omega
  · cases h

theorem mgo (f : MgoF) : Statement (.mgo f) := by
  intro form h
  rcases form with (_|_|_|_)|_
  · cases h
  · cases h
  · cases h
  · replace h : (f.d < 8 && f.a < 16 && f.b < 8 && f.b % 2 == 0 || false) = true := h
    simp only [Bool.or_false, Bool.false_or, Bool.and_eq_true, Bool.or_eq_true, decide_eq_true_eq, beq_iff_eq, bne_iff_ne] at h
    change 0x20000000 + putMgoF f < 2 ^ 32; simp only [putMgoF]; have := bit_le f.p; have := bit_le f.s
    have := bit_le f.e; omega
  · cases h

theorem mwait (f : EndF) : Statement (.mwait f) := by
  intro form h
  rcases form with (_|_|_|_)|_
  · cases h
  · cases h
  · cases h
  · replace h : (true || false) = true := h; change 0x24000000 + putEndF f < 2 ^ 32; simp only [putEndF]
    have := bit_le f.e; omega
  · cases h

theorem mrpt (f : MrptF) : Statement (.mrpt f) := by
  intro form h
  rcases form with (_|_|_|_)|_
  · cases h
  · cases h
  · cases h
  · replace h : ((!f.w || f.d == 0) && f.d < 8 && f.b ≤ 8 || false) = true := h
    simp only [Bool.or_false, Bool.false_or, Bool.and_eq_true, Bool.or_eq_true, decide_eq_true_eq, beq_iff_eq, bne_iff_ne] at h
    change 0x28000000 + putMrptF f < 2 ^ 32; simp only [putMrptF]; have := bit_le f.w; have := bit_le f.e; omega
  · cases h

theorem mmode (f : R1) : Statement (.mmode f) := by
  intro form h
  rcases form with (_|_|_|_)|_
  · cases h
  · cases h
  · cases h
  · replace h : ((!f.w || f.d == 0) && f.d < 8 && f.a.isX || false) = true := h
    simp only [Bool.or_false, Bool.false_or, Bool.and_eq_true, Bool.or_eq_true, decide_eq_true_eq, beq_iff_eq, bne_iff_ne] at h
    change 0x2C000000 + putR1 f < 2 ^ 32; simp only [putR1]; have := bit_le f.w; have := src_lt f.a (by simp_all)
    have := bit_le f.e; omega
  · cases h

theorem maccCvt (f : MaccF) : Statement (.maccCvt f) := by
  intro form h
  rcases form with (_|_|_|_)|_
  · cases h
  · cases h
  · cases h
  · replace h : (f.ok || false) = true := h
    simp only [Bool.or_false, Bool.false_or, Bool.and_eq_true, Bool.or_eq_true, decide_eq_true_eq, beq_iff_eq, bne_iff_ne, MaccF.ok] at h
    change 0x30000000 + putMaccF f < 2 ^ 32; simp only [putMaccF]; have := bit_le f.e; omega
  · cases h

theorem maccRelu (f : MaccF) : Statement (.maccRelu f) := by
  intro form h
  rcases form with (_|_|_|_)|_
  · cases h
  · cases h
  · cases h
  · replace h : (f.ok || false) = true := h
    simp only [Bool.or_false, Bool.false_or, Bool.and_eq_true, Bool.or_eq_true, decide_eq_true_eq, beq_iff_eq, bne_iff_ne, MaccF.ok] at h
    change 0x30000002 + putMaccF f < 2 ^ 32; simp only [putMaccF]; have := bit_le f.e; omega
  · cases h

theorem maccAdd (f : MaccF) : Statement (.maccAdd f) := by
  intro form h
  rcases form with (_|_|_|_)|_
  · cases h
  · cases h
  · cases h
  · replace h : (f.d < 8 && f.a < 8 || false) = true := h
    simp only [Bool.or_false, Bool.false_or, Bool.and_eq_true, Bool.or_eq_true, decide_eq_true_eq, beq_iff_eq, bne_iff_ne] at h
    change 0x30000004 + putMaccF f < 2 ^ 32; simp only [putMaccF]; have := bit_le f.e; omega
  · cases h

theorem maccScl (f : SlotSrc) : Statement (.maccScl f) := by
  intro form h
  rcases form with (_|_|_|_)|_
  · cases h
  · cases h
  · cases h
  · replace h : (f.d < 8 && f.a < 8 && f.b.isX || false) = true := h
    simp only [Bool.or_false, Bool.false_or, Bool.and_eq_true, Bool.or_eq_true, decide_eq_true_eq, beq_iff_eq, bne_iff_ne] at h
    change 0x30000006 + putSlotSrc f < 2 ^ 32; simp only [putSlotSrc]; have := src_lt f.b (by simp_all)
    have := bit_le f.e; omega
  · cases h

theorem maccLd (f : MaccF) : Statement (.maccLd f) := by
  intro form h
  rcases form with (_|_|_|_)|_
  · cases h
  · cases h
  · cases h
  · replace h : (f.d < 8 && f.a < 16 || false) = true := h
    simp only [Bool.or_false, Bool.false_or, Bool.and_eq_true, Bool.or_eq_true, decide_eq_true_eq, beq_iff_eq, bne_iff_ne] at h
    change 0x30000008 + putMaccF f < 2 ^ 32; simp only [putMaccF]; have := bit_le f.e; omega
  · cases h

theorem mtest (f : DstF) : Statement (.mtest f) := by
  intro form h
  rcases form with (_|_|_|_)|_
  · cases h
  · cases h
  · cases h
  · replace h : ((!f.w || f.d == 0) && f.d < 8 || false) = true := h
    simp only [Bool.or_false, Bool.false_or, Bool.and_eq_true, Bool.or_eq_true, decide_eq_true_eq, beq_iff_eq, bne_iff_ne] at h
    change 0x34000000 + putDstF f < 2 ^ 32; simp only [putDstF]; have := bit_le f.w; have := bit_le f.e; omega
  · cases h

theorem act (k : Nat) (r : Nat) (i : Bool) : Statement (.act k r i) := by
  intro form h
  rcases form with (_|_|_|_)|_
  · cases h
  · cases h
  · cases h
  · cases h
  · replace h : (k < 4 && r < 8) = true := h
    simp only [Bool.or_false, Bool.false_or, Bool.and_eq_true, Bool.or_eq_true, decide_eq_true_eq, beq_iff_eq, bne_iff_ne] at h
    change 0x04000000 + (k * 2 ^ 24 + r * 2 ^ 21 + b2n i * 2 ^ 20) < 2 ^ 32; have := bit_le i; omega

theorem pre (k : Nat) : Statement (.pre k) := by
  intro form h
  rcases form with (_|_|_|_)|_
  · cases h
  · cases h
  · cases h
  · cases h
  · replace h : (decide (k < 4)) = true := h
    simp only [Bool.or_false, Bool.false_or, Bool.and_eq_true, Bool.or_eq_true, decide_eq_true_eq, beq_iff_eq, bne_iff_ne] at h
    change 0x08000000 + (k * 2 ^ 24) < 2 ^ 32; omega

theorem ref (k : Nat) : Statement (.ref k) := by
  intro form h
  rcases form with (_|_|_|_)|_
  · cases h
  · cases h
  · cases h
  · cases h
  · replace h : (decide (k < 4)) = true := h
    simp only [Bool.or_false, Bool.false_or, Bool.and_eq_true, Bool.or_eq_true, decide_eq_true_eq, beq_iff_eq, bne_iff_ne] at h
    change 0x0C000000 + (k * 2 ^ 24) < 2 ^ 32; omega

theorem rd (k : Nat) : Statement (.rd k) := by
  intro form h
  rcases form with (_|_|_|_)|_
  · cases h
  · cases h
  · cases h
  · cases h
  · replace h : (decide (k < 4)) = true := h
    simp only [Bool.or_false, Bool.false_or, Bool.and_eq_true, Bool.or_eq_true, decide_eq_true_eq, beq_iff_eq, bne_iff_ne] at h
    change 0x10000000 + (k * 2 ^ 24) < 2 ^ 32; omega

theorem wr (k : Nat) (s : Nat) : Statement (.wr k s) := by
  intro form h
  rcases form with (_|_|_|_)|_
  · cases h
  · cases h
  · cases h
  · cases h
  · replace h : (k < 4 && s < 5) = true := h
    simp only [Bool.or_false, Bool.false_or, Bool.and_eq_true, Bool.or_eq_true, decide_eq_true_eq, beq_iff_eq, bne_iff_ne] at h
    change 0x14000000 + (k * 2 ^ 24 + s * 2 ^ 21) < 2 ^ 32; omega

theorem cmp (o : Nat) (s : Nat) (n : Bool) : Statement (.cmp o s n) := by
  intro form h
  rcases form with (_|_|_|_)|_
  · cases h
  · cases h
  · cases h
  · cases h
  · replace h : (o < 3 && s < 5) = true := h
    simp only [Bool.or_false, Bool.false_or, Bool.and_eq_true, Bool.or_eq_true, decide_eq_true_eq, beq_iff_eq, bne_iff_ne] at h
    change 0x1C000000 + (o * 2 ^ 24 + s * 2 ^ 21 + b2n n * 2 ^ 20) < 2 ^ 32; have := bit_le n; omega

theorem awr (d : Nat) : Statement (.awr d) := by
  intro form h
  rcases form with (_|_|_|_)|_
  · cases h
  · cases h
  · cases h
  · cases h
  · replace h : (decide (d < 5)) = true := h
    simp only [Bool.or_false, Bool.false_or, Bool.and_eq_true, Bool.or_eq_true, decide_eq_true_eq, beq_iff_eq, bne_iff_ne] at h
    change 0x20000000 + (d * 2 ^ 23) < 2 ^ 32; omega

theorem ttp (x : Nat) (y : Nat) (z : Nat) (t : Nat) : Statement (.ttp x y z t) := by
  intro form h
  rcases form with (_|_|_|_)|_
  · cases h
  · cases h
  · cases h
  · cases h
  · replace h : (x < 32 && y < 32 && z < 32 && t < 256) = true := h
    simp only [Bool.or_false, Bool.false_or, Bool.and_eq_true, Bool.or_eq_true, decide_eq_true_eq, beq_iff_eq, bne_iff_ne] at h
    change 0x24000000 + (x * 2 ^ 21 + y * 2 ^ 16 + z * 2 ^ 11 + t * 2 ^ 2) < 2 ^ 32; omega

theorem ttpT (x : Nat) (y : Nat) (t : Nat) : Statement (.ttpT x y t) := by
  intro form h
  rcases form with (_|_|_|_)|_
  · cases h
  · cases h
  · cases h
  · cases h
  · replace h : (x < 32 && y < 32 && t < 256) = true := h
    simp only [Bool.or_false, Bool.false_or, Bool.and_eq_true, Bool.or_eq_true, decide_eq_true_eq, beq_iff_eq, bne_iff_ne] at h
    change 0x24000400 + (x * 2 ^ 21 + y * 2 ^ 16 + t * 2 ^ 2) < 2 ^ 32; omega

theorem tand (x : Nat) (n : Bool) : Statement (.tand x n) := by
  intro form h
  rcases form with (_|_|_|_)|_
  · cases h
  · cases h
  · cases h
  · cases h
  · replace h : (decide (x < 32)) = true := h
    simp only [Bool.or_false, Bool.false_or, Bool.and_eq_true, Bool.or_eq_true, decide_eq_true_eq, beq_iff_eq, bne_iff_ne] at h
    change 0x28000000 + (x * 2 ^ 21 + b2n n * 2 ^ 20) < 2 ^ 32; have := bit_le n; omega

theorem tor (x : Nat) (n : Bool) : Statement (.tor x n) := by
  intro form h
  rcases form with (_|_|_|_)|_
  · cases h
  · cases h
  · cases h
  · cases h
  · replace h : (decide (x < 32)) = true := h
    simp only [Bool.or_false, Bool.false_or, Bool.and_eq_true, Bool.or_eq_true, decide_eq_true_eq, beq_iff_eq, bne_iff_ne] at h
    change 0x2C000000 + (x * 2 ^ 21 + b2n n * 2 ^ 20) < 2 ^ 32; have := bit_le n; omega

theorem tcnt (d : Nat) : Statement (.tcnt d) := by
  intro form h
  rcases form with (_|_|_|_)|_
  · cases h
  · cases h
  · cases h
  · cases h
  · replace h : (decide (d < 8)) = true := h
    simp only [Bool.or_false, Bool.false_or, Bool.and_eq_true, Bool.or_eq_true, decide_eq_true_eq, beq_iff_eq, bne_iff_ne] at h
    change 0x34000000 + (d * 2 ^ 23) < 2 ^ 32; omega

theorem setk (s : Nat) : Statement (.setk s) := by
  intro form h
  rcases form with (_|_|_|_)|_
  · cases h
  · cases h
  · cases h
  · cases h
  · replace h : (decide (s < 8)) = true := h
    simp only [Bool.or_false, Bool.false_or, Bool.and_eq_true, Bool.or_eq_true, decide_eq_true_eq, beq_iff_eq, bne_iff_ne] at h
    change 0x38000000 + (s * 2 ^ 23) < 2 ^ 32; omega

theorem setm (s : Nat) : Statement (.setm s) := by
  intro form h
  rcases form with (_|_|_|_)|_
  · cases h
  · cases h
  · cases h
  · cases h
  · replace h : (decide (s < 8)) = true := h
    simp only [Bool.or_false, Bool.false_or, Bool.and_eq_true, Bool.or_eq_true, decide_eq_true_eq, beq_iff_eq, bne_iff_ne] at h
    change 0x3C000000 + (s * 2 ^ 23) < 2 ^ 32; omega

theorem movi (d : Nat) (i : Nat) : Statement (.movi d i) := by
  intro form h
  rcases form with (_|_|_|_)|_
  · cases h
  · cases h
  · cases h
  · cases h
  · replace h : (d < 8 && i < 2097152) = true := h
    simp only [Bool.or_false, Bool.false_or, Bool.and_eq_true, Bool.or_eq_true, decide_eq_true_eq, beq_iff_eq, bne_iff_ne] at h
    change 0x40000000 + (d * 2 ^ 23 + i) < 2 ^ 32; omega

theorem moviAdd (d : Nat) (i : Nat) : Statement (.moviAdd d i) := by
  intro form h
  rcases form with (_|_|_|_)|_
  · cases h
  · cases h
  · cases h
  · cases h
  · replace h : (d < 8 && i < 2097152) = true := h
    simp only [Bool.or_false, Bool.false_or, Bool.and_eq_true, Bool.or_eq_true, decide_eq_true_eq, beq_iff_eq, bne_iff_ne] at h
    change 0x40200000 + (d * 2 ^ 23 + i) < 2 ^ 32; omega

theorem moviSh (d : Nat) (i : Nat) : Statement (.moviSh d i) := by
  intro form h
  rcases form with (_|_|_|_)|_
  · cases h
  · cases h
  · cases h
  · cases h
  · replace h : (d < 8 && i < 2097152) = true := h
    simp only [Bool.or_false, Bool.false_or, Bool.and_eq_true, Bool.or_eq_true, decide_eq_true_eq, beq_iff_eq, bne_iff_ne] at h
    change 0x40400000 + (d * 2 ^ 23 + i) < 2 ^ 32; omega

theorem vlde (f : Nat) (o : Nat) : Statement (.vlde f o) := by
  intro form h
  rcases form with (_|_|_|_)|_
  · cases h
  · cases h
  · cases h
  · cases h
  · replace h : (f < 6 && o < 2048) = true := h
    simp only [Bool.or_false, Bool.false_or, Bool.and_eq_true, Bool.or_eq_true, decide_eq_true_eq, beq_iff_eq, bne_iff_ne] at h
    change 0x44000000 + (f * 2 ^ 23 + o * 2 ^ 12) < 2 ^ 32; omega

theorem mv (a : Nat) (f : Nat) (l : Nat) : Statement (.mv a f l) := by
  intro form h
  rcases form with (_|_|_|_)|_
  · cases h
  · cases h
  · cases h
  · cases h
  · replace h : (a < 4 && f < 6 && l ≤ 8 && engineNE f ≤ 256 * 2 ^ l) = true := h
    simp only [Bool.or_false, Bool.false_or, Bool.and_eq_true, Bool.or_eq_true, decide_eq_true_eq, beq_iff_eq, bne_iff_ne] at h
    change 0x48000000 + (a * 2 ^ 24 + f * 2 ^ 21 + l * 2 ^ 17) < 2 ^ 32; omega

theorem sadd (a : Nat) (j : Nat) (i : Bool) : Statement (.sadd a j i) := by
  intro form h
  rcases form with (_|_|_|_)|_
  · cases h
  · cases h
  · cases h
  · cases h
  · replace h : (a < 4 && j < 8) = true := h
    simp only [Bool.or_false, Bool.false_or, Bool.and_eq_true, Bool.or_eq_true, decide_eq_true_eq, beq_iff_eq, bne_iff_ne] at h
    change 0x4C000000 + (a * 2 ^ 24 + j * 2 ^ 21 + b2n i * 2 ^ 20) < 2 ^ 32; have := bit_le i; omega

theorem redAdd (d : Nat) (s : Nat) : Statement (.redAdd d s) := by
  intro form h
  rcases form with (_|_|_|_)|_
  · cases h
  · cases h
  · cases h
  · cases h
  · replace h : (d < 4 && s < 4) = true := h
    simp only [Bool.or_false, Bool.false_or, Bool.and_eq_true, Bool.or_eq_true, decide_eq_true_eq, beq_iff_eq, bne_iff_ne] at h
    change 0x50000000 + (d * 2 ^ 22 + s * 2 ^ 20) < 2 ^ 32; omega

theorem redMax (d : Nat) (s : Nat) : Statement (.redMax d s) := by
  intro form h
  rcases form with (_|_|_|_)|_
  · cases h
  · cases h
  · cases h
  · cases h
  · replace h : (d < 4 && s < 4) = true := h
    simp only [Bool.or_false, Bool.false_or, Bool.and_eq_true, Bool.or_eq_true, decide_eq_true_eq, beq_iff_eq, bne_iff_ne] at h
    change 0x51000000 + (d * 2 ^ 22 + s * 2 ^ 20) < 2 ^ 32; omega

theorem redSum (s : Nat) (e : Nat) : Statement (.redSum s e) := by
  intro form h
  rcases form with (_|_|_|_)|_
  · cases h
  · cases h
  · cases h
  · cases h
  · replace h : (s < 4 && e < 8) = true := h
    simp only [Bool.or_false, Bool.false_or, Bool.and_eq_true, Bool.or_eq_true, decide_eq_true_eq, beq_iff_eq, bne_iff_ne] at h
    change 0x52000000 + (s * 2 ^ 20 + e * 2 ^ 17) < 2 ^ 32; omega

theorem accz (a : Nat) : Statement (.accz a) := by
  intro form h
  rcases form with (_|_|_|_)|_
  · cases h
  · cases h
  · cases h
  · cases h
  · replace h : (decide (a < 4)) = true := h
    simp only [Bool.or_false, Bool.false_or, Bool.and_eq_true, Bool.or_eq_true, decide_eq_true_eq, beq_iff_eq, bne_iff_ne] at h
    change 0x54000000 + (a * 2 ^ 24) < 2 ^ 32; omega

theorem acczW (a : Nat) : Statement (.acczW a) := by
  intro form h
  rcases form with (_|_|_|_)|_
  · cases h
  · cases h
  · cases h
  · cases h
  · replace h : (decide (a < 4)) = true := h
    simp only [Bool.or_false, Bool.false_or, Bool.and_eq_true, Bool.or_eq_true, decide_eq_true_eq, beq_iff_eq, bne_iff_ne] at h
    change 0x54800000 + (a * 2 ^ 24) < 2 ^ 32; omega

theorem accst (a : Nat) (f : Nat) : Statement (.accst a f) := by
  intro form h
  rcases form with (_|_|_|_)|_
  · cases h
  · cases h
  · cases h
  · cases h
  · replace h : (a < 4 && f < 4) = true := h
    simp only [Bool.or_false, Bool.false_or, Bool.and_eq_true, Bool.or_eq_true, decide_eq_true_eq, beq_iff_eq, bne_iff_ne] at h
    change 0x58000000 + (a * 2 ^ 24 + f * 2 ^ 22) < 2 ^ 32; omega

theorem mcast (k : Nat) (s : Nat) (r : Nat) : Statement (.mcast k s r) := by
  intro form h
  rcases form with (_|_|_|_)|_
  · cases h
  · cases h
  · cases h
  · cases h
  · replace h : (k < 4 && s < 5 && r < 8) = true := h
    simp only [Bool.or_false, Bool.false_or, Bool.and_eq_true, Bool.or_eq_true, decide_eq_true_eq, beq_iff_eq, bne_iff_ne] at h
    change 0x5C000000 + (k * 2 ^ 24 + s * 2 ^ 21 + r * 2 ^ 18) < 2 ^ 32; omega

theorem bgcopy (s : Nat) (e : Nat) (d : Nat) (f : Nat) : Statement (.bgcopy s e d f) := by
  intro form h
  rcases form with (_|_|_|_)|_
  · cases h
  · cases h
  · cases h
  · cases h
  · replace h : (s < 4 && s != d && e < 8 && d < 4 && f < 8) = true := h
    simp only [Bool.or_false, Bool.false_or, Bool.and_eq_true, Bool.or_eq_true, decide_eq_true_eq, beq_iff_eq, bne_iff_ne] at h
    change 0x60000000 + (s * 2 ^ 24 + e * 2 ^ 21 + d * 2 ^ 19 + f * 2 ^ 16) < 2 ^ 32; omega

theorem naddx (d : Nat) : Statement (.naddx d) := by
  intro form h
  rcases form with (_|_|_|_)|_
  · cases h
  · cases h
  · cases h
  · cases h
  · replace h : (decide (d < 8)) = true := h
    simp only [Bool.or_false, Bool.false_or, Bool.and_eq_true, Bool.or_eq_true, decide_eq_true_eq, beq_iff_eq, bne_iff_ne] at h
    change 0x64000000 + (d * 2 ^ 23) < 2 ^ 32; omega

theorem sig (l : Nat) (c : Nat) (v : Nat) : Statement (.sig l c v) := by
  intro form h
  rcases form with (_|_|_|_)|_
  · cases h
  · cases h
  · cases h
  · cases h
  · replace h : (l < 4 && 5 ≤ c && c ≤ 10 && v < 8) = true := h
    simp only [Bool.or_false, Bool.false_or, Bool.and_eq_true, Bool.or_eq_true, decide_eq_true_eq, beq_iff_eq, bne_iff_ne] at h
    change 0x68000000 + (l * 2 ^ 24 + c * 2 ^ 20 + v * 2 ^ 17) < 2 ^ 32; omega

theorem waits (l : Nat) (c : Nat) (v : Nat) : Statement (.waits l c v) := by
  intro form h
  rcases form with (_|_|_|_)|_
  · cases h
  · cases h
  · cases h
  · cases h
  · replace h : (l < 4 && 5 ≤ c && c ≤ 10 && v < 8) = true := h
    simp only [Bool.or_false, Bool.false_or, Bool.and_eq_true, Bool.or_eq_true, decide_eq_true_eq, beq_iff_eq, bne_iff_ne] at h
    change 0x6C000000 + (l * 2 ^ 24 + c * 2 ^ 20 + v * 2 ^ 17) < 2 ^ 32; omega

theorem idmasJmp (t : Nat) : Statement (.idmasJmp t) := by
  intro form h
  rcases form with (_|_|_|_)|_
  · cases h
  · cases h
  · cases h
  · cases h
  · replace h : (decide (t < 4096)) = true := h
    simp only [Bool.or_false, Bool.false_or, Bool.and_eq_true, Bool.or_eq_true, decide_eq_true_eq, beq_iff_eq, bne_iff_ne] at h
    change 0x70000000 + (t * 2 ^ 14) < 2 ^ 32; omega

theorem bnz (e : Nat) (d : Bool) (t : Nat) : Statement (.bnz e d t) := by
  intro form h
  rcases form with (_|_|_|_)|_
  · cases h
  · cases h
  · cases h
  · cases h
  · replace h : (e < 8 && t < 4096) = true := h
    simp only [Bool.or_false, Bool.false_or, Bool.and_eq_true, Bool.or_eq_true, decide_eq_true_eq, beq_iff_eq, bne_iff_ne] at h
    change 0x74000000 + (e * 2 ^ 23 + b2n d * 2 ^ 22 + t * 2 ^ 10) < 2 ^ 32; have := bit_le d; omega

theorem idmasLoop (n : Nat) (c : Nat) (l : Nat) : Statement (.idmasLoop n c l) := by
  intro form h
  rcases form with (_|_|_|_)|_
  · cases h
  · cases h
  · cases h
  · cases h
  · replace h : (n < 4 && 1 ≤ c && c < 4096 && l < 256) = true := h
    simp only [Bool.or_false, Bool.false_or, Bool.and_eq_true, Bool.or_eq_true, decide_eq_true_eq, beq_iff_eq, bne_iff_ne] at h
    change 0x78800000 + (n * 2 ^ 24 + c * 2 ^ 11 + l * 2 ^ 3) < 2 ^ 32; omega

theorem idmasLoopReg (n : Nat) (s : Nat) (l : Nat) : Statement (.idmasLoopReg n s l) := by
  intro form h
  rcases form with (_|_|_|_)|_
  · cases h
  · cases h
  · cases h
  · cases h
  · replace h : (n < 4 && s < 8 && l < 256) = true := h
    simp only [Bool.or_false, Bool.false_or, Bool.and_eq_true, Bool.or_eq_true, decide_eq_true_eq, beq_iff_eq, bne_iff_ne] at h
    change 0x78000000 + (n * 2 ^ 24 + s * 2 ^ 20 + l * 2 ^ 3) < 2 ^ 32; omega

theorem halt (c : Nat) : Statement (.halt c) := by
  intro form h
  rcases form with (_|_|_|_)|_
  · cases h
  · cases h
  · cases h
  · cases h
  · replace h : (decide (c < 256)) = true := h
    simp only [Bool.or_false, Bool.false_or, Bool.and_eq_true, Bool.or_eq_true, decide_eq_true_eq, beq_iff_eq, bne_iff_ne] at h
    change 0x7C000000 + (c * 2 ^ 18) < 2 ^ 32; omega

theorem wfeTimeout : Statement .wfeTimeout := by
  intro form h; rcases form with (_|_|_|_)|_ <;> cases h

theorem streamFetch : Statement .streamFetch := by
  intro form h; rcases form with (_|_|_|_)|_ <;> cases h

theorem transferComplete : Statement .transferComplete := by
  intro form h; rcases form with (_|_|_|_)|_ <;> cases h

theorem copyFault : Statement .copyFault := by
  intro form h; rcases form with (_|_|_|_)|_ <;> cases h

theorem mldsReadDone : Statement .mldsReadDone := by
  intro form h; rcases form with (_|_|_|_)|_ <;> cases h

theorem courseSelfTest : Statement .courseSelfTest := by
  intro form h; rcases form with (_|_|_|_)|_ <;> cases h

theorem token : Statement .token := by
  intro form h; rcases form with (_|_|_|_)|_ <;> cases h

theorem nprOverrun : Statement .nprOverrun := by
  intro form h; rcases form with (_|_|_|_)|_ <;> cases h

theorem handlerLimitExpiry : Statement .handlerLimitExpiry := by
  intro form h; rcases form with (_|_|_|_)|_ <;> cases h

theorem trapEntry : Statement .trapEntry := by
  intro form h; rcases form with (_|_|_|_)|_ <;> cases h

theorem srbEviction : Statement .srbEviction := by
  intro form h; rcases form with (_|_|_|_)|_ <;> cases h

theorem preAll : Statement .preAll := by
  intro form h
  rcases form with (_|_|_|_)|_
  · cases h
  · cases h
  · cases h
  · cases h
  · replace h : (true) = true := h; change 0x08800000 < 2 ^ 32; omega

theorem rdLanding : Statement .rdLanding := by
  intro form h; rcases form with (_|_|_|_)|_ <;> cases h

theorem rowend : Statement .rowend := by
  intro form h
  rcases form with (_|_|_|_)|_
  · cases h
  · cases h
  · cases h
  · cases h
  · replace h : (true) = true := h; change 0x18000000 < 2 ^ 32; omega

theorem tnot : Statement .tnot := by
  intro form h
  rcases form with (_|_|_|_)|_
  · cases h
  · cases h
  · cases h
  · cases h
  · replace h : (true) = true := h; change 0x30000000 < 2 ^ 32; omega

theorem engineInstanceStart : Statement .engineInstanceStart := by
  intro form h; rcases form with (_|_|_|_)|_ <;> cases h

theorem engineStop : Statement .engineStop := by
  intro form h; rcases form with (_|_|_|_)|_ <;> cases h

theorem refreshDeadline : Statement .refreshDeadline := by
  intro form h; rcases form with (_|_|_|_)|_ <;> cases h

theorem rowIntervalExpiry : Statement .rowIntervalExpiry := by
  intro form h; rcases form with (_|_|_|_)|_ <;> cases h

theorem mainDieRequest : Statement .mainDieRequest := by
  intro form h; rcases form with (_|_|_|_)|_ <;> cases h

theorem arbitrationWindow : Statement .arbitrationWindow := by
  intro form h; rcases form with (_|_|_|_)|_ <;> cases h

theorem nearMemoryAddAccept : Statement .nearMemoryAddAccept := by
  intro form h; rcases form with (_|_|_|_)|_ <;> cases h

theorem detFlush : Statement .detFlush := by
  intro form h; rcases form with (_|_|_|_)|_ <;> cases h

theorem pseudoChannelRetire : Statement .pseudoChannelRetire := by
  intro form h; rcases form with (_|_|_|_)|_ <;> cases h

theorem migrationRowCopy : Statement .migrationRowCopy := by
  intro form h; rcases form with (_|_|_|_)|_ <;> cases h

theorem pseudoChannelLoss : Statement .pseudoChannelLoss := by
  intro form h; rcases form with (_|_|_|_)|_ <;> cases h

theorem rasPolicyTrigger : Statement .rasPolicyTrigger := by
  intro form h; rcases form with (_|_|_|_)|_ <;> cases h

theorem keystoneStorageUe : Statement .keystoneStorageUe := by
  intro form h; rcases form with (_|_|_|_)|_ <;> cases h

theorem admission : Statement .admission := by
  intro form h; rcases form with (_|_|_|_)|_ <;> cases h

theorem instanceCreate : Statement .instanceCreate := by
  intro form h; rcases form with (_|_|_|_)|_ <;> cases h

theorem semaphoreMonitorRead : Statement .semaphoreMonitorRead := by
  intro form h; rcases form with (_|_|_|_)|_ <;> cases h

theorem dispatchRound : Statement .dispatchRound := by
  intro form h; rcases form with (_|_|_|_)|_ <;> cases h

theorem preEmption : Statement .preEmption := by
  intro form h; rcases form with (_|_|_|_)|_ <;> cases h

theorem asyncMemUe : Statement .asyncMemUe := by
  intro form h; rcases form with (_|_|_|_)|_ <;> cases h

theorem coreReset : Statement .coreReset := by
  intro form h; rcases form with (_|_|_|_)|_ <;> cases h

theorem coreWatchdogExpiry : Statement .coreWatchdogExpiry := by
  intro form h; rcases form with (_|_|_|_)|_ <;> cases h

theorem evacuationTimeout : Statement .evacuationTimeout := by
  intro form h; rcases form with (_|_|_|_)|_ <;> cases h

theorem coreResetDone : Statement .coreResetDone := by
  intro form h; rcases form with (_|_|_|_)|_ <;> cases h

theorem checkpointSave : Statement .checkpointSave := by
  intro form h; rcases form with (_|_|_|_)|_ <;> cases h

theorem checkpointRestore : Statement .checkpointRestore := by
  intro form h; rcases form with (_|_|_|_)|_ <;> cases h

theorem checkpointResume : Statement .checkpointResume := by
  intro form h; rcases form with (_|_|_|_)|_ <;> cases h

theorem checkpointFenceTimeout : Statement .checkpointFenceTimeout := by
  intro form h; rcases form with (_|_|_|_)|_ <;> cases h

theorem checkpointStreamDone : Statement .checkpointStreamDone := by
  intro form h; rcases form with (_|_|_|_)|_ <;> cases h

theorem checkpointPortLost : Statement .checkpointPortLost := by
  intro form h; rcases form with (_|_|_|_)|_ <;> cases h

theorem qnotifyWrite : Statement .qnotifyWrite := by
  intro form h; rcases form with (_|_|_|_)|_ <;> cases h

theorem queueEnable : Statement .queueEnable := by
  intro form h; rcases form with (_|_|_|_)|_ <;> cases h

theorem queueDisable : Statement .queueDisable := by
  intro form h; rcases form with (_|_|_|_)|_ <;> cases h

theorem scannerStep : Statement .scannerStep := by
  intro form h; rcases form with (_|_|_|_)|_ <;> cases h

theorem nop : Statement .nop := by
  intro form h; rcases form with (_|_|_|_)|_ <;> cases h

theorem arm : Statement .arm := by
  intro form h; rcases form with (_|_|_|_)|_ <;> cases h

theorem signal : Statement .signal := by
  intro form h; rcases form with (_|_|_|_)|_ <;> cases h

theorem wait : Statement .wait := by
  intro form h; rcases form with (_|_|_|_)|_ <;> cases h

theorem waitPoll : Statement .waitPoll := by
  intro form h; rcases form with (_|_|_|_)|_ <;> cases h

theorem inval : Statement .inval := by
  intro form h; rcases form with (_|_|_|_)|_ <;> cases h

theorem invalComplete : Statement .invalComplete := by
  intro form h; rcases form with (_|_|_|_)|_ <;> cases h

theorem ctx : Statement .ctx := by
  intro form h; rcases form with (_|_|_|_)|_ <;> cases h

theorem ctxStopComplete : Statement .ctxStopComplete := by
  intro form h; rcases form with (_|_|_|_)|_ <;> cases h

theorem recPkt : Statement .recPkt := by
  intro form h; rcases form with (_|_|_|_)|_ <;> cases h

theorem recordStallTimeout : Statement .recordStallTimeout := by
  intro form h; rcases form with (_|_|_|_)|_ <;> cases h

theorem update : Statement .update := by
  intro form h; rcases form with (_|_|_|_)|_ <;> cases h

theorem updateStandbyReady : Statement .updateStandbyReady := by
  intro form h; rcases form with (_|_|_|_)|_ <;> cases h

theorem updateStandbyBootTimeout : Statement .updateStandbyBootTimeout := by
  intro form h; rcases form with (_|_|_|_)|_ <;> cases h

theorem updateQuiesceTimeout : Statement .updateQuiesceTimeout := by
  intro form h; rcases form with (_|_|_|_)|_ <;> cases h

theorem updateFlip : Statement .updateFlip := by
  intro form h; rcases form with (_|_|_|_)|_ <;> cases h

theorem xiostWatchdogFailover : Statement .xiostWatchdogFailover := by
  intro form h; rcases form with (_|_|_|_)|_ <;> cases h

theorem own : Statement .own := by
  intro form h; rcases form with (_|_|_|_)|_ <;> cases h

theorem hostLinkDown : Statement .hostLinkDown := by
  intro form h; rcases form with (_|_|_|_)|_ <;> cases h

theorem hostLinkUp : Statement .hostLinkUp := by
  intro form h; rcases form with (_|_|_|_)|_ <;> cases h

theorem pcieLaneRetrain : Statement .pcieLaneRetrain := by
  intro form h; rcases form with (_|_|_|_)|_ <;> cases h

theorem portFundamentalReset : Statement .portFundamentalReset := by
  intro form h; rcases form with (_|_|_|_)|_ <;> cases h

theorem flrVf : Statement .flrVf := by
  intro form h; rcases form with (_|_|_|_)|_ <;> cases h

theorem flrPf : Statement .flrPf := by
  intro form h; rcases form with (_|_|_|_)|_ <;> cases h

theorem flrTimeout : Statement .flrTimeout := by
  intro form h; rcases form with (_|_|_|_)|_ <;> cases h

theorem atsInvalidation : Statement .atsInvalidation := by
  intro form h; rcases form with (_|_|_|_)|_ <;> cases h

theorem hostBar2Read : Statement .hostBar2Read := by
  intro form h; rcases form with (_|_|_|_)|_ <;> cases h

theorem hostBar2Write : Statement .hostBar2Write := by
  intro form h; rcases form with (_|_|_|_)|_ <;> cases h

theorem registerWrite : Statement .registerWrite := by
  intro form h; rcases form with (_|_|_|_)|_ <;> cases h

theorem rascntClear : Statement .rascntClear := by
  intro form h; rcases form with (_|_|_|_)|_ <;> cases h

theorem asidfnWrite : Statement .asidfnWrite := by
  intro form h; rcases form with (_|_|_|_)|_ <;> cases h

theorem vselfWrite : Statement .vselfWrite := by
  intro form h; rcases form with (_|_|_|_)|_ <;> cases h

theorem vomelFlitReceive : Statement .vomelFlitReceive := by
  intro form h; rcases form with (_|_|_|_)|_ <;> cases h

theorem vomelLaneRetrain : Statement .vomelLaneRetrain := by
  intro form h; rcases form with (_|_|_|_)|_ <;> cases h

theorem vomelPortDown : Statement .vomelPortDown := by
  intro form h; rcases form with (_|_|_|_)|_ <;> cases h

theorem peerInboundAccess : Statement .peerInboundAccess := by
  intro form h; rcases form with (_|_|_|_)|_ <;> cases h

theorem ethTailNotify : Statement .ethTailNotify := by
  intro form h; rcases form with (_|_|_|_)|_ <;> cases h

theorem ethWorkRequestComplete : Statement .ethWorkRequestComplete := by
  intro form h; rcases form with (_|_|_|_)|_ <;> cases h

theorem ethQpError : Statement .ethQpError := by
  intro form h; rcases form with (_|_|_|_)|_ <;> cases h

theorem ethIncomingWrite : Statement .ethIncomingWrite := by
  intro form h; rcases form with (_|_|_|_)|_ <;> cases h

theorem ethIncomingRead : Statement .ethIncomingRead := by
  intro form h; rcases form with (_|_|_|_)|_ <;> cases h

theorem ethIncomingSend : Statement .ethIncomingSend := by
  intro form h; rcases form with (_|_|_|_)|_ <;> cases h

theorem getVersion : Statement .getVersion := by
  intro form h; rcases form with (_|_|_|_)|_ <;> cases h

theorem getCapabilities : Statement .getCapabilities := by
  intro form h; rcases form with (_|_|_|_)|_ <;> cases h

theorem negotiateAlgorithms : Statement .negotiateAlgorithms := by
  intro form h; rcases form with (_|_|_|_)|_ <;> cases h

theorem getDigests : Statement .getDigests := by
  intro form h; rcases form with (_|_|_|_)|_ <;> cases h

theorem getCertificate : Statement .getCertificate := by
  intro form h; rcases form with (_|_|_|_)|_ <;> cases h

theorem getMeasurements : Statement .getMeasurements := by
  intro form h; rcases form with (_|_|_|_)|_ <;> cases h

theorem powerUp : Statement .powerUp := by
  intro form h; rcases form with (_|_|_|_)|_ <;> cases h

theorem powerUpPhaseTimeout : Statement .powerUpPhaseTimeout := by
  intro form h; rcases form with (_|_|_|_)|_ <;> cases h

theorem sensorSample : Statement .sensorSample := by
  intro form h; rcases form with (_|_|_|_)|_ <;> cases h

theorem powerThrottle : Statement .powerThrottle := by
  intro form h; rcases form with (_|_|_|_)|_ <;> cases h

theorem thermalShutdown : Statement .thermalShutdown := by
  intro form h; rcases form with (_|_|_|_)|_ <;> cases h

theorem unassignedStreamWord : Statement .unassignedStreamWord := by
  intro form h; rcases form with (_|_|_|_)|_ <;> cases h

theorem unassignedEngineWord : Statement .unassignedEngineWord := by
  intro form h; rcases form with (_|_|_|_)|_ <;> cases h

theorem instructionFetchFault : Statement .instructionFetchFault := by
  intro form h; rcases form with (_|_|_|_)|_ <;> cases h

theorem suppliesRemoved : Statement .suppliesRemoved := by
  intro form h; rcases form with (_|_|_|_)|_ <;> cases h

theorem recordRewriteDone : Statement .recordRewriteDone := by
  intro form h; rcases form with (_|_|_|_)|_ <;> cases h

theorem vomelPortUp : Statement .vomelPortUp := by
  intro form h; rcases form with (_|_|_|_)|_ <;> cases h

theorem pcieConfigurationRequest : Statement .pcieConfigurationRequest := by
  intro form h; rcases form with (_|_|_|_)|_ <;> cases h

theorem pcieFlitReceive : Statement .pcieFlitReceive := by
  intro form h; rcases form with (_|_|_|_)|_ <;> cases h

theorem ethCongestionNotification : Statement .ethCongestionNotification := by
  intro form h; rcases form with (_|_|_|_)|_ <;> cases h

theorem ethRetransmissionTimeout : Statement .ethRetransmissionTimeout := by
  intro form h; rcases form with (_|_|_|_)|_ <;> cases h

theorem updateSignatureVerified : Statement .updateSignatureVerified := by
  intro form h; rcases form with (_|_|_|_)|_ <;> cases h

theorem checkpointRestoreDone : Statement .checkpointRestoreDone := by
  intro form h; rcases form with (_|_|_|_)|_ <;> cases h

theorem recordTailAdvance : Statement .recordTailAdvance := by
  intro form h; rcases form with (_|_|_|_)|_ <;> cases h

theorem waitsReread : Statement .waitsReread := by
  intro form h; rcases form with (_|_|_|_)|_ <;> cases h

end Sys2Proof.Laws.Enc

end
end

