-- ==== Sys2Proof/Laws/Tables.lean ====
section
/-! SUPPORT. Tables and register files read back what was written, and nothing else changes. -/

namespace Sys2Proof.Machine

variable {α : Type}

theorem Tab.get_insert (t : Tab α) (k : Nat) (x : α) (j : Nat) (d : α) (h : Tab.has t k = false) :
    Tab.get (Tab.insert t k x) j d = if j = k then x else Tab.get t j d := by
  induction t with
  | nil =>
    by_cases hj : j = k
    · simp [Tab.insert, Tab.get, hj]
    · simp [Tab.insert, Tab.get, hj, Ne.symm hj]
  | cons p r ih =>
    obtain ⟨i, y⟩ := p
    have hi : i ≠ k := by simp [Tab.has] at h; exact h.1
    have hr : Tab.has r k = false := by simpa [Tab.has, hi] using h
    by_cases hk : k ≤ i
    · by_cases hj : j = k
      · simp [Tab.insert, Tab.get, hk, hj]
      · simp [Tab.insert, Tab.get, hk, hj, Ne.symm hj]
    · by_cases hij : i = j
      · subst hij; simp [Tab.insert, Tab.get, hk, hi]
      · simp [Tab.insert, Tab.get, hk, hij, ih hr]

theorem Tab.has_erase (t : Tab α) (k : Nat) : Tab.has (Tab.erase t k) k = false := by
  simp [Tab.has, Tab.erase]

theorem Tab.get_erase (t : Tab α) (k j : Nat) (d : α) :
    Tab.get (Tab.erase t k) j d = if j = k then d else Tab.get t j d := by
  induction t with
  | nil => simp [Tab.erase, Tab.get]
  | cons p r ih =>
    obtain ⟨i, y⟩ := p
    unfold Tab.erase at ih ⊢
    by_cases hi : i = k
    · subst hi
      by_cases hj : j = i
      · subst hj; simpa using ih
      · simp [ih, hj, Tab.get, Ne.symm hj]
    · by_cases hij : i = j
      · subst hij; simp [Tab.get, hi]
      · simp [Tab.get, hi, hij, ih]

/-- A table reads the last entry written at a key. -/
theorem Tab.get_set (t : Tab α) (k : Nat) (x : α) (j : Nat) (d : α) :
    Tab.get (Tab.set t k x) j d = if j = k then x else Tab.get t j d := by
  rw [Tab.set, Tab.get_insert _ _ _ _ _ (Tab.has_erase t k), Tab.get_erase]
  by_cases h : j = k <;> simp [h]

/-- A register file reads the last entry written at an index it has. -/
theorem vget_vset {n : Nat} (v : Vector α n) (i j : Nat) (x d : α) (h : i < n) :
    vget (vset v i x) j d = if j = i then x else vget v j d := by
  unfold vget vset
  by_cases hj : j = i
  · subst hj; simp [h]
  · simp [Ne.symm hj, hj]

/-- An index the file does not have changes nothing. -/
theorem vset_ge {n : Nat} (v : Vector α n) (i : Nat) (x : α) (h : n ≤ i) : vset v i x = v := by
  ext k hk
  simp [vset, show i ≠ k by omega]

end Sys2Proof.Machine
end

