-- ==== Sys2Proof/Laws/State.lean ====
section
/-! SUPPORT. What each update of the state leaves alone, field by field, and what it puts where. -/

namespace Sys2Proof.Machine

/-! ### State.setCore -/

@[simp] theorem State.setCore_turns (s : State) (c : Nat) (x : Core) : (s.setCore c x).turns = s.turns := rfl
@[simp] theorem State.setCore_cur (s : State) (c : Nat) (x : Core) : (s.setCore c x).cur = s.cur := rfl
@[simp] theorem State.setCore_moving (s : State) (c : Nat) (x : Core) : (s.setCore c x).moving = s.moving := rfl
@[simp] theorem State.setCore_inp (s : State) (c : Nat) (x : Core) : (s.setCore c x).inp = s.inp := rfl
@[simp] theorem State.setCore_free (s : State) (c : Nat) (x : Core) : (s.setCore c x).free = s.free := rfl
@[simp] theorem State.setCore_engines (s : State) (c : Nat) (x : Core) : (s.setCore c x).engines = s.engines := rfl
@[simp] theorem State.setCore_mem (s : State) (c : Nat) (x : Core) : (s.setCore c x).mem = s.mem := rfl
@[simp] theorem State.setCore_hist (s : State) (c : Nat) (x : Core) : (s.setCore c x).hist = s.hist := rfl
@[simp] theorem State.setCore_nextWr (s : State) (c : Nat) (x : Core) : (s.setCore c x).nextWr = s.nextWr := rfl
@[simp] theorem State.setCore_fences (s : State) (c : Nat) (x : Core) : (s.setCore c x).fences = s.fences := rfl
@[simp] theorem State.setCore_ue (s : State) (c : Nat) (x : Core) : (s.setCore c x).ue = s.ue := rfl
@[simp] theorem State.setCore_flaws (s : State) (c : Nat) (x : Core) : (s.setCore c x).flaws = s.flaws := rfl
@[simp] theorem State.setCore_watch (s : State) (c : Nat) (x : Core) : (s.setCore c x).watch = s.watch := rfl
@[simp] theorem State.setCore_srb (s : State) (c : Nat) (x : Core) : (s.setCore c x).srb = s.srb := rfl
@[simp] theorem State.setCore_ctxs (s : State) (c : Nat) (x : Core) : (s.setCore c x).ctxs = s.ctxs := rfl
@[simp] theorem State.setCore_igen (s : State) (c : Nat) (x : Core) : (s.setCore c x).igen = s.igen := rfl
@[simp] theorem State.setCore_migrating (s : State) (c : Nat) (x : Core) : (s.setCore c x).migrating = s.migrating := rfl
@[simp] theorem State.setCore_live (s : State) (c : Nat) (x : Core) : (s.setCore c x).live = s.live := rfl
@[simp] theorem State.setCore_lost (s : State) (c : Nat) (x : Core) : (s.setCore c x).lost = s.lost := rfl
@[simp] theorem State.setCore_tick (s : State) (c : Nat) (x : Core) : (s.setCore c x).tick = s.tick := rfl
@[simp] theorem State.setCore_down (s : State) (c : Nat) (x : Core) : (s.setCore c x).down = s.down := rfl
@[simp] theorem State.setCore_ues (s : State) (c : Nat) (x : Core) : (s.setCore c x).ues = s.ues := rfl
@[simp] theorem State.setCore_ks (s : State) (c : Nat) (x : Core) : (s.setCore c x).ks = s.ks := rfl
@[simp] theorem State.setCore_xi (s : State) (c : Nat) (x : Core) : (s.setCore c x).xi = s.xi := rfl
@[simp] theorem State.setCore_msix (s : State) (c : Nat) (x : Core) : (s.setCore c x).msix = s.msix := rfl
@[simp] theorem State.setCore_dev (s : State) (c : Nat) (x : Core) : (s.setCore c x).dev = s.dev := rfl

/-! ### State.setEngine -/

@[simp] theorem State.setEngine_turns (s : State) (n : Nat) (x : Engine) : (s.setEngine n x).turns = s.turns := rfl
@[simp] theorem State.setEngine_cur (s : State) (n : Nat) (x : Engine) : (s.setEngine n x).cur = s.cur := rfl
@[simp] theorem State.setEngine_moving (s : State) (n : Nat) (x : Engine) : (s.setEngine n x).moving = s.moving := rfl
@[simp] theorem State.setEngine_inp (s : State) (n : Nat) (x : Engine) : (s.setEngine n x).inp = s.inp := rfl
@[simp] theorem State.setEngine_free (s : State) (n : Nat) (x : Engine) : (s.setEngine n x).free = s.free := rfl
@[simp] theorem State.setEngine_cores (s : State) (n : Nat) (x : Engine) : (s.setEngine n x).cores = s.cores := rfl
@[simp] theorem State.setEngine_mem (s : State) (n : Nat) (x : Engine) : (s.setEngine n x).mem = s.mem := rfl
@[simp] theorem State.setEngine_hist (s : State) (n : Nat) (x : Engine) : (s.setEngine n x).hist = s.hist := rfl
@[simp] theorem State.setEngine_nextWr (s : State) (n : Nat) (x : Engine) : (s.setEngine n x).nextWr = s.nextWr := rfl
@[simp] theorem State.setEngine_fences (s : State) (n : Nat) (x : Engine) : (s.setEngine n x).fences = s.fences := rfl
@[simp] theorem State.setEngine_ue (s : State) (n : Nat) (x : Engine) : (s.setEngine n x).ue = s.ue := rfl
@[simp] theorem State.setEngine_flaws (s : State) (n : Nat) (x : Engine) : (s.setEngine n x).flaws = s.flaws := rfl
@[simp] theorem State.setEngine_watch (s : State) (n : Nat) (x : Engine) : (s.setEngine n x).watch = s.watch := rfl
@[simp] theorem State.setEngine_srb (s : State) (n : Nat) (x : Engine) : (s.setEngine n x).srb = s.srb := rfl
@[simp] theorem State.setEngine_ctxs (s : State) (n : Nat) (x : Engine) : (s.setEngine n x).ctxs = s.ctxs := rfl
@[simp] theorem State.setEngine_igen (s : State) (n : Nat) (x : Engine) : (s.setEngine n x).igen = s.igen := rfl
@[simp] theorem State.setEngine_migrating (s : State) (n : Nat) (x : Engine) : (s.setEngine n x).migrating = s.migrating := rfl
@[simp] theorem State.setEngine_live (s : State) (n : Nat) (x : Engine) : (s.setEngine n x).live = s.live := rfl
@[simp] theorem State.setEngine_lost (s : State) (n : Nat) (x : Engine) : (s.setEngine n x).lost = s.lost := rfl
@[simp] theorem State.setEngine_tick (s : State) (n : Nat) (x : Engine) : (s.setEngine n x).tick = s.tick := rfl
@[simp] theorem State.setEngine_down (s : State) (n : Nat) (x : Engine) : (s.setEngine n x).down = s.down := rfl
@[simp] theorem State.setEngine_ues (s : State) (n : Nat) (x : Engine) : (s.setEngine n x).ues = s.ues := rfl
@[simp] theorem State.setEngine_ks (s : State) (n : Nat) (x : Engine) : (s.setEngine n x).ks = s.ks := rfl
@[simp] theorem State.setEngine_xi (s : State) (n : Nat) (x : Engine) : (s.setEngine n x).xi = s.xi := rfl
@[simp] theorem State.setEngine_msix (s : State) (n : Nat) (x : Engine) : (s.setEngine n x).msix = s.msix := rfl
@[simp] theorem State.setEngine_dev (s : State) (n : Nat) (x : Engine) : (s.setEngine n x).dev = s.dev := rfl

/-! ### State.setCtx -/

@[simp] theorem State.setCtx_turns (s : State) (a : Nat) (x : Ctx) : (s.setCtx a x).turns = s.turns := rfl
@[simp] theorem State.setCtx_cur (s : State) (a : Nat) (x : Ctx) : (s.setCtx a x).cur = s.cur := rfl
@[simp] theorem State.setCtx_moving (s : State) (a : Nat) (x : Ctx) : (s.setCtx a x).moving = s.moving := rfl
@[simp] theorem State.setCtx_inp (s : State) (a : Nat) (x : Ctx) : (s.setCtx a x).inp = s.inp := rfl
@[simp] theorem State.setCtx_free (s : State) (a : Nat) (x : Ctx) : (s.setCtx a x).free = s.free := rfl
@[simp] theorem State.setCtx_cores (s : State) (a : Nat) (x : Ctx) : (s.setCtx a x).cores = s.cores := rfl
@[simp] theorem State.setCtx_engines (s : State) (a : Nat) (x : Ctx) : (s.setCtx a x).engines = s.engines := rfl
@[simp] theorem State.setCtx_mem (s : State) (a : Nat) (x : Ctx) : (s.setCtx a x).mem = s.mem := rfl
@[simp] theorem State.setCtx_hist (s : State) (a : Nat) (x : Ctx) : (s.setCtx a x).hist = s.hist := rfl
@[simp] theorem State.setCtx_nextWr (s : State) (a : Nat) (x : Ctx) : (s.setCtx a x).nextWr = s.nextWr := rfl
@[simp] theorem State.setCtx_fences (s : State) (a : Nat) (x : Ctx) : (s.setCtx a x).fences = s.fences := rfl
@[simp] theorem State.setCtx_ue (s : State) (a : Nat) (x : Ctx) : (s.setCtx a x).ue = s.ue := rfl
@[simp] theorem State.setCtx_flaws (s : State) (a : Nat) (x : Ctx) : (s.setCtx a x).flaws = s.flaws := rfl
@[simp] theorem State.setCtx_watch (s : State) (a : Nat) (x : Ctx) : (s.setCtx a x).watch = s.watch := rfl
@[simp] theorem State.setCtx_srb (s : State) (a : Nat) (x : Ctx) : (s.setCtx a x).srb = s.srb := rfl
@[simp] theorem State.setCtx_igen (s : State) (a : Nat) (x : Ctx) : (s.setCtx a x).igen = s.igen := rfl
@[simp] theorem State.setCtx_migrating (s : State) (a : Nat) (x : Ctx) : (s.setCtx a x).migrating = s.migrating := rfl
@[simp] theorem State.setCtx_live (s : State) (a : Nat) (x : Ctx) : (s.setCtx a x).live = s.live := rfl
@[simp] theorem State.setCtx_lost (s : State) (a : Nat) (x : Ctx) : (s.setCtx a x).lost = s.lost := rfl
@[simp] theorem State.setCtx_tick (s : State) (a : Nat) (x : Ctx) : (s.setCtx a x).tick = s.tick := rfl
@[simp] theorem State.setCtx_down (s : State) (a : Nat) (x : Ctx) : (s.setCtx a x).down = s.down := rfl
@[simp] theorem State.setCtx_ues (s : State) (a : Nat) (x : Ctx) : (s.setCtx a x).ues = s.ues := rfl
@[simp] theorem State.setCtx_ks (s : State) (a : Nat) (x : Ctx) : (s.setCtx a x).ks = s.ks := rfl
@[simp] theorem State.setCtx_xi (s : State) (a : Nat) (x : Ctx) : (s.setCtx a x).xi = s.xi := rfl
@[simp] theorem State.setCtx_msix (s : State) (a : Nat) (x : Ctx) : (s.setCtx a x).msix = s.msix := rfl
@[simp] theorem State.setCtx_dev (s : State) (a : Nat) (x : Ctx) : (s.setCtx a x).dev = s.dev := rfl

/-! ### State.onMe -/

@[simp] theorem State.onMe_turns (s : State) (f : Core → Core) : (s.onMe f).turns = s.turns := rfl
@[simp] theorem State.onMe_cur (s : State) (f : Core → Core) : (s.onMe f).cur = s.cur := rfl
@[simp] theorem State.onMe_moving (s : State) (f : Core → Core) : (s.onMe f).moving = s.moving := rfl
@[simp] theorem State.onMe_inp (s : State) (f : Core → Core) : (s.onMe f).inp = s.inp := rfl
@[simp] theorem State.onMe_free (s : State) (f : Core → Core) : (s.onMe f).free = s.free := rfl
@[simp] theorem State.onMe_engines (s : State) (f : Core → Core) : (s.onMe f).engines = s.engines := rfl
@[simp] theorem State.onMe_mem (s : State) (f : Core → Core) : (s.onMe f).mem = s.mem := rfl
@[simp] theorem State.onMe_hist (s : State) (f : Core → Core) : (s.onMe f).hist = s.hist := rfl
@[simp] theorem State.onMe_nextWr (s : State) (f : Core → Core) : (s.onMe f).nextWr = s.nextWr := rfl
@[simp] theorem State.onMe_fences (s : State) (f : Core → Core) : (s.onMe f).fences = s.fences := rfl
@[simp] theorem State.onMe_ue (s : State) (f : Core → Core) : (s.onMe f).ue = s.ue := rfl
@[simp] theorem State.onMe_flaws (s : State) (f : Core → Core) : (s.onMe f).flaws = s.flaws := rfl
@[simp] theorem State.onMe_watch (s : State) (f : Core → Core) : (s.onMe f).watch = s.watch := rfl
@[simp] theorem State.onMe_srb (s : State) (f : Core → Core) : (s.onMe f).srb = s.srb := rfl
@[simp] theorem State.onMe_ctxs (s : State) (f : Core → Core) : (s.onMe f).ctxs = s.ctxs := rfl
@[simp] theorem State.onMe_igen (s : State) (f : Core → Core) : (s.onMe f).igen = s.igen := rfl
@[simp] theorem State.onMe_migrating (s : State) (f : Core → Core) : (s.onMe f).migrating = s.migrating := rfl
@[simp] theorem State.onMe_live (s : State) (f : Core → Core) : (s.onMe f).live = s.live := rfl
@[simp] theorem State.onMe_lost (s : State) (f : Core → Core) : (s.onMe f).lost = s.lost := rfl
@[simp] theorem State.onMe_tick (s : State) (f : Core → Core) : (s.onMe f).tick = s.tick := rfl
@[simp] theorem State.onMe_down (s : State) (f : Core → Core) : (s.onMe f).down = s.down := rfl
@[simp] theorem State.onMe_ues (s : State) (f : Core → Core) : (s.onMe f).ues = s.ues := rfl
@[simp] theorem State.onMe_ks (s : State) (f : Core → Core) : (s.onMe f).ks = s.ks := rfl
@[simp] theorem State.onMe_xi (s : State) (f : Core → Core) : (s.onMe f).xi = s.xi := rfl
@[simp] theorem State.onMe_msix (s : State) (f : Core → Core) : (s.onMe f).msix = s.msix := rfl
@[simp] theorem State.onMe_dev (s : State) (f : Core → Core) : (s.onMe f).dev = s.dev := rfl

/-! ### State.onCore -/

@[simp] theorem State.onCore_turns (s : State) (c : Nat) (f : Core → Core) : (s.onCore c f).turns = s.turns := rfl
@[simp] theorem State.onCore_cur (s : State) (c : Nat) (f : Core → Core) : (s.onCore c f).cur = s.cur := rfl
@[simp] theorem State.onCore_moving (s : State) (c : Nat) (f : Core → Core) : (s.onCore c f).moving = s.moving := rfl
@[simp] theorem State.onCore_inp (s : State) (c : Nat) (f : Core → Core) : (s.onCore c f).inp = s.inp := rfl
@[simp] theorem State.onCore_free (s : State) (c : Nat) (f : Core → Core) : (s.onCore c f).free = s.free := rfl
@[simp] theorem State.onCore_engines (s : State) (c : Nat) (f : Core → Core) : (s.onCore c f).engines = s.engines := rfl
@[simp] theorem State.onCore_mem (s : State) (c : Nat) (f : Core → Core) : (s.onCore c f).mem = s.mem := rfl
@[simp] theorem State.onCore_hist (s : State) (c : Nat) (f : Core → Core) : (s.onCore c f).hist = s.hist := rfl
@[simp] theorem State.onCore_nextWr (s : State) (c : Nat) (f : Core → Core) : (s.onCore c f).nextWr = s.nextWr := rfl
@[simp] theorem State.onCore_fences (s : State) (c : Nat) (f : Core → Core) : (s.onCore c f).fences = s.fences := rfl
@[simp] theorem State.onCore_ue (s : State) (c : Nat) (f : Core → Core) : (s.onCore c f).ue = s.ue := rfl
@[simp] theorem State.onCore_flaws (s : State) (c : Nat) (f : Core → Core) : (s.onCore c f).flaws = s.flaws := rfl
@[simp] theorem State.onCore_watch (s : State) (c : Nat) (f : Core → Core) : (s.onCore c f).watch = s.watch := rfl
@[simp] theorem State.onCore_srb (s : State) (c : Nat) (f : Core → Core) : (s.onCore c f).srb = s.srb := rfl
@[simp] theorem State.onCore_ctxs (s : State) (c : Nat) (f : Core → Core) : (s.onCore c f).ctxs = s.ctxs := rfl
@[simp] theorem State.onCore_igen (s : State) (c : Nat) (f : Core → Core) : (s.onCore c f).igen = s.igen := rfl
@[simp] theorem State.onCore_migrating (s : State) (c : Nat) (f : Core → Core) : (s.onCore c f).migrating = s.migrating := rfl
@[simp] theorem State.onCore_live (s : State) (c : Nat) (f : Core → Core) : (s.onCore c f).live = s.live := rfl
@[simp] theorem State.onCore_lost (s : State) (c : Nat) (f : Core → Core) : (s.onCore c f).lost = s.lost := rfl
@[simp] theorem State.onCore_tick (s : State) (c : Nat) (f : Core → Core) : (s.onCore c f).tick = s.tick := rfl
@[simp] theorem State.onCore_down (s : State) (c : Nat) (f : Core → Core) : (s.onCore c f).down = s.down := rfl
@[simp] theorem State.onCore_ues (s : State) (c : Nat) (f : Core → Core) : (s.onCore c f).ues = s.ues := rfl
@[simp] theorem State.onCore_ks (s : State) (c : Nat) (f : Core → Core) : (s.onCore c f).ks = s.ks := rfl
@[simp] theorem State.onCore_xi (s : State) (c : Nat) (f : Core → Core) : (s.onCore c f).xi = s.xi := rfl
@[simp] theorem State.onCore_msix (s : State) (c : Nat) (f : Core → Core) : (s.onCore c f).msix = s.msix := rfl
@[simp] theorem State.onCore_dev (s : State) (c : Nat) (f : Core → Core) : (s.onCore c f).dev = s.dev := rfl

/-! ### State.onEngine -/

@[simp] theorem State.onEngine_turns (s : State) (n : Nat) (f : Engine → Engine) : (s.onEngine n f).turns = s.turns := rfl
@[simp] theorem State.onEngine_cur (s : State) (n : Nat) (f : Engine → Engine) : (s.onEngine n f).cur = s.cur := rfl
@[simp] theorem State.onEngine_moving (s : State) (n : Nat) (f : Engine → Engine) : (s.onEngine n f).moving = s.moving := rfl
@[simp] theorem State.onEngine_inp (s : State) (n : Nat) (f : Engine → Engine) : (s.onEngine n f).inp = s.inp := rfl
@[simp] theorem State.onEngine_free (s : State) (n : Nat) (f : Engine → Engine) : (s.onEngine n f).free = s.free := rfl
@[simp] theorem State.onEngine_cores (s : State) (n : Nat) (f : Engine → Engine) : (s.onEngine n f).cores = s.cores := rfl
@[simp] theorem State.onEngine_mem (s : State) (n : Nat) (f : Engine → Engine) : (s.onEngine n f).mem = s.mem := rfl
@[simp] theorem State.onEngine_hist (s : State) (n : Nat) (f : Engine → Engine) : (s.onEngine n f).hist = s.hist := rfl
@[simp] theorem State.onEngine_nextWr (s : State) (n : Nat) (f : Engine → Engine) : (s.onEngine n f).nextWr = s.nextWr := rfl
@[simp] theorem State.onEngine_fences (s : State) (n : Nat) (f : Engine → Engine) : (s.onEngine n f).fences = s.fences := rfl
@[simp] theorem State.onEngine_ue (s : State) (n : Nat) (f : Engine → Engine) : (s.onEngine n f).ue = s.ue := rfl
@[simp] theorem State.onEngine_flaws (s : State) (n : Nat) (f : Engine → Engine) : (s.onEngine n f).flaws = s.flaws := rfl
@[simp] theorem State.onEngine_watch (s : State) (n : Nat) (f : Engine → Engine) : (s.onEngine n f).watch = s.watch := rfl
@[simp] theorem State.onEngine_srb (s : State) (n : Nat) (f : Engine → Engine) : (s.onEngine n f).srb = s.srb := rfl
@[simp] theorem State.onEngine_ctxs (s : State) (n : Nat) (f : Engine → Engine) : (s.onEngine n f).ctxs = s.ctxs := rfl
@[simp] theorem State.onEngine_igen (s : State) (n : Nat) (f : Engine → Engine) : (s.onEngine n f).igen = s.igen := rfl
@[simp] theorem State.onEngine_migrating (s : State) (n : Nat) (f : Engine → Engine) : (s.onEngine n f).migrating = s.migrating := rfl
@[simp] theorem State.onEngine_live (s : State) (n : Nat) (f : Engine → Engine) : (s.onEngine n f).live = s.live := rfl
@[simp] theorem State.onEngine_lost (s : State) (n : Nat) (f : Engine → Engine) : (s.onEngine n f).lost = s.lost := rfl
@[simp] theorem State.onEngine_tick (s : State) (n : Nat) (f : Engine → Engine) : (s.onEngine n f).tick = s.tick := rfl
@[simp] theorem State.onEngine_down (s : State) (n : Nat) (f : Engine → Engine) : (s.onEngine n f).down = s.down := rfl
@[simp] theorem State.onEngine_ues (s : State) (n : Nat) (f : Engine → Engine) : (s.onEngine n f).ues = s.ues := rfl
@[simp] theorem State.onEngine_ks (s : State) (n : Nat) (f : Engine → Engine) : (s.onEngine n f).ks = s.ks := rfl
@[simp] theorem State.onEngine_xi (s : State) (n : Nat) (f : Engine → Engine) : (s.onEngine n f).xi = s.xi := rfl
@[simp] theorem State.onEngine_msix (s : State) (n : Nat) (f : Engine → Engine) : (s.onEngine n f).msix = s.msix := rfl
@[simp] theorem State.onEngine_dev (s : State) (n : Nat) (f : Engine → Engine) : (s.onEngine n f).dev = s.dev := rfl

/-! ### State.onSt -/

@[simp] theorem State.onSt_turns (s : State) (f : StreamSt → StreamSt) : (s.onSt f).turns = s.turns := rfl
@[simp] theorem State.onSt_cur (s : State) (f : StreamSt → StreamSt) : (s.onSt f).cur = s.cur := rfl
@[simp] theorem State.onSt_moving (s : State) (f : StreamSt → StreamSt) : (s.onSt f).moving = s.moving := rfl
@[simp] theorem State.onSt_inp (s : State) (f : StreamSt → StreamSt) : (s.onSt f).inp = s.inp := rfl
@[simp] theorem State.onSt_free (s : State) (f : StreamSt → StreamSt) : (s.onSt f).free = s.free := rfl
@[simp] theorem State.onSt_engines (s : State) (f : StreamSt → StreamSt) : (s.onSt f).engines = s.engines := rfl
@[simp] theorem State.onSt_mem (s : State) (f : StreamSt → StreamSt) : (s.onSt f).mem = s.mem := rfl
@[simp] theorem State.onSt_hist (s : State) (f : StreamSt → StreamSt) : (s.onSt f).hist = s.hist := rfl
@[simp] theorem State.onSt_nextWr (s : State) (f : StreamSt → StreamSt) : (s.onSt f).nextWr = s.nextWr := rfl
@[simp] theorem State.onSt_fences (s : State) (f : StreamSt → StreamSt) : (s.onSt f).fences = s.fences := rfl
@[simp] theorem State.onSt_ue (s : State) (f : StreamSt → StreamSt) : (s.onSt f).ue = s.ue := rfl
@[simp] theorem State.onSt_flaws (s : State) (f : StreamSt → StreamSt) : (s.onSt f).flaws = s.flaws := rfl
@[simp] theorem State.onSt_watch (s : State) (f : StreamSt → StreamSt) : (s.onSt f).watch = s.watch := rfl
@[simp] theorem State.onSt_srb (s : State) (f : StreamSt → StreamSt) : (s.onSt f).srb = s.srb := rfl
@[simp] theorem State.onSt_ctxs (s : State) (f : StreamSt → StreamSt) : (s.onSt f).ctxs = s.ctxs := rfl
@[simp] theorem State.onSt_igen (s : State) (f : StreamSt → StreamSt) : (s.onSt f).igen = s.igen := rfl
@[simp] theorem State.onSt_migrating (s : State) (f : StreamSt → StreamSt) : (s.onSt f).migrating = s.migrating := rfl
@[simp] theorem State.onSt_live (s : State) (f : StreamSt → StreamSt) : (s.onSt f).live = s.live := rfl
@[simp] theorem State.onSt_lost (s : State) (f : StreamSt → StreamSt) : (s.onSt f).lost = s.lost := rfl
@[simp] theorem State.onSt_tick (s : State) (f : StreamSt → StreamSt) : (s.onSt f).tick = s.tick := rfl
@[simp] theorem State.onSt_down (s : State) (f : StreamSt → StreamSt) : (s.onSt f).down = s.down := rfl
@[simp] theorem State.onSt_ues (s : State) (f : StreamSt → StreamSt) : (s.onSt f).ues = s.ues := rfl
@[simp] theorem State.onSt_ks (s : State) (f : StreamSt → StreamSt) : (s.onSt f).ks = s.ks := rfl
@[simp] theorem State.onSt_xi (s : State) (f : StreamSt → StreamSt) : (s.onSt f).xi = s.xi := rfl
@[simp] theorem State.onSt_msix (s : State) (f : StreamSt → StreamSt) : (s.onSt f).msix = s.msix := rfl
@[simp] theorem State.onSt_dev (s : State) (f : StreamSt → StreamSt) : (s.onSt f).dev = s.dev := rfl

/-! ### State.onCl -/

@[simp] theorem State.onCl_turns (s : State) (f : Clause → Clause) : (s.onCl f).turns = s.turns := rfl
@[simp] theorem State.onCl_cur (s : State) (f : Clause → Clause) : (s.onCl f).cur = s.cur := rfl
@[simp] theorem State.onCl_moving (s : State) (f : Clause → Clause) : (s.onCl f).moving = s.moving := rfl
@[simp] theorem State.onCl_inp (s : State) (f : Clause → Clause) : (s.onCl f).inp = s.inp := rfl
@[simp] theorem State.onCl_free (s : State) (f : Clause → Clause) : (s.onCl f).free = s.free := rfl
@[simp] theorem State.onCl_engines (s : State) (f : Clause → Clause) : (s.onCl f).engines = s.engines := rfl
@[simp] theorem State.onCl_mem (s : State) (f : Clause → Clause) : (s.onCl f).mem = s.mem := rfl
@[simp] theorem State.onCl_hist (s : State) (f : Clause → Clause) : (s.onCl f).hist = s.hist := rfl
@[simp] theorem State.onCl_nextWr (s : State) (f : Clause → Clause) : (s.onCl f).nextWr = s.nextWr := rfl
@[simp] theorem State.onCl_fences (s : State) (f : Clause → Clause) : (s.onCl f).fences = s.fences := rfl
@[simp] theorem State.onCl_ue (s : State) (f : Clause → Clause) : (s.onCl f).ue = s.ue := rfl
@[simp] theorem State.onCl_flaws (s : State) (f : Clause → Clause) : (s.onCl f).flaws = s.flaws := rfl
@[simp] theorem State.onCl_watch (s : State) (f : Clause → Clause) : (s.onCl f).watch = s.watch := rfl
@[simp] theorem State.onCl_srb (s : State) (f : Clause → Clause) : (s.onCl f).srb = s.srb := rfl
@[simp] theorem State.onCl_ctxs (s : State) (f : Clause → Clause) : (s.onCl f).ctxs = s.ctxs := rfl
@[simp] theorem State.onCl_igen (s : State) (f : Clause → Clause) : (s.onCl f).igen = s.igen := rfl
@[simp] theorem State.onCl_migrating (s : State) (f : Clause → Clause) : (s.onCl f).migrating = s.migrating := rfl
@[simp] theorem State.onCl_live (s : State) (f : Clause → Clause) : (s.onCl f).live = s.live := rfl
@[simp] theorem State.onCl_lost (s : State) (f : Clause → Clause) : (s.onCl f).lost = s.lost := rfl
@[simp] theorem State.onCl_tick (s : State) (f : Clause → Clause) : (s.onCl f).tick = s.tick := rfl
@[simp] theorem State.onCl_down (s : State) (f : Clause → Clause) : (s.onCl f).down = s.down := rfl
@[simp] theorem State.onCl_ues (s : State) (f : Clause → Clause) : (s.onCl f).ues = s.ues := rfl
@[simp] theorem State.onCl_ks (s : State) (f : Clause → Clause) : (s.onCl f).ks = s.ks := rfl
@[simp] theorem State.onCl_xi (s : State) (f : Clause → Clause) : (s.onCl f).xi = s.xi := rfl
@[simp] theorem State.onCl_msix (s : State) (f : Clause → Clause) : (s.onCl f).msix = s.msix := rfl
@[simp] theorem State.onCl_dev (s : State) (f : Clause → Clause) : (s.onCl f).dev = s.dev := rfl

/-! ### State.onEng -/

@[simp] theorem State.onEng_turns (s : State) (f : Engine → Engine) : (s.onEng f).turns = s.turns := rfl
@[simp] theorem State.onEng_cur (s : State) (f : Engine → Engine) : (s.onEng f).cur = s.cur := rfl
@[simp] theorem State.onEng_moving (s : State) (f : Engine → Engine) : (s.onEng f).moving = s.moving := rfl
@[simp] theorem State.onEng_inp (s : State) (f : Engine → Engine) : (s.onEng f).inp = s.inp := rfl
@[simp] theorem State.onEng_free (s : State) (f : Engine → Engine) : (s.onEng f).free = s.free := rfl
@[simp] theorem State.onEng_cores (s : State) (f : Engine → Engine) : (s.onEng f).cores = s.cores := rfl
@[simp] theorem State.onEng_mem (s : State) (f : Engine → Engine) : (s.onEng f).mem = s.mem := rfl
@[simp] theorem State.onEng_hist (s : State) (f : Engine → Engine) : (s.onEng f).hist = s.hist := rfl
@[simp] theorem State.onEng_nextWr (s : State) (f : Engine → Engine) : (s.onEng f).nextWr = s.nextWr := rfl
@[simp] theorem State.onEng_fences (s : State) (f : Engine → Engine) : (s.onEng f).fences = s.fences := rfl
@[simp] theorem State.onEng_ue (s : State) (f : Engine → Engine) : (s.onEng f).ue = s.ue := rfl
@[simp] theorem State.onEng_flaws (s : State) (f : Engine → Engine) : (s.onEng f).flaws = s.flaws := rfl
@[simp] theorem State.onEng_watch (s : State) (f : Engine → Engine) : (s.onEng f).watch = s.watch := rfl
@[simp] theorem State.onEng_srb (s : State) (f : Engine → Engine) : (s.onEng f).srb = s.srb := rfl
@[simp] theorem State.onEng_ctxs (s : State) (f : Engine → Engine) : (s.onEng f).ctxs = s.ctxs := rfl
@[simp] theorem State.onEng_igen (s : State) (f : Engine → Engine) : (s.onEng f).igen = s.igen := rfl
@[simp] theorem State.onEng_migrating (s : State) (f : Engine → Engine) : (s.onEng f).migrating = s.migrating := rfl
@[simp] theorem State.onEng_live (s : State) (f : Engine → Engine) : (s.onEng f).live = s.live := rfl
@[simp] theorem State.onEng_lost (s : State) (f : Engine → Engine) : (s.onEng f).lost = s.lost := rfl
@[simp] theorem State.onEng_tick (s : State) (f : Engine → Engine) : (s.onEng f).tick = s.tick := rfl
@[simp] theorem State.onEng_down (s : State) (f : Engine → Engine) : (s.onEng f).down = s.down := rfl
@[simp] theorem State.onEng_ues (s : State) (f : Engine → Engine) : (s.onEng f).ues = s.ues := rfl
@[simp] theorem State.onEng_ks (s : State) (f : Engine → Engine) : (s.onEng f).ks = s.ks := rfl
@[simp] theorem State.onEng_xi (s : State) (f : Engine → Engine) : (s.onEng f).xi = s.xi := rfl
@[simp] theorem State.onEng_msix (s : State) (f : Engine → Engine) : (s.onEng f).msix = s.msix := rfl
@[simp] theorem State.onEng_dev (s : State) (f : Engine → Engine) : (s.onEng f).dev = s.dev := rfl

/-! ### State.keep -/

@[simp] theorem State.keep_turns (s : State) (b : Bool) : (s.keep b).turns = s.turns := rfl
@[simp] theorem State.keep_cur (s : State) (b : Bool) : (s.keep b).cur = s.cur := rfl
@[simp] theorem State.keep_inp (s : State) (b : Bool) : (s.keep b).inp = s.inp := rfl
@[simp] theorem State.keep_free (s : State) (b : Bool) : (s.keep b).free = s.free := rfl
@[simp] theorem State.keep_cores (s : State) (b : Bool) : (s.keep b).cores = s.cores := rfl
@[simp] theorem State.keep_engines (s : State) (b : Bool) : (s.keep b).engines = s.engines := rfl
@[simp] theorem State.keep_mem (s : State) (b : Bool) : (s.keep b).mem = s.mem := rfl
@[simp] theorem State.keep_hist (s : State) (b : Bool) : (s.keep b).hist = s.hist := rfl
@[simp] theorem State.keep_nextWr (s : State) (b : Bool) : (s.keep b).nextWr = s.nextWr := rfl
@[simp] theorem State.keep_fences (s : State) (b : Bool) : (s.keep b).fences = s.fences := rfl
@[simp] theorem State.keep_ue (s : State) (b : Bool) : (s.keep b).ue = s.ue := rfl
@[simp] theorem State.keep_flaws (s : State) (b : Bool) : (s.keep b).flaws = s.flaws := rfl
@[simp] theorem State.keep_watch (s : State) (b : Bool) : (s.keep b).watch = s.watch := rfl
@[simp] theorem State.keep_srb (s : State) (b : Bool) : (s.keep b).srb = s.srb := rfl
@[simp] theorem State.keep_ctxs (s : State) (b : Bool) : (s.keep b).ctxs = s.ctxs := rfl
@[simp] theorem State.keep_igen (s : State) (b : Bool) : (s.keep b).igen = s.igen := rfl
@[simp] theorem State.keep_migrating (s : State) (b : Bool) : (s.keep b).migrating = s.migrating := rfl
@[simp] theorem State.keep_live (s : State) (b : Bool) : (s.keep b).live = s.live := rfl
@[simp] theorem State.keep_lost (s : State) (b : Bool) : (s.keep b).lost = s.lost := rfl
@[simp] theorem State.keep_tick (s : State) (b : Bool) : (s.keep b).tick = s.tick := rfl
@[simp] theorem State.keep_down (s : State) (b : Bool) : (s.keep b).down = s.down := rfl
@[simp] theorem State.keep_ues (s : State) (b : Bool) : (s.keep b).ues = s.ues := rfl
@[simp] theorem State.keep_ks (s : State) (b : Bool) : (s.keep b).ks = s.ks := rfl
@[simp] theorem State.keep_xi (s : State) (b : Bool) : (s.keep b).xi = s.xi := rfl
@[simp] theorem State.keep_msix (s : State) (b : Bool) : (s.keep b).msix = s.msix := rfl
@[simp] theorem State.keep_dev (s : State) (b : Bool) : (s.keep b).dev = s.dev := rfl

/-! ### Reading back -/

@[simp] theorem State.keep_moving (s : State) (b : Bool) : (s.keep b).moving = b := rfl
@[simp] theorem State.keep_core (s : State) (b : Bool) (c : Nat) : (s.keep b).core c = s.core c := rfl
@[simp] theorem State.keep_me (s : State) (b : Bool) : (s.keep b).me = s.me := rfl
@[simp] theorem State.keep_engine (s : State) (b : Bool) (n : Nat) : (s.keep b).engine n = s.engine n := rfl
@[simp] theorem State.keep_eng (s : State) (b : Bool) : (s.keep b).eng = s.eng := rfl
@[simp] theorem State.setCore_engine (s : State) (c : Nat) (x : Core) (n : Nat) : (s.setCore c x).engine n = s.engine n := rfl
@[simp] theorem State.setCore_ctx (s : State) (c : Nat) (x : Core) (a : Nat) : (s.setCore c x).ctx a = s.ctx a := rfl
@[simp] theorem State.onMe_engine (s : State) (f : Core → Core) (n : Nat) : (s.onMe f).engine n = s.engine n := rfl
@[simp] theorem State.onMe_ctx (s : State) (f : Core → Core) (a : Nat) : (s.onMe f).ctx a = s.ctx a := rfl
@[simp] theorem State.setEngine_core (s : State) (n : Nat) (x : Engine) (c : Nat) : (s.setEngine n x).core c = s.core c := rfl
@[simp] theorem State.setEngine_me (s : State) (n : Nat) (x : Engine) : (s.setEngine n x).me = s.me := rfl
@[simp] theorem State.onEng_core (s : State) (f : Engine → Engine) (c : Nat) : (s.onEng f).core c = s.core c := rfl
@[simp] theorem State.onEng_me (s : State) (f : Engine → Engine) : (s.onEng f).me = s.me := rfl

/-- A core reads as it was last written. -/
@[simp] theorem State.setCore_core (s : State) (c : Nat) (x : Core) (d : Nat) :
    (s.setCore c x).core d = if d = c then x else s.core d := Tab.get_set ..

@[simp] theorem State.setEngine_engine (s : State) (n : Nat) (x : Engine) (m : Nat) :
    (s.setEngine n x).engine m = if m = n then x else s.engine m := Tab.get_set ..

@[simp] theorem State.setCtx_ctx (s : State) (a : Nat) (x : Ctx) (b : Nat) :
    (s.setCtx a x).ctx b = if b = a then x else s.ctx b := Tab.get_set ..

@[simp] theorem State.onMe_me (s : State) (f : Core → Core) : (s.onMe f).me = f s.me := by
  show (s.setCore s.cur.core (f s.me)).core s.cur.core = f s.me
  simp

@[simp] theorem State.onCore_core (s : State) (c : Nat) (f : Core → Core) (d : Nat) :
    (s.onCore c f).core d = if d = c then f (s.core c) else s.core d := by simp [State.onCore]

@[simp] theorem State.onMe_core (s : State) (f : Core → Core) (d : Nat) :
    (s.onMe f).core d = if d = s.cur.core then f s.me else s.core d := by simp [State.onMe]

@[simp] theorem State.onEngine_engine (s : State) (n : Nat) (f : Engine → Engine) (m : Nat) :
    (s.onEngine n f).engine m = if m = n then f (s.engine n) else s.engine m := by simp [State.onEngine]

@[simp] theorem State.onEng_eng (s : State) (f : Engine → Engine) : (s.onEng f).eng = f s.eng := by
  show (s.setEngine s.cur.eng (f s.eng)).engine s.cur.eng = f s.eng
  simp

/-! ### Cores and their streams -/

/-- A stream reads as it was last written. -/
@[simp] theorem Core.setStrm_strm (c : Core) (k j : Strm) (x : StreamSt) :
    (c.setStrm k x).strm j = if j = k then x else c.strm j := by cases k <;> cases j <;> rfl

@[simp] theorem Core.onStrm_strm (c : Core) (k j : Strm) (f : StreamSt → StreamSt) :
    (c.onStrm k f).strm j = if j = k then f (c.strm k) else c.strm j := by simp [Core.onStrm]


@[simp] theorem Core.setStrm_enabled (c : Core) (k : Strm) (x : StreamSt) : (c.setStrm k x).enabled = c.enabled := by cases k <;> rfl
@[simp] theorem Core.setStrm_inReset (c : Core) (k : Strm) (x : StreamSt) : (c.setStrm k x).inReset = c.inReset := by cases k <;> rfl
@[simp] theorem Core.setStrm_running (c : Core) (k : Strm) (x : StreamSt) : (c.setStrm k x).running = c.running := by cases k <;> rfl
@[simp] theorem Core.setStrm_cont (c : Core) (k : Strm) (x : StreamSt) : (c.setStrm k x).cont = c.cont := by cases k <;> rfl
@[simp] theorem Core.setStrm_regs (c : Core) (k : Strm) (x : StreamSt) : (c.setStrm k x).regs = c.regs := by cases k <;> rfl
@[simp] theorem Core.setStrm_tok (c : Core) (k : Strm) (x : StreamSt) : (c.setStrm k x).tok = c.tok := by cases k <;> rfl
@[simp] theorem Core.setStrm_trap (c : Core) (k : Strm) (x : StreamSt) : (c.setStrm k x).trap = c.trap := by cases k <;> rfl
@[simp] theorem Core.setStrm_mat (c : Core) (k : Strm) (x : StreamSt) : (c.setStrm k x).mat = c.mat := by cases k <;> rfl
@[simp] theorem Core.setStrm_copy (c : Core) (k : Strm) (x : StreamSt) : (c.setStrm k x).copy = c.copy := by cases k <;> rfl
@[simp] theorem Core.setStrm_part (c : Core) (k : Strm) (x : StreamSt) : (c.setStrm k x).part = c.part := by cases k <;> rfl
@[simp] theorem Core.setStrm_rcap (c : Core) (k : Strm) (x : StreamSt) : (c.setStrm k x).rcap = c.rcap := by cases k <;> rfl
@[simp] theorem Core.setStrm_dict (c : Core) (k : Strm) (x : StreamSt) : (c.setStrm k x).dict = c.dict := by cases k <;> rfl
@[simp] theorem Core.setStrm_np (c : Core) (k : Strm) (x : StreamSt) : (c.setStrm k x).np = c.np := by cases k <;> rfl
@[simp] theorem Core.setStrm_npCycles (c : Core) (k : Strm) (x : StreamSt) : (c.setStrm k x).npCycles = c.npCycles := by cases k <;> rfl
@[simp] theorem Core.setStrm_npPc (c : Core) (k : Strm) (x : StreamSt) : (c.setStrm k x).npPc = c.npPc := by cases k <;> rfl
@[simp] theorem Core.setStrm_ctxBase (c : Core) (k : Strm) (x : StreamSt) : (c.setStrm k x).ctxBase = c.ctxBase := by cases k <;> rfl
@[simp] theorem Core.onStrm_enabled (c : Core) (k : Strm) (f : StreamSt → StreamSt) : (c.onStrm k f).enabled = c.enabled := by simp [Core.onStrm]
@[simp] theorem Core.onStrm_inReset (c : Core) (k : Strm) (f : StreamSt → StreamSt) : (c.onStrm k f).inReset = c.inReset := by simp [Core.onStrm]
@[simp] theorem Core.onStrm_running (c : Core) (k : Strm) (f : StreamSt → StreamSt) : (c.onStrm k f).running = c.running := by simp [Core.onStrm]
@[simp] theorem Core.onStrm_cont (c : Core) (k : Strm) (f : StreamSt → StreamSt) : (c.onStrm k f).cont = c.cont := by simp [Core.onStrm]
@[simp] theorem Core.onStrm_regs (c : Core) (k : Strm) (f : StreamSt → StreamSt) : (c.onStrm k f).regs = c.regs := by simp [Core.onStrm]
@[simp] theorem Core.onStrm_tok (c : Core) (k : Strm) (f : StreamSt → StreamSt) : (c.onStrm k f).tok = c.tok := by simp [Core.onStrm]
@[simp] theorem Core.onStrm_trap (c : Core) (k : Strm) (f : StreamSt → StreamSt) : (c.onStrm k f).trap = c.trap := by simp [Core.onStrm]
@[simp] theorem Core.onStrm_mat (c : Core) (k : Strm) (f : StreamSt → StreamSt) : (c.onStrm k f).mat = c.mat := by simp [Core.onStrm]
@[simp] theorem Core.onStrm_copy (c : Core) (k : Strm) (f : StreamSt → StreamSt) : (c.onStrm k f).copy = c.copy := by simp [Core.onStrm]
@[simp] theorem Core.onStrm_part (c : Core) (k : Strm) (f : StreamSt → StreamSt) : (c.onStrm k f).part = c.part := by simp [Core.onStrm]
@[simp] theorem Core.onStrm_rcap (c : Core) (k : Strm) (f : StreamSt → StreamSt) : (c.onStrm k f).rcap = c.rcap := by simp [Core.onStrm]
@[simp] theorem Core.onStrm_dict (c : Core) (k : Strm) (f : StreamSt → StreamSt) : (c.onStrm k f).dict = c.dict := by simp [Core.onStrm]
@[simp] theorem Core.onStrm_np (c : Core) (k : Strm) (f : StreamSt → StreamSt) : (c.onStrm k f).np = c.np := by simp [Core.onStrm]
@[simp] theorem Core.onStrm_npCycles (c : Core) (k : Strm) (f : StreamSt → StreamSt) : (c.onStrm k f).npCycles = c.npCycles := by simp [Core.onStrm]
@[simp] theorem Core.onStrm_npPc (c : Core) (k : Strm) (f : StreamSt → StreamSt) : (c.onStrm k f).npPc = c.npPc := by simp [Core.onStrm]
@[simp] theorem Core.onStrm_ctxBase (c : Core) (k : Strm) (f : StreamSt → StreamSt) : (c.onStrm k f).ctxBase = c.ctxBase := by simp [Core.onStrm]

/-! ### Registers -/

/-- s0 reads as zero and a write to it is discarded; another s register reads as it was last written (spec/01 R22). -/
@[simp] theorem Core.setS_sreg (c : Core) (n m : Nat) (v : Word) (h : n < 32) :
    (c.setS n v).sreg m = if m = n ∧ n ≠ 0 then v else c.sreg m := by
  unfold Core.setS Core.sreg
  by_cases hn : n = 0
  · simp [hn]
  · by_cases hm : m = 0
    · simp [hm, hn, Ne.symm hn]
    · simp [hm, hn, vget_vset, h]

/-- The same of the a registers. -/
@[simp] theorem Core.setA_areg (c : Core) (n m : Nat) (v : Word) (h : n < 32) :
    (c.setA n v).areg m = if m = n ∧ n ≠ 0 then v else c.areg m := by
  unfold Core.setA Core.areg
  by_cases hn : n = 0
  · simp [hn]
  · by_cases hm : m = 0
    · simp [hm, hn, Ne.symm hn]
    · simp [hm, hn, vget_vset, h]

@[simp] theorem Core.setX_xreg (c : Core) (n m : Nat) (v : Word) (h : n < 8) :
    (c.setX n v).xreg m = if m = n then v else c.xreg m := by simp [Core.setX, Core.xreg, vget_vset, h]

@[simp] theorem Core.setV_vreg (c : Core) (n m : Nat) (r : VReg) (h : n < 32) :
    (c.setV n r).vreg m = if m = n then r else c.vreg m := by simp [Core.setV, Core.vreg, vget_vset, h]

@[simp] theorem Core.setM_mreg (c : Core) (n m : Nat) (r : VReg) (h : n < 8) :
    (c.setM n r).mreg m = if m = n then r else c.mreg m := by simp [Core.setM, Core.mreg, vget_vset, h]

@[simp] theorem Core.setT_tile (c : Core) (n m : Nat) (t : Tile) (h : n < 16) :
    (c.setT n t).tile m = if m = n then t else c.tile m := by simp [Core.setT, Core.tile, vget_vset, h]

@[simp] theorem Core.setC_acc (c : Core) (n m : Nat) (x : Acc) (h : n < 8) :
    (c.setC n x).acc m = if m = n then x else c.acc m := by simp [Core.setC, Core.acc, vget_vset, h]

/-- s0 and a0 read as zero (spec/01 R22). -/
@[simp] theorem Core.sreg_zero (c : Core) : c.sreg 0 = 0 := rfl
@[simp] theorem Core.areg_zero (c : Core) : c.areg 0 = 0 := rfl

end Sys2Proof.Machine
end

