-- ==== Sys2Proof/Laws/Writes.lean ====
section
/-! SUPPORT. What each shared operation that writes memory does to it: the bytes it names, or nothing, in the canonical form. -/

namespace Sys2Proof.Machine

/-! ### Operations that leave memory alone -/

@[simp] theorem State.forget_mem (s : State) (p : Nat → Bool) : (s.forget p).mem = s.mem := by
  unfold State.forget; split <;> rfl

@[simp] theorem State.pruneWrites_mem (s : State) : s.pruneWrites.mem = s.mem := rfl

@[simp] theorem State.onSight_mem (s : State) (c : Nat) (k : Strm) (f : Sight → Sight) : (s.onSight c k f).mem = s.mem := rfl

@[simp] theorem State.shown_mem (s : State) (x : Nat) (keys : List Nat) : (s.shown x keys).mem = s.mem := by
  unfold State.shown; dsimp only; split <;> rfl

@[simp] theorem State.dropLines_mem (s : State) (x : Nat) (p : Nat → Bool) : (s.dropLines x p).mem = s.mem := rfl

/-! ### Writes -/

@[simp] theorem State.put_mem (s : State) (cells : List Host.Cell) : (s.put cells).mem = s.mem.writeCells cells := rfl

/-- `t` has the memory of `s` with some of the bytes `cells` written, and nothing else. -/
def State.Writes (s : State) (cells : List Host.Cell) (t : State) : Prop :=
  ∃ cs : List Host.Cell, (∀ c ∈ cs, c ∈ cells) ∧ t.mem = s.mem.writeCells cs

theorem State.Writes.none {s t : State} (cells : List Host.Cell) (h : t.mem = s.mem) : s.Writes cells t :=
  ⟨[], by simp, by rw [h]; rfl⟩

theorem State.Writes.all {s t : State} {cells : List Host.Cell} (h : t.mem = s.mem.writeCells cells) : s.Writes cells t :=
  ⟨cells, fun _ h => h, h⟩

theorem State.Writes.memOk {s t : State} {cells : List Host.Cell} (h : s.Writes cells t) (ok : s.MemOk) : t.MemOk := by
  obtain ⟨cs, -, e⟩ := h
  unfold State.MemOk; rw [e]; exact Mem.wf_writeCells cs ok

/-- What a partial write leaves alone: every byte outside `cells`. -/
theorem State.Writes.frame {s t : State} {cells : List Host.Cell} (h : s.Writes cells t) (ok : s.MemOk) {k : Nat}
    (hk : ∀ c ∈ cells, c.1 ≠ k) : Mem.read t.mem k = Mem.read s.mem k := by
  obtain ⟨cs, sub, e⟩ := h
  rw [e]; exact Mem.read_writeCells ok cs _ fun c hc => hk c (sub c hc)

theorem mem_of_filter {p : α → Bool} {l : List α} {a : α} (h : a ∈ l.filter p) : a ∈ l := (List.mem_filter.mp h).1

theorem writeCells_append (m : Mem) (a b : List Host.Cell) : m.writeCells (a ++ b) = (m.writeCells a).writeCells b := by
  unfold Mem.writeCells; exact List.foldl_append ..

theorem State.Writes.mono {s t : State} {a b : List Host.Cell} (h : s.Writes a t) (sub : ∀ c ∈ a, c ∈ b) : s.Writes b t := by
  obtain ⟨cs, hs, e⟩ := h
  exact ⟨cs, fun c hc => sub c (hs c hc), e⟩

theorem State.Writes.step {s t u : State} {a b cells : List Host.Cell} (h : s.Writes a t) (ha : ∀ c ∈ a, c ∈ cells)
    (hb : ∀ c ∈ b, c ∈ cells) (e : u.mem = t.mem.writeCells b) : s.Writes cells u := by
  obtain ⟨cs, hs, e'⟩ := h
  refine ⟨cs ++ b, fun c hc => ?_, by rw [writeCells_append, ← e', e]⟩
  obtain hc | hc := List.mem_append.mp hc
  · exact ha c (hs c hc)
  · exact hb c hc

/-- Fold steps that each leave memory alone do. -/
theorem foldl_mem (f : State → α → State) (h : ∀ s a, (f s a).mem = s.mem) (l : List α) (s : State) :
    (l.foldl f s).mem = s.mem := by
  induction l generalizing s with
  | nil => rfl
  | cons a r ih => rw [List.foldl_cons, ih, h]

@[simp] theorem State.ownWrites_mem (s : State) (agent lo hi : Nat) : (s.ownWrites agent lo hi).mem = s.mem := by
  unfold State.ownWrites; dsimp only; split
  · split <;> rfl
  · split <;> rfl

@[simp] theorem State.engineSees_mem (s : State) (keys : List Nat) (lo hi : Nat) : (s.engineSees keys lo hi).mem = s.mem := by
  unfold State.engineSees; apply foldl_mem; intros; rfl

@[simp] theorem State.deviceWide_mem (s : State) (rels : List Rel) : (s.deviceWide rels).mem = s.mem := by
  unfold State.deviceWide; split <;> rfl

@[simp] theorem State.deviceRelease_mem (s : State) (c : Nat) (v : View) : (s.deviceRelease c v).mem = s.mem := by
  unfold State.deviceRelease; split <;> simp

theorem slipUnder_sub (l : List Wr) (w : Wr) (cs : List Host.Cell) : ∀ c ∈ (slipUnder l w cs).2.2, c ∈ cs := by
  induction l generalizing w cs with
  | nil => intro c h; exact h
  | cons r rs ih => intro c h; exact mem_of_filter (ih _ _ c h)

theorem State.slipIn_writes (s : State) (g : Sight) (n : Nat) (w : Wr) (cells : List Host.Cell) :
    s.Writes cells (s.slipIn g n w cells) :=
  ⟨_, slipUnder_sub _ w cells, rfl⟩

theorem State.placeLate_writes (s : State) (g : Sight) (w : Wr) (cells : List Host.Cell) : s.Writes cells (s.placeLate g w cells) := by
  unfold State.placeLate; split
  · exact .none _ rfl
  · exact s.slipIn_writes ..

/-- Bytes that take their place in coherence order: some of them become the newest. -/
theorem State.placeWrite_writes (s : State) (agent : Nat) (how : How) (w : Wr) (cells : List Host.Cell) :
    s.Writes cells (s.placeWrite agent how w cells) := by
  unfold State.placeWrite
  split
  · exact .all rfl
  · split
    · exact .all rfl
    · dsimp only
      split
      · exact (s.placeLate_writes ..).mono fun _ => mem_of_filter
      · exact (s.placeLate_writes ..).step (fun _ => mem_of_filter) (fun _ => mem_of_filter) rfl

/-- With no write that some agent may not see, and for a write that all see at once, all of the bytes become the newest. -/
theorem State.placeWrite_mem (s : State) (agent : Nat) (how : How) (w : Wr) (cells : List Host.Cell)
    (h : s.hist = [] ∨ w.now = true ∨ w.scope ≠ none ∨ w.bar = true) : (s.placeWrite agent how w cells).mem = s.mem.writeCells cells := by
  unfold State.placeWrite
  split
  · rfl
  · have : (s.hist.isEmpty || w.scope.isSome || w.bar || w.now || !w.rels.isEmpty || !w.next.isEmpty) = true := by
      rcases h with h | h | h | h
      · simp [h]
      · simp [h]
      · cases e : w.scope <;> simp_all
      · simp [h]
    rw [if_pos this]; rfl

theorem State.performRels_writes (s : State) (agent : Nat) (how : How) (own : List Rel) (bar : Option (Nat × Bool)) (now : Bool)
    (cells : List Host.Cell) : s.Writes cells (s.performRels agent how own bar now cells) := by
  unfold State.performRels
  dsimp only
  obtain ⟨cs, sub, e⟩ := s.placeWrite_writes agent how _ cells
  exact ⟨cs, sub, by simp only [State.pruneWrites_mem, State.deviceWide_mem, State.engineSees_mem, State.ownWrites_mem]; exact e⟩

theorem State.performRels_mem (s : State) (agent : Nat) (how : How) (own : List Rel) (bar : Option (Nat × Bool)) (now : Bool)
    (cells : List Host.Cell) (h : s.hist = [] ∨ now = true ∨ how.scope ≠ none ∨ bar ≠ none) :
    (s.performRels agent how own bar now cells).mem = s.mem.writeCells cells := by
  unfold State.performRels
  simp only [State.pruneWrites_mem, State.deviceWide_mem, State.engineSees_mem, State.ownWrites_mem]
  refine s.placeWrite_mem agent how _ cells ?_
  rcases h with h | h | h | h
  · exact .inl h
  · exact .inr (.inl h)
  · exact .inr (.inr (.inl h))
  · exact .inr (.inr (.inr (by cases bar <;> simp_all)))

theorem State.performBy_writes (s : State) (agent : Nat) (how : How) (own : List Rel) (bar : Option (Nat × Bool)) (now : Bool)
    (cells : List Host.Cell) : s.Writes cells (s.performBy agent how own bar now cells) := s.performRels_writes ..

@[simp] theorem State.performFor_mem (s : State) (rels : List Rel) (cells : List Host.Cell) :
    (s.performFor rels cells).mem = s.mem.writeCells cells := by
  unfold State.performFor
  split
  · rfl
  · exact s.performRels_mem 0 _ _ _ _ _ (.inr (.inl rfl))

@[simp] theorem State.perform_mem (s : State) (cells : List Host.Cell) : (s.perform cells).mem = s.mem.writeCells cells :=
  s.performFor_mem [] cells

theorem State.storeNow_writes (s : State) (cells : List Host.Cell) (how : How) : s.Writes cells (s.storeNow cells how) := by
  obtain ⟨cs, sub, e⟩ := s.performRels_writes s.agent how (s.storeRels cells how)
    (how.bar.map fun u => barFlips (ofBytes (Mem.bytes s.mem ((cells.map (·.1)).headD 0) 16)) u) false cells
  exact ⟨cs, sub, by unfold State.storeNow; simpa using e⟩

/-- With no write that some agent may not see, a store of a core makes all its bytes the newest; so does a releasing one always. -/
theorem State.storeNow_mem (s : State) (cells : List Host.Cell) (how : How) (h : s.hist = [] ∨ how.scope ≠ none ∨ how.bar ≠ none) :
    (s.storeNow cells how).mem = s.mem.writeCells cells := by
  unfold State.storeNow
  simp only [State.shown_mem]
  refine s.performRels_mem _ _ _ _ _ _ ?_
  rcases h with h | h | h
  · exact .inl h
  · exact .inr (.inr (.inl h))
  · exact .inr (.inr (.inr (by cases e : how.bar <;> simp_all)))

/-- A store of a core writes bytes of its own or, where a sector or a far side refuses them or a port carries them, none. -/
theorem State.storeCells_writes (s : State) (cells : List Host.Cell) (va : Nat) (how : How) :
    s.Writes (how.cells s.mem cells) (s.storeCells cells va how) := by
  unfold State.storeCells
  dsimp only
  split
  · exact .none _ rfl
  · split
    · exact .none _ rfl
    · exact s.storeNow_writes ..

/-- A write of a copy writes bytes of its own, or none. -/
theorem State.copyStore_writes (s : State) (c : Nat) (t : Transfer) (how : How) (own : List Rel) (bar : Option (Nat × Bool))
    (cells : List Host.Cell) (va : Nat) : s.Writes cells (s.copyStore c t how own bar cells va) := by
  unfold State.copyStore
  dsimp only
  split
  · exact .none _ rfl
  · split
    · exact .none _ rfl
    · exact s.performRels_writes ..

/-! ### They keep the canonical form -/

theorem State.MemOk.put {s : State} (h : s.MemOk) (cells : List Host.Cell) : (s.put cells).MemOk := Mem.wf_writeCells cells h

theorem State.MemOk.perform {s : State} (h : s.MemOk) (cells : List Host.Cell) : (s.perform cells).MemOk := by
  unfold State.MemOk; rw [State.perform_mem]; exact Mem.wf_writeCells cells h

theorem State.MemOk.performFor {s : State} (h : s.MemOk) (rels : List Rel) (cells : List Host.Cell) : (s.performFor rels cells).MemOk := by
  unfold State.MemOk; rw [State.performFor_mem]; exact Mem.wf_writeCells cells h

theorem State.MemOk.performBy {s : State} (h : s.MemOk) (agent : Nat) (how : How) (own : List Rel) (bar : Option (Nat × Bool))
    (now : Bool) (cells : List Host.Cell) : (s.performBy agent how own bar now cells).MemOk :=
  (s.performBy_writes ..).memOk h

theorem State.MemOk.storeCells {s : State} (h : s.MemOk) (cells : List Host.Cell) (va : Nat) (how : How) :
    (s.storeCells cells va how).MemOk := (s.storeCells_writes ..).memOk h

theorem State.MemOk.copyStore {s : State} (h : s.MemOk) (c : Nat) (t : Transfer) (how : How) (own : List Rel)
    (bar : Option (Nat × Bool)) (cells : List Host.Cell) (va : Nat) : (s.copyStore c t how own bar cells va).MemOk :=
  (s.copyStore_writes ..).memOk h

@[simp] theorem State.drainPort_mem (s : State) (c fuel : Nat) : (s.drainPort c fuel).mem = s.mem := by
  induction fuel generalizing s with
  | zero => rfl
  | succ n ih =>
    unfold State.drainPort
    split
    · rfl
    · split
      · rw [ih]; rfl
      · rfl

@[simp] theorem State.arrive_mem (s : State) (k : Nat) (r : Req) : (s.arrive k r).mem = s.mem := by
  unfold State.arrive; simp

@[simp] theorem State.leave_mem (s : State) (k : Nat) (r : Req) : (s.leave k r).mem = s.mem := by
  unfold State.leave; simp

/-- An access that has to wait takes its place and leaves memory alone. -/
@[simp] theorem State.want_mem (s : State) (k : Nat) (w : Bool) : (s.want k w).mem = s.mem := by
  unfold State.want
  dsimp only
  split
  · rfl
  · split
    · rfl
    · split
      · rfl
      · exact s.arrive_mem ..

@[simp] theorem State.wantAny_mem (s : State) (ks : List Nat) : (s.wantAny ks).mem = s.mem := by
  unfold State.wantAny; split
  · simp
  · rfl

/-- A write of Keystone or Xiost writes each block, or leaves it in the queue of its bank group. -/
theorem State.MemOk.sysStoreFor {s : State} (h : s.MemOk) (who : Add) (rels : List Rel) (cells : List Host.Cell) :
    (s.sysStoreFor who rels cells).MemOk := by
  unfold State.sysStoreFor
  split
  · rename_i hw
    clear hw
    generalize cellBlocks 256 cells = l
    induction l generalizing s with
    | nil => exact h
    | cons b r ih =>
      refine ih ?_
      cases b with
      | nil => exact h
      | cons c b =>
        dsimp only
        split
        · unfold State.MemOk; rw [State.arrive_mem]; exact h
        · exact h.performFor _ _
  · exact h.performFor rels cells

theorem State.MemOk.physWrite {s : State} (h : s.MemOk) (asid pa : Nat) (bs : List Byte) : (s.physWrite asid pa bs).MemOk := by
  unfold State.physWrite; dsimp only; split
  · exact h
  · exact h.sysStoreFor _ _ _

theorem State.MemOk.kWriteFor {s t : State} (h : s.MemOk) {rels : List Rel} {asid va : Nat} {bs : List Byte}
    (e : s.kWriteFor rels asid va bs = .ok t) : t.MemOk := by
  unfold State.kWriteFor at e
  split at e
  · cases e
  · split at e
    · cases e
    · cases e; exact h.sysStoreFor _ _ _

end Sys2Proof.Machine
end

