-- ==== Sys2Proof/Tests/Slice0.lean ====
section
/-! SUPPORT. Tests of the model: ill-formed instructions, one word of every encoded row, one step of the instructions on small
states with results from the spec's examples or worked by hand from its rules, and, for each statement with hypotheses, states
and operands that meet them. -/

set_option maxRecDepth 20000

namespace Sys2Proof.Tests
open Sys2Proof Sys2Proof.Machine

/-! ### Helpers -/

/-- The state an outcome goes on with. -/
def after (o : Host.Outcome State Fault Refusal) : State :=
  match o with
  | .next t => t
  | _ => State.reset

/-- Core 0 runs stream `k`, whose clause of one position stands at 0x1000 with the next clause at 0x1004. -/
def one (k : Strm) (upd : Core → Core) (mem : Mem := []) : State :=
  let c := upd { Core.init with enabled := true, running := true }
  { State.reset with
    cur := { strm := k }
    cores := [(0, c.onStrm k fun t => { t with
      pc := 0x1000, clause := { live := true, start := 0x1000, next := 0x1004, slots := [⟨0x1000, .mwait ⟨true⟩⟩] } })]
    mem := mem }

/-- The core after an instruction of stream `k` in a clause of its own. -/
def core1 (k : Strm) (i : Instr) (upd : Core → Core) (mem : Mem := []) : Core := (after (exec i (one k upd mem))).me

/-- What an S stream instruction with d = 5, a = 9 and b = c = 10 leaves in s5, for s9 = a, s10 = b and s5 = old. -/
def sResult (i : Instr) (a b old : Word) : Word :=
  (core1 .s i fun c => { c with regs := { c.regs with s := ((c.regs.s.set 9 a).set 10 b).set 5 old } }).sreg 5

/-- The same for an A stream instruction and a5. -/
def aResult (i : Instr) (a b : Word) : Word :=
  (core1 .a i fun c => { c with regs := { c.regs with a := (c.regs.a.set 9 a).set 10 b } }).areg 5

/-- What a V stream instruction leaves in v5, for v9 = a, v10 = b, v5 = old, m3 = m and x6 = x. -/
def vCore (i : Instr) (a b old m : VReg) (x : Word) : Core :=
  core1 .v i fun c => { c with regs := { c.regs with
    v := ((c.regs.v.set 9 a).set 10 b).set 5 old, m := c.regs.m.set 3 m, x := c.regs.x.set 6 x } }

def rr : RR := ⟨5, false, .reg 9, .reg 10, true⟩
def r1 : R1 := ⟨5, false, .reg 9, true⟩
def ri (i : Nat) : RI := ⟨5, false, .reg 9, i, true⟩
def rsh (n : Nat) : RSh := ⟨5, false, .reg 9, n, true⟩
def ts (i : Nat) : TS := ⟨.reg 10, .reg 9, i, true⟩
def vf : VF := ⟨5, false, .reg 9, .reg 10, 0, false, false, false, false, true⟩
def vun : VUn := ⟨5, false, .reg 9, 0, false, false, false, true⟩
def vtwo : VTwo := ⟨5, false, .reg 9, .reg 3, false, false, false, true⟩
def vone : VOne := ⟨5, false, .reg 9, false, true⟩
def vred : VredF := ⟨5, false, .reg 9, 0, false, true⟩
/-- A v register of tag `t` with the runs (value, count). -/
def vr (t : Nat) (l : List (Nat × Nat)) : VReg := { tag := t, runs := l.map fun x => { val := x.1, cnt := x.2 } }
/-! ### Well-formedness: an ill-formed term for each check -/

/-- S, A and common rows: register and latch numbers, W with d, immediates, sizes, scopes, operations, pairs, system
registers, masks and loops (spec/03 R66 to R70, R77, R82). -/
theorem test_wf_scalar : ∀ x ∈ ([
    (.stream .s, .add ⟨32, false, .reg 1, .reg 2, true⟩), (.stream .s, .add ⟨1, true, .reg 1, .reg 2, true⟩),
    (.stream .s, .add ⟨1, false, .reg 32, .reg 2, true⟩), (.stream .s, .add ⟨1, false, .reg 1, .queue 2, true⟩),
    (.stream .s, .popc ⟨5, false, .latch 4, true⟩), (.stream .s, .addi ⟨5, false, .reg 9, 8192, true⟩),
    (.stream .s, .shli ⟨5, false, .reg 9, 64, true⟩), (.stream .s, .movhi ⟨5, false, 524288, true⟩),
    (.stream .s, .beq ⟨.queue 0, .reg 1, 0, true⟩), (.stream .s, .beq ⟨.reg 0, .reg 1, 8192, true⟩),
    (.stream .s, .jmp ⟨524288, true⟩), (.stream .s, .xmovXToS ⟨5, false, .reg 8, true⟩),
    (.stream .s, .xmovSToX ⟨8, false, .reg 9, true⟩), (.stream .s, .ld ⟨5, false, .reg 9, 7, 0, true⟩),
    (.stream .s, .ld ⟨5, false, .reg 9, 6, 1024, true⟩), (.stream .s, .st ⟨.reg 1, .reg 2, 4, 0, true⟩),
    (.stream .s, .st ⟨.reg 1, .reg 2, 3, 2048, true⟩), (.stream .s, .lda ⟨5, false, .reg 9, 11, false, 0, true⟩),
    (.stream .s, .strel ⟨.reg 1, .reg 2, 7, false, 256, true⟩), (.stream .s, .acq ⟨.reg 1, 11, false, 0, true⟩),
    (.stream .s, .cas ⟨5, false, .reg 9, .reg 10, 8, true, true⟩), (.stream .s, .amo ⟨5, false, .reg 9, .reg 10, 2, true, 8, true⟩),
    (.stream .s, .nadd ⟨.reg 1, .reg 2, 3, 0, true⟩), (.stream .s, .fence ⟨11, true⟩),
    (.stream .s, .bind ⟨5, false, .reg 9, 9, 2, true⟩), (.stream .s, .bind ⟨5, false, .reg 9, 0, 2, true⟩),
    (.stream .s, .susp ⟨.queue 1, .reg 2, true⟩), (.stream .s, .yield ⟨32, false, true⟩), (.stream .s, .wid ⟨5, false, 7, true⟩),
    (.stream .s, .trap ⟨8192, true⟩), (.stream .s, .eretRun ⟨5, false, .reg 9, .reg 10, 0, true⟩),
    (.stream .s, .sysrd ⟨5, false, 6, true⟩), (.stream .s, .syswr ⟨.reg 1, 65, true⟩), (.stream .s, .tkgive ⟨0, true⟩),
    (.stream .s, .tkgive ⟨1, true⟩), (.stream .a, .tktake ⟨2, true⟩), (.stream .s, .tktake ⟨16, true⟩),
    (.stream .s, .loopImm ⟨3, 1, 0, true⟩), (.stream .s, .loopImm ⟨0, 0, 0, true⟩), (.stream .s, .loopImm ⟨0, 4096, 0, true⟩),
    (.stream .s, .loopImm ⟨0, 1, 256, true⟩), (.stream .s, .loopReg ⟨0, .queue 1, 0, true⟩),
    (.stream .v, .loopReg ⟨0, .latch 1, 0, true⟩), (.stream .s, .dpair ⟨1024, 0⟩), (.stream .a, .add ⟨1, false, .reg 1, .reg 2, true⟩),
    (.stream .a, .tdmake ⟨16, .reg 4, 0, true⟩), (.stream .a, .tdinfo ⟨5, false, 16, .reg 1, true⟩),
    (.stream .a, .tld ⟨2, 3, 7, false, false, true⟩), (.stream .a, .vld ⟨32, 3, 6, true⟩), (.stream .a, .qunbind ⟨16, true⟩),
    (.stream .a, .qbind ⟨16, 3, .reg 1, true⟩), (.stream .a, .qpos ⟨5, false, 16, true⟩), (.stream .a, .cresume ⟨8, true⟩),
    (.stream .a, .tcopy ⟨5, 16, 4, false, false, 2, true⟩), (.stream .a, .cwait ⟨.reg 1, 8, true⟩),
    (.stream .a, .cstage ⟨5, false, 0, true⟩), (.stream .a, .barwait ⟨.reg 1, .reg 2, 11, true⟩)] :
    List (Form × Instr)), x.2.wf x.1 = false := by decide

/-- V and M rows: v, m, x, t and c numbers, mask 0 with .z, marks on what is not a register, tags, block sizes, MRPT words and
nest levels (spec/06 R166, R168; spec/07 R193). -/
theorem test_wf_vector_matrix : ∀ x ∈ ([
    (.stream .v, .vadd ⟨5, false, .reg 32, .reg 1, 0, false, false, false, false, true⟩),
    (.stream .v, .vadd ⟨5, false, .queue 16, .reg 1, 0, false, false, false, false, true⟩),
    (.stream .v, .vadd ⟨5, false, .reg 1, .reg 1, 8, false, false, false, false, true⟩),
    (.stream .v, .vadd ⟨5, false, .reg 1, .reg 1, 0, true, false, false, false, true⟩),
    (.stream .v, .vadd ⟨5, false, .latch 1, .reg 1, 0, false, false, true, false, true⟩),
    (.stream .v, .vadd ⟨5, false, .reg 1, .queue 1, 0, false, false, false, true, true⟩),
    (.stream .v, .vmov ⟨5, false, .queue 1, 0, false, false, true, true⟩), (.stream .v, .viota ⟨5, false, .queue 1, false, true⟩),
    (.stream .v, .vsel ⟨5, false, .reg 1, .reg 2, 0, false, false, false, true⟩),
    (.stream .v, .vcvt ⟨5, false, .reg 1, 11, 0, false, false, false, true⟩),
    (.stream .v, .vquant ⟨5, .reg 1, 44, false, false, true⟩), (.stream .v, .vquant ⟨6, .reg 1, 45, false, false, true⟩),
    (.stream .v, .vquant ⟨6, .reg 1, 4, false, false, true⟩), (.stream .v, .vrsum ⟨5, false, .reg 1, 8, false, true⟩),
    (.stream .v, .vcompress ⟨5, false, .reg 1, .reg 8, false, false, false, true⟩),
    (.stream .v, .vslice ⟨5, false, .reg 1, .reg 8, false, false, true⟩), (.stream .v, .vsts ⟨.reg 1, .reg 8, false, true⟩),
    (.stream .v, .vfill ⟨32, false, .reg 1, true⟩), (.stream .v, .mand ⟨8, false, .reg 1, .reg 2, true⟩),
    (.stream .v, .mnot ⟨1, false, .reg 8, true⟩), (.stream .v, .vmovxToX ⟨8, false, .reg 1, true⟩),
    (.stream .m, .mshape ⟨16, .reg 1, true⟩), (.stream .m, .cshape ⟨8, .reg 1, true⟩), (.stream .m, .mzeroC ⟨8, true⟩),
    (.stream .m, .mldsSp ⟨1, 16, true⟩), (.stream .m, .mma ⟨1, .latch 0, .reg 1, false, false, true⟩),
    (.stream .m, .mnest ⟨6, .reg 1, true⟩), (.stream .m, .mgo ⟨1, 2, 3, false, false, true⟩), (.stream .m, .mrpt ⟨1, false, 9, true⟩),
    (.stream .m, .maccAdd ⟨1, 8, true⟩), (.stream .m, .mtest ⟨8, false, true⟩)] :
    List (Form × Instr)), x.2.wf x.1 = false := by decide

/-- Engine rows: banks, sources, bits, registers, formats and lengths (spec/09 R248, R264, R270, R275 to R278). -/
theorem test_wf_engine : ∀ i ∈ ([.act 4 0 false, .act 0 8 false, .pre 4, .wr 0 5, .cmp 3 0 false, .awr 5, .ttp 32 0 0 0,
    .ttp 0 0 0 256, .tand 32 false, .tcnt 8, .movi 0 2097152, .vlde 6 0, .vlde 0 2048, .mv 4 5 0, .mv 0 6 0, .mv 0 5 9, .mv 0 0 2,
    .sadd 0 8 false, .redAdd 4 0, .redSum 0 8, .accz 4, .accst 0 4, .mcast 0 5 0, .bgcopy 1 0 1 0, .sig 4 5 0, .sig 0 4 0,
    .waits 0 11 0, .idmasJmp 4096, .bnz 8 false 0, .idmasLoop 4 1 0, .idmasLoop 0 0 0, .idmasLoopReg 0 0 256, .halt 256] :
    List Instr), i.wf .engine = false := by decide

/-- An event has no encoding and is well formed for no decoder. -/
theorem test_wf_event : ∀ k ∈ ([.stream .s, .stream .a, .stream .v, .stream .m, .engine] : List Form),
    Instr.wf k .trapEntry = false := by decide

/-! ### Decoding: a word of every encoded row, written out from the field table of its chapter -/

/-- Words of the scalar rows, from the field table of each (spec/03 R66 and the tables of its chapter). -/
theorem test_decode_scalar_0 : ∀ x ∈ ([
    (.stream .s, 0x04A24A01, .add ⟨5, false, .reg 9, .reg 10, true⟩),
    (.stream .s, 0x04A24A03, .sub ⟨5, false, .reg 9, .reg 10, true⟩),
    (.stream .s, 0x04A24A05, .mul ⟨5, false, .reg 9, .reg 10, true⟩),
    (.stream .s, 0x04A24A07, .mulh ⟨5, false, .reg 9, .reg 10, true⟩),
    (.stream .s, 0x04A24A09, .div ⟨5, false, .reg 9, .reg 10, true⟩),
    (.stream .s, 0x04A24A0B, .rem ⟨5, false, .reg 9, .reg 10, true⟩),
    (.stream .s, 0x04A24A0D, .and ⟨5, false, .reg 9, .reg 10, true⟩),
    (.stream .s, 0x04A24A0F, .or ⟨5, false, .reg 9, .reg 10, true⟩),
    (.stream .s, 0x04A24A11, .xor ⟨5, false, .reg 9, .reg 10, true⟩),
    (.stream .s, 0x04A24A13, .andn ⟨5, false, .reg 9, .reg 10, true⟩),
    (.stream .s, 0x04A24A15, .shl ⟨5, false, .reg 9, .reg 10, true⟩),
    (.stream .s, 0x04A24A17, .shr ⟨5, false, .reg 9, .reg 10, true⟩),
    (.stream .s, 0x04A24A19, .shra ⟨5, false, .reg 9, .reg 10, true⟩),
    (.stream .s, 0x04A24A1B, .rot ⟨5, false, .reg 9, .reg 10, true⟩)] :
    List (Form × Nat × Instr)), accepted (decode x.1 x.2.1) = some x.2.2 := by decide

/-- Words of the scalar rows, from the field table of each (spec/03 R66 and the tables of its chapter). -/
theorem test_decode_scalar_1 : ∀ x ∈ ([
    (.stream .s, 0x04A24A1D, .min ⟨5, false, .reg 9, .reg 10, true⟩),
    (.stream .s, 0x04A24A1F, .max ⟨5, false, .reg 9, .reg 10, true⟩),
    (.stream .s, 0x04A24A21, .seteq ⟨5, false, .reg 9, .reg 10, true⟩),
    (.stream .s, 0x04A24A23, .setlt ⟨5, false, .reg 9, .reg 10, true⟩),
    (.stream .s, 0x04A24A25, .setltu ⟨5, false, .reg 9, .reg 10, true⟩),
    (.stream .s, 0x04A24027, .popc ⟨5, false, .reg 9, true⟩),
    (.stream .s, 0x04A24029, .clz ⟨5, false, .reg 9, true⟩),
    (.stream .s, 0x04A2402B, .ctz ⟨5, false, .reg 9, true⟩),
    (.stream .s, 0x04A2402D, .brev ⟨5, false, .reg 9, true⟩),
    (.stream .s, 0x08A24A01, .bext ⟨5, false, .reg 9, .reg 10, true⟩),
    (.stream .s, 0x08A24A03, .bextu ⟨5, false, .reg 9, .reg 10, true⟩),
    (.stream .s, 0x08A24A05, .bins ⟨5, false, .reg 9, .reg 10, true⟩),
    (.stream .s, 0x08A24A07, .fshl ⟨5, false, .reg 9, .reg 10, true⟩),
    (.stream .s, 0x08A24A09, .fshr ⟨5, false, .reg 9, .reg 10, true⟩)] :
    List (Form × Nat × Instr)), accepted (decode x.1 x.2.1) = some x.2.2 := by decide

/-- Words of the scalar rows, from the field table of each (spec/03 R66 and the tables of its chapter). -/
theorem test_decode_scalar_2 : ∀ x ∈ ([
    (.stream .s, 0x10A2409B, .addi ⟨5, false, .reg 9, 77, true⟩),
    (.stream .s, 0x14A2409B, .andi ⟨5, false, .reg 9, 77, true⟩),
    (.stream .s, 0x18A2409B, .ori ⟨5, false, .reg 9, 77, true⟩),
    (.stream .s, 0x1CA2409B, .xori ⟨5, false, .reg 9, 77, true⟩),
    (.stream .s, 0x20A24007, .shli ⟨5, false, .reg 9, 3, true⟩),
    (.stream .s, 0x24A24007, .shri ⟨5, false, .reg 9, 3, true⟩),
    (.stream .s, 0x28A24007, .shrai ⟨5, false, .reg 9, 3, true⟩),
    (.stream .s, 0x2CA24007, .roti ⟨5, false, .reg 9, 3, true⟩),
    (.stream .s, 0x30A2409B, .mini ⟨5, false, .reg 9, 77, true⟩),
    (.stream .s, 0x34A2409B, .maxi ⟨5, false, .reg 9, 77, true⟩),
    (.stream .s, 0x38A2409B, .seteqi ⟨5, false, .reg 9, 77, true⟩),
    (.stream .s, 0x3CA2409B, .setlti ⟨5, false, .reg 9, 77, true⟩),
    (.stream .s, 0x40A2409B, .setltui ⟨5, false, .reg 9, 77, true⟩),
    (.stream .s, 0x44A0009B, .movhi ⟨5, false, 77, true⟩)] :
    List (Form × Nat × Instr)), accepted (decode x.1 x.2.1) = some x.2.2 := by decide

/-- Words of the scalar rows, from the field table of each (spec/03 R66 and the tables of its chapter). -/
theorem test_decode_scalar_3 : ∀ x ∈ ([
    (.stream .s, 0x48B2409B, .beq ⟨.reg 11, .reg 9, 77, true⟩),
    (.stream .s, 0x4CB2409B, .bne ⟨.reg 11, .reg 9, 77, true⟩),
    (.stream .s, 0x50B2409B, .blt ⟨.reg 11, .reg 9, 77, true⟩),
    (.stream .s, 0x54B2409B, .bge ⟨.reg 11, .reg 9, 77, true⟩),
    (.stream .s, 0x58B2409B, .bltu ⟨.reg 11, .reg 9, 77, true⟩),
    (.stream .s, 0x5CB2409B, .bgeu ⟨.reg 11, .reg 9, 77, true⟩),
    (.stream .s, 0x6000009B, .jmp ⟨77, true⟩),
    (.stream .s, 0x64A0009B, .jal ⟨5, false, 77, true⟩),
    (.stream .s, 0x68A2409B, .jr ⟨5, false, .reg 9, 77, true⟩),
    (.stream .s, 0x6CA08001, .xmovXToS ⟨5, false, .reg 2, true⟩),
    (.stream .s, 0x6CA24003, .xmovSToX ⟨5, false, .reg 9, true⟩),
    (.stream .s, 0x70A2482B, .ld ⟨5, false, .reg 9, 1, 21, true⟩),
    (.stream .s, 0x74B2502B, .st ⟨.reg 11, .reg 9, 1, 21, true⟩),
    (.stream .s, 0x78A24A2B, .lda ⟨5, false, .reg 9, 2, true, 21, true⟩)] :
    List (Form × Nat × Instr)), accepted (decode x.1 x.2.1) = some x.2.2 := by decide

/-- Words of the scalar rows, from the field table of each (spec/03 R66 and the tables of its chapter). -/
theorem test_decode_scalar_4 : ∀ x ∈ ([
    (.stream .s, 0x7CB24A2B, .strel ⟨.reg 11, .reg 9, 2, true, 21, true⟩),
    (.stream .s, 0x80A24A51, .cas ⟨5, false, .reg 9, .reg 10, 2, true, true⟩),
    (.stream .s, 0x84A24A5B, .amo ⟨5, false, .reg 9, .reg 10, 2, true, 5, true⟩),
    (.stream .s, 0x88B2502B, .nadd ⟨.reg 11, .reg 9, 1, 21, true⟩),
    (.stream .s, 0x8C000801, .fence ⟨2, true⟩),
    (.stream .s, 0x90A24A05, .bind ⟨5, false, .reg 9, 10, 2, true⟩),
    (.stream .s, 0x94A24001, .unbind ⟨5, false, .reg 9, true⟩),
    (.stream .s, 0x98024A2B, .acq ⟨.reg 9, 2, true, 21, true⟩),
    (.stream .s, 0x9C024A2B, .rel ⟨.reg 9, 2, true, 21, true⟩),
    (.stream .s, 0xA0A24A01, .lpatch ⟨5, false, .reg 9, .reg 10, true⟩),
    (.stream .s, 0xA4A24001, .larm ⟨5, false, .reg 9, true⟩),
    (.stream .s, 0xA8A24001, .larmw ⟨5, false, .reg 9, true⟩),
    (.stream .s, 0xACA24A01, .eput ⟨5, false, .reg 9, .reg 10, true⟩),
    (.stream .s, 0xAC024A03, .eputW ⟨.reg 9, .reg 10, true⟩)] :
    List (Form × Nat × Instr)), accepted (decode x.1 x.2.1) = some x.2.2 := by decide

/-- Words of the scalar rows, from the field table of each (spec/03 R66 and the tables of its chapter). -/
theorem test_decode_scalar_5 : ∀ x ∈ ([
    (.stream .s, 0xB0024A01, .susp ⟨.reg 9, .reg 10, true⟩),
    (.stream .s, 0xB0024A03, .suspBar ⟨.reg 9, .reg 10, true⟩),
    (.stream .s, 0xB0000005, .suspEnd ⟨true⟩),
    (.stream .s, 0xB4A00001, .yield ⟨5, false, true⟩),
    (.stream .s, 0xB8A00301, .wid ⟨5, false, 3, true⟩),
    (.stream .s, 0xBC000001, .npbegin ⟨true⟩),
    (.stream .s, 0xC0000001, .npend ⟨true⟩),
    (.stream .s, 0xC400009B, .trap ⟨77, true⟩),
    (.stream .s, 0xC8000001, .eret ⟨true⟩),
    (.stream .s, 0xC8A24A13, .eretRun ⟨5, false, .reg 9, .reg 10, 2, true⟩),
    (.stream .s, 0xC8000005, .eretFail ⟨true⟩),
    (.stream .s, 0xCCA00007, .sysrd ⟨5, false, 3, true⟩),
    (.stream .s, 0xD0B00007, .syswr ⟨.reg 11, 3, true⟩),
    (.stream .s, 0xD400009B, .brk ⟨77, true⟩)] :
    List (Form × Nat × Instr)), accepted (decode x.1 x.2.1) = some x.2.2 := by decide

/-- Words of the scalar rows, from the field table of each (spec/03 R66 and the tables of its chapter). -/
theorem test_decode_scalar_6 : ∀ x ∈ ([
    (.stream .s, 0xD8A24A01, .wfe ⟨5, false, .reg 9, .reg 10, true⟩)] :
    List (Form × Nat × Instr)), accepted (decode x.1 x.2.1) = some x.2.2 := by decide

/-- Words of the common rows, from the field table of each (spec/03 R66 and the tables of its chapter). -/
theorem test_decode_common_0 : ∀ x ∈ ([
    (.stream .s, 0xF0200001, .tkgive ⟨2, true⟩),
    (.stream .s, 0xF1200001, .tktake ⟨2, true⟩),
    (.stream .s, 0xF5805803, .loopImm ⟨1, 11, 1, true⟩),
    (.stream .s, 0xF5040003, .loopReg ⟨1, .reg 2, 1, true⟩),
    (.stream .s, 0xFC4D0100, .dpair ⟨77, 4⟩)] :
    List (Form × Nat × Instr)), accepted (decode x.1 x.2.1) = some x.2.2 := by decide

/-- Words of the access rows, from the field table of each (spec/03 R66 and the tables of its chapter). -/
theorem test_decode_access_0 : ∀ x ∈ ([
    (.stream .a, 0x04A24A01, .aadd ⟨5, false, .reg 9, .reg 10, true⟩),
    (.stream .a, 0x04A24A03, .asub ⟨5, false, .reg 9, .reg 10, true⟩),
    (.stream .a, 0x04A24A05, .amul ⟨5, false, .reg 9, .reg 10, true⟩),
    (.stream .a, 0x04A24A07, .ashl ⟨5, false, .reg 9, .reg 10, true⟩),
    (.stream .a, 0x04A24A09, .ashr ⟨5, false, .reg 9, .reg 10, true⟩),
    (.stream .a, 0x04A24A0B, .aand ⟨5, false, .reg 9, .reg 10, true⟩),
    (.stream .a, 0x04A24A0D, .aor ⟨5, false, .reg 9, .reg 10, true⟩),
    (.stream .a, 0x04A24A0F, .amin ⟨5, false, .reg 9, .reg 10, true⟩),
    (.stream .a, 0x04A24A11, .amax ⟨5, false, .reg 9, .reg 10, true⟩),
    (.stream .a, 0x08A2409B, .aaddi ⟨5, false, .reg 9, 77, true⟩),
    (.stream .a, 0x0CA2409B, .amuli ⟨5, false, .reg 9, 77, true⟩),
    (.stream .a, 0x10A24007, .ashli ⟨5, false, .reg 9, 3, true⟩),
    (.stream .a, 0x14A24007, .ashri ⟨5, false, .reg 9, 3, true⟩),
    (.stream .a, 0x18A2409B, .aandi ⟨5, false, .reg 9, 77, true⟩)] :
    List (Form × Nat × Instr)), accepted (decode x.1 x.2.1) = some x.2.2 := by decide

/-- Words of the access rows, from the field table of each (spec/03 R66 and the tables of its chapter). -/
theorem test_decode_access_1 : ∀ x ∈ ([
    (.stream .a, 0x1CA2409B, .aori ⟨5, false, .reg 9, 77, true⟩),
    (.stream .a, 0x20A2409B, .amini ⟨5, false, .reg 9, 77, true⟩),
    (.stream .a, 0x24A2409B, .amaxi ⟨5, false, .reg 9, 77, true⟩),
    (.stream .a, 0x28B2409B, .abr ⟨.reg 11, .reg 9, 77, true⟩),
    (.stream .a, 0x2CA08001, .xmovXToA ⟨5, false, .reg 2, true⟩),
    (.stream .a, 0x2CA24003, .xmovAToX ⟨5, false, .reg 9, true⟩),
    (.stream .a, 0x30A2409B, .tdmake ⟨5, .reg 9, 77, true⟩),
    (.stream .a, 0x34A24A01, .tdinfo ⟨5, false, 9, .reg 10, true⟩),
    (.stream .a, 0x38A24A03, .tld ⟨5, 9, 10, false, true, true⟩),
    (.stream .a, 0x3CA24A0B, .tst ⟨5, 9, 10, true, false, true, true⟩),
    (.stream .a, 0x40A24A01, .vld ⟨5, 9, 10, true⟩),
    (.stream .a, 0x44A24A01, .vst ⟨5, 9, 10, true⟩),
    (.stream .a, 0x48A24A01, .qbind ⟨5, 9, .reg 10, true⟩),
    (.stream .a, 0x4CA00001, .qunbind ⟨5, true⟩)] :
    List (Form × Nat × Instr)), accepted (decode x.1 x.2.1) = some x.2.2 := by decide

/-- Words of the access rows, from the field table of each (spec/03 R66 and the tables of its chapter). -/
theorem test_decode_access_2 : ∀ x ∈ ([
    (.stream .a, 0x50A24001, .qpos ⟨5, false, 9, true⟩),
    (.stream .a, 0x54A24A3D, .tcopy ⟨5, 9, 10, true, true, 6, true⟩),
    (.stream .a, 0x54A24A6D, .tcopyTile ⟨5, 9, 10, true, 6, true⟩),
    (.stream .a, 0x5802400D, .cwait ⟨.reg 9, 6, true⟩),
    (.stream .a, 0x5C00000D, .cresume ⟨6, true⟩),
    (.stream .a, 0x5C00001D, .cresumeAbort ⟨6, true⟩),
    (.stream .a, 0x60A00007, .cstage ⟨5, false, 3, true⟩),
    (.stream .a, 0x64024A01, .barinit ⟨.reg 9, .reg 10, true⟩),
    (.stream .a, 0x68A24A05, .bararrive ⟨5, false, .reg 9, .reg 10, 2, true⟩),
    (.stream .a, 0x6C024A05, .barwait ⟨.reg 9, .reg 10, 2, true⟩),
    (.stream .a, 0x70A24A01, .crcget ⟨5, false, .reg 9, .reg 10, true⟩)] :
    List (Form × Nat × Instr)), accepted (decode x.1 x.2.1) = some x.2.2 := by decide

/-- Words of the vector rows, from the field table of each (spec/03 R66 and the tables of its chapter). -/
theorem test_decode_vector_0 : ∀ x ∈ ([
    (.stream .v, 0x04A24A7F, .vadd ⟨5, false, .reg 9, .reg 10, 3, true, true, true, true, true⟩),
    (.stream .v, 0x08A24A7F, .vsub ⟨5, false, .reg 9, .reg 10, 3, true, true, true, true, true⟩),
    (.stream .v, 0x0CA24A7F, .vmul ⟨5, false, .reg 9, .reg 10, 3, true, true, true, true, true⟩),
    (.stream .v, 0x10A24A7F, .vfma ⟨5, false, .reg 9, .reg 10, 3, true, true, true, true, true⟩),
    (.stream .v, 0x14A24A7F, .vdiv ⟨5, false, .reg 9, .reg 10, 3, true, true, true, true, true⟩),
    (.stream .v, 0x18A24A7F, .vmin ⟨5, false, .reg 9, .reg 10, 3, true, true, true, true, true⟩),
    (.stream .v, 0x1CA24A7F, .vmax ⟨5, false, .reg 9, .reg 10, 3, true, true, true, true, true⟩),
    (.stream .v, 0x20A24A7F, .vand ⟨5, false, .reg 9, .reg 10, 3, true, true, true, true, true⟩),
    (.stream .v, 0x24A24A7F, .vor ⟨5, false, .reg 9, .reg 10, 3, true, true, true, true, true⟩),
    (.stream .v, 0x28A24A7F, .vxor ⟨5, false, .reg 9, .reg 10, 3, true, true, true, true, true⟩),
    (.stream .v, 0x2CA24A7F, .vshl ⟨5, false, .reg 9, .reg 10, 3, true, true, true, true, true⟩),
    (.stream .v, 0x30A24A7F, .vshr ⟨5, false, .reg 9, .reg 10, 3, true, true, true, true, true⟩),
    (.stream .v, 0x35A24A77, .vcmp ⟨1, 5, false, .reg 9, .reg 10, 3, true, true, true, true⟩),
    (.stream .v, 0x38A24A6F, .vsel ⟨5, false, .reg 9, .reg 10, 3, true, true, true, true⟩)] :
    List (Form × Nat × Instr)), accepted (decode x.1 x.2.1) = some x.2.2 := by decide

/-- Words of the vector rows, from the field table of each (spec/03 R66 and the tables of its chapter). -/
theorem test_decode_vector_1 : ∀ x ∈ ([
    (.stream .v, 0x3CA2407D, .vmov ⟨5, false, .reg 9, 3, true, true, true, true⟩),
    (.stream .v, 0x3CA2417D, .vneg ⟨5, false, .reg 9, 3, true, true, true, true⟩),
    (.stream .v, 0x3CA2427D, .vabs ⟨5, false, .reg 9, 3, true, true, true, true⟩),
    (.stream .v, 0x3CA2437D, .vsqrt ⟨5, false, .reg 9, 3, true, true, true, true⟩),
    (.stream .v, 0x3CA2447D, .vexp2 ⟨5, false, .reg 9, 3, true, true, true, true⟩),
    (.stream .v, 0x3CA2457D, .vlog2 ⟨5, false, .reg 9, 3, true, true, true, true⟩),
    (.stream .v, 0x3CA2467D, .vrcp ⟨5, false, .reg 9, 3, true, true, true, true⟩),
    (.stream .v, 0x3CA2477D, .vrsqrt ⟨5, false, .reg 9, 3, true, true, true, true⟩),
    (.stream .v, 0x3CA2487D, .vtanh ⟨5, false, .reg 9, 3, true, true, true, true⟩),
    (.stream .v, 0x3CA2497D, .vsigm ⟨5, false, .reg 9, 3, true, true, true, true⟩),
    (.stream .v, 0x40A24A7D, .vcvt ⟨5, false, .reg 9, 10, 3, true, true, true, true⟩),
    (.stream .v, 0x44C26C0D, .vquant ⟨6, .reg 9, 44, true, true, true⟩),
    (.stream .v, 0x48A24A07, .vbcast ⟨5, false, .reg 9, .reg 10, true, true, true⟩),
    (.stream .v, 0x4CA24005, .viota ⟨5, false, .reg 9, true, true⟩)] :
    List (Form × Nat × Instr)), accepted (decode x.1 x.2.1) = some x.2.2 := by decide

/-- Words of the vector rows, from the field table of each (spec/03 R66 and the tables of its chapter). -/
theorem test_decode_vector_2 : ∀ x ∈ ([
    (.stream .v, 0x50A24065, .vrsum ⟨5, false, .reg 9, 3, true, true⟩),
    (.stream .v, 0x54A24065, .vrmax ⟨5, false, .reg 9, 3, true, true⟩),
    (.stream .v, 0x58A24065, .vrmin ⟨5, false, .reg 9, 3, true, true⟩),
    (.stream .v, 0x5CA2460F, .vcompress ⟨5, false, .reg 9, .reg 6, true, true, true, true⟩),
    (.stream .v, 0x60A2460F, .vexpand ⟨5, false, .reg 9, .reg 6, true, true, true, true⟩),
    (.stream .v, 0x64A2460D, .vslice ⟨5, false, .reg 9, .reg 6, true, true, true⟩),
    (.stream .v, 0x68A24A0F, .vcat ⟨5, false, .reg 9, .reg 10, true, true, true, true⟩),
    (.stream .v, 0x6CA2460D, .vextend ⟨5, false, .reg 9, .reg 6, true, true, true⟩),
    (.stream .v, 0x70A24005, .vcoal ⟨5, false, .reg 9, true, true⟩),
    (.stream .v, 0x74A24001, .vruns ⟨5, false, .reg 9, false, true⟩),
    (.stream .v, 0x78A24001, .vlen ⟨5, false, .reg 9, false, true⟩),
    (.stream .v, 0x7C024605, .vspill ⟨.reg 9, .reg 6, true, true⟩),
    (.stream .v, 0x80A00601, .vfill ⟨5, false, .reg 6, true⟩),
    (.stream .v, 0x84A00609, .vlds ⟨5, false, .reg 6, true, true⟩)] :
    List (Form × Nat × Instr)), accepted (decode x.1 x.2.1) = some x.2.2 := by decide

/-- Words of the vector rows, from the field table of each (spec/03 R66 and the tables of its chapter). -/
theorem test_decode_vector_3 : ∀ x ∈ ([
    (.stream .v, 0x88024605, .vsts ⟨.reg 9, .reg 6, true, true⟩),
    (.stream .v, 0x8CA2467D, .vgather ⟨5, false, .reg 9, .reg 6, 3, true, true, true, true⟩),
    (.stream .v, 0x90A24665, .vscatter ⟨5, .reg 9, .reg 6, 3, true, true⟩),
    (.stream .v, 0x94A08001, .vmovxToV ⟨5, false, .reg 2, true⟩),
    (.stream .v, 0x94A24101, .vmovxToX ⟨5, false, .reg 9, true⟩),
    (.stream .v, 0x98A0C601, .mand ⟨5, false, .reg 3, .reg 6, true⟩),
    (.stream .v, 0x98A0C603, .mor ⟨5, false, .reg 3, .reg 6, true⟩),
    (.stream .v, 0x98A0C605, .mxor ⟨5, false, .reg 3, .reg 6, true⟩),
    (.stream .v, 0x98A0C007, .mnot ⟨5, false, .reg 3, true⟩),
    (.stream .v, 0x98A0C009, .mpopc ⟨5, false, .reg 3, true⟩)] :
    List (Form × Nat × Instr)), accepted (decode x.1 x.2.1) = some x.2.2 := by decide

/-- Words of the matrix rows, from the field table of each (spec/03 R66 and the tables of its chapter). -/
theorem test_decode_matrix_0 : ∀ x ∈ ([
    (.stream .m, 0x04A0C001, .mshape ⟨5, .reg 3, true⟩),
    (.stream .m, 0x08A0C001, .cshape ⟨5, .reg 3, true⟩),
    (.stream .m, 0x0CA00001, .mzeroC ⟨5, true⟩),
    (.stream .m, 0x0CA00003, .mzeroT ⟨5, true⟩),
    (.stream .m, 0x10024001, .mlds ⟨9, true⟩),
    (.stream .m, 0x10024A03, .mldsSp ⟨9, 10, true⟩),
    (.stream .m, 0x14000001, .mswap ⟨true⟩),
    (.stream .m, 0x18A24305, .mma ⟨5, .reg 9, .reg 3, true, false, true⟩),
    (.stream .m, 0x1C60C001, .mnest ⟨3, .reg 3, true⟩),
    (.stream .m, 0x20A24405, .mgo ⟨5, 9, 4, true, false, true⟩),
    (.stream .m, 0x24000001, .mwait ⟨true⟩),
    (.stream .m, 0x28A00301, .mrpt ⟨5, false, 3, true⟩),
    (.stream .m, 0x2CA0C001, .mmode ⟨5, false, .reg 3, true⟩),
    (.stream .m, 0x31A18001, .maccCvt ⟨13, 6, true⟩)] :
    List (Form × Nat × Instr)), accepted (decode x.1 x.2.1) = some x.2.2 := by decide

/-- Words of the matrix rows, from the field table of each (spec/03 R66 and the tables of its chapter). -/
theorem test_decode_matrix_1 : ∀ x ∈ ([
    (.stream .m, 0x31A18003, .maccRelu ⟨13, 6, true⟩),
    (.stream .m, 0x30A18005, .maccAdd ⟨5, 6, true⟩),
    (.stream .m, 0x30A18307, .maccScl ⟨5, 6, .reg 3, true⟩),
    (.stream .m, 0x30A34009, .maccLd ⟨5, 13, true⟩),
    (.stream .m, 0x34A00001, .mtest ⟨5, false, true⟩)] :
    List (Form × Nat × Instr)), accepted (decode x.1 x.2.1) = some x.2.2 := by decide

/-- Words of the engine rows, from the field table of each (spec/03 R66 and the tables of its chapter). -/
theorem test_decode_engine_0 : ∀ x ∈ ([
    (.engine, 0x05D00000, .act 1 6 true),
    (.engine, 0x09000000, .pre 1),
    (.engine, 0x08800000, .preAll),
    (.engine, 0x0D000000, .ref 1),
    (.engine, 0x11000000, .rd 1),
    (.engine, 0x15400000, .wr 1 2),
    (.engine, 0x18000000, .rowend),
    (.engine, 0x1D500000, .cmp 1 2 true),
    (.engine, 0x21000000, .awr 2),
    (.engine, 0x24874258, .ttp 4 7 8 150),
    (.engine, 0x24870658, .ttpT 4 7 150),
    (.engine, 0x28900000, .tand 4 true),
    (.engine, 0x2C900000, .tor 4 true),
    (.engine, 0x30000000, .tnot)] :
    List (Form × Nat × Instr)), accepted (decode x.1 x.2.1) = some x.2.2 := by decide

/-- Words of the engine rows, from the field table of each (spec/03 R66 and the tables of its chapter). -/
theorem test_decode_engine_1 : ∀ x ∈ ([
    (.engine, 0x36800000, .tcnt 5),
    (.engine, 0x39000000, .setk 2),
    (.engine, 0x3D000000, .setm 2),
    (.engine, 0x4280004D, .movi 5 77),
    (.engine, 0x42A0004D, .moviAdd 5 77),
    (.engine, 0x42C0004D, .moviSh 5 77),
    (.engine, 0x44815000, .vlde 1 21),
    (.engine, 0x496A0000, .mv 1 3 5),
    (.engine, 0x4D900000, .sadd 1 4 true),
    (.engine, 0x50600000, .redAdd 1 2),
    (.engine, 0x51600000, .redMax 1 2),
    (.engine, 0x52220000, .redSum 2 1),
    (.engine, 0x55000000, .accz 1),
    (.engine, 0x55800000, .acczW 1)] :
    List (Form × Nat × Instr)), accepted (decode x.1 x.2.1) = some x.2.2 := by decide

/-- Words of the engine rows, from the field table of each (spec/03 R66 and the tables of its chapter). -/
theorem test_decode_engine_2 : ∀ x ∈ ([
    (.engine, 0x59400000, .accst 1 1),
    (.engine, 0x5D580000, .mcast 1 2 6),
    (.engine, 0x62290000, .bgcopy 2 1 1 1),
    (.engine, 0x66800000, .naddx 5),
    (.engine, 0x699A0000, .sig 1 9 5),
    (.engine, 0x6D9A0000, .waits 1 9 5),
    (.engine, 0x70004000, .idmasJmp 1),
    (.engine, 0x74C00400, .bnz 1 true 1),
    (.engine, 0x7B805808, .idmasLoop 3 11 1),
    (.engine, 0x7B200008, .idmasLoopReg 3 2 1),
    (.engine, 0x7C2C0000, .halt 11)] :
    List (Form × Nat × Instr)), accepted (decode x.1 x.2.1) = some x.2.2 := by decide
/-! ### One step of the instructions, on results worked by hand or printed in the spec -/

/-- Results of the S stream's register rows (spec/04 R96 to R100; the BEXT and FSHR lines are its example). -/
theorem test_scalar_register : ∀ x ∈ ([
    (.add rr, -1, 1, 0, 0), (.sub rr, 0, 1, 0, -1), (.mul rr, 0xFFFFFFFF, 0xFFFFFFFF, 0, 0xFFFFFFFE00000001), (.mulh rr, -1, 1, 0, -1),
    (.div rr, -7, 2, 0, -3), (.rem rr, -7, 2, 0, -1), (.div rr, 0x8000000000000000, -1, 0, 0x8000000000000000),
    (.rem rr, 0x8000000000000000, -1, 0, 0), (.and rr, 12, 10, 0, 8), (.or rr, 12, 10, 0, 14), (.xor rr, 12, 10, 0, 6),
    (.andn rr, 12, 10, 0, 4), (.shl rr, 1, 65, 0, 2), (.shr rr, -1, 63, 0, 1), (.shra rr, -8, 1, 0, -4),
    (.rot rr, 1, 1, 0, 0x8000000000000000), (.min rr, -1, 1, 0, -1), (.max rr, -1, 1, 0, 1), (.seteq rr, 3, 3, 0, 1),
    (.setlt rr, -1, 0, 0, 1), (.setltu rr, -1, 0, 0, 0), (.popc r1, 0xF0F, 0, 0, 8), (.clz r1, 0, 0, 0, 64), (.clz r1, 1, 0, 0, 63),
    (.ctz r1, 8, 0, 0, 3), (.brev r1, 1, 0, 0, 0x8000000000000000), (.bext rr, 0xF0A5C3, 0x0808, 0, 0xFFFFFFFFFFFFFFA5),
    (.bextu rr, 0xF0A5C3, 0x0808, 0, 0xA5), (.bins rr, 0, 0x0804, -1, 0xFFFFFFFFFFFFF00F),
    (.fshl rr, 0x8000000000000000, 1, 1, 3), (.fshr rr, 1, 4, 0xFF, 0x100000000000000F)] :
    List (Instr × Word × Word × Word × Word)), sResult x.1 x.2.1 x.2.2.1 x.2.2.2.1 = x.2.2.2.2 := by decide

/-- Results of the S stream's immediate rows (spec/04 R98, R99); 0x1FFF is −1 where the immediate is signed. -/
theorem test_scalar_immediate : ∀ x ∈ ([
    (.addi (ri 0x1FFF), 5, 4), (.andi (ri 0x1FFF), -1, 0x1FFF), (.ori (ri 0x1000), 1, 0x1001), (.xori (ri 3), 1, 2),
    (.shli (rsh 63), 1, 0x8000000000000000), (.shri (rsh 63), -1, 1), (.shrai (rsh 63), 0x8000000000000000, -1), (.roti (rsh 4), 1, 0x1000000000000000),
    (.mini (ri 0x1FFF), 5, -1), (.maxi (ri 0x1FFF), 5, 5), (.seteqi (ri 0x1FFF), -1, 1), (.setlti (ri 0x1FFF), -2, 1),
    (.setltui (ri 0x1FFF), 5, 1), (.movhi ⟨5, false, 0x40000, true⟩, 0, 0xFFFFFFFF80000000)] :
    List (Instr × Word × Word)), sResult x.1 x.2.1 0 0 = x.2.2 := by decide

/-- A context whose block lies at 0x10000: its range table at 0x20000 holds one entry, for the addresses below 2^20 at the same
striped HBM addresses with the rights R, W and X, and its trap vector is 0x4000. -/
def mapped (s : State) : State :=
  { ((s.physWrite 0 0x10010 (bytesOf 8 0x20000)).physWrite 0 0x10008 (bytesOf 8 0x4000)).physWrite 0 0x20000
      (bytesOf 32 (0xF + 0xFFFFF * 2 ^ 64)) with ctxs := [(0, { held := 0, base := 0x10000 })] }

/-- Striped HBM with the bytes of `v` at address `pa`. -/
def memAt (pa n v : Nat) : Mem := (State.reset.physWrite 0 pa (bytesOf n v)).mem

/-- The state after an instruction of stream `k` in a clause of its own, in the mapped context. -/
def run1 (k : Strm) (i : Instr) (upd : Core → Core) (mem : Mem := []) : State := after (exec i (mapped (one k upd mem)))

/-- The core after an S stream instruction with s9 = a and s10 = b, with the eight bytes of `v` at 0x3000. -/
def sMem (i : Instr) (a b : Word) (v : Nat) : State :=
  run1 .s i (fun c => { c with regs := { c.regs with s := (c.regs.s.set 9 a).set 10 b } }) (memAt 0x3000 8 v)

/-- DIV by zero traps with cause 21 at position 0 of stream S, with the S stream at TRAPVEC (spec/04 R97; spec/08 R222, R223). -/
theorem test_div_by_zero : (let c := (sMem (.div rr) 5 0 0).me
    (c.trap.super, c.trap.cause, c.trap.src, vget c.trap.pcs 0 0, c.ss.pc, c.sa.stopped, c.sreg 5)
      = (true, 21, 0x1000, 0x1000, 0x4000, true, 0)) := by decide

/-- Branches to their own address plus 4 times the signed offset (spec/04 R101, R102; the BNE word 0x4C617FF7 of spec/09 goes
back five words). -/
theorem test_branches : ∀ x ∈ ([
    (.beq (ts 4), 1, 1, 0x1010), (.beq (ts 4), 1, 2, 0x1004), (.bne (ts 0x1FFB), 1, 2, 0xFEC), (.blt (ts 4), -1, 0, 0x1010),
    (.bge (ts 4), 0, -1, 0x1010), (.bltu (ts 4), -1, 0, 0x1004), (.bgeu (ts 4), -1, 0, 0x1010), (.jmp ⟨0x7FFFF, true⟩, 0, 0, 0xFFC),
    (.jr (ri 0x1FFF), 0x2000, 0, 0x1FFC)] : List (Instr × Word × Word × Word)),
    (sMem x.1 x.2.1 x.2.2.1 0).me.ss.pc = x.2.2.2 := by decide

/-- The links of JAL and JR are the address of the next clause (spec/04 R102). -/
theorem test_links : sResult (.jal ⟨5, false, 8, true⟩) 0 0 0 = 0x1004 ∧ sResult (.jr (ri 0)) 0x2000 0 0 = 0x1004 := by decide

/-- Loads of each size from 0xFFEE_DDCC_BBAA_9988 (spec/04 R105): z 0 to 6 are i8, u8, i16, u16, i32, u32 and i64, and the
offset counts elements. -/
theorem test_loads : ∀ x ∈ ([(0, 0, 0xFFFFFFFFFFFFFF88), (1, 1, 0x99), (2, 1, 0xFFFFFFFFFFFFBBAA), (3, 2, 0xDDCC),
    (4, 0, 0xFFFFFFFFBBAA9988), (5, 1, 0xFFEEDDCC), (6, 0, 0xFFEEDDCCBBAA9988)] : List (Nat × Nat × Word)),
    (sMem (.ld ⟨5, false, .reg 9, x.1, x.2.1, true⟩) 0x3000 0 0xFFEEDDCCBBAA9988).me.sreg 5 = x.2.2 := by decide

/-- ST of two bytes with offset −1 writes the bytes below (spec/04 R106). -/
theorem test_store : phys (sMem (.st ⟨.reg 10, .reg 9, 1, 0x7FF, true⟩) 0x3004 0x12345678 0).mem 0x3000 8 = 0x56780000 := by decide

/-- CAS of a word that matches and AMO of each operation: the word after it, and the old value in s5 (spec/04 R110, R111). -/
theorem test_atomics : (∀ x ∈ ([(0, 5), (1, 4), (2, 5), (3, 2 ^ 64 - 1), (4, 2 ^ 64 - 6), (5, 2 ^ 64 - 1), (6, 5),
    (7, 2 ^ 64 - 1)] : List (Nat × Nat)), (let t := sMem (.amo ⟨5, false, .reg 9, .reg 10, 0, true, x.1, true⟩) 0x3000 5 (2 ^ 64 - 1)
      (phys t.mem 0x3000 8, t.me.sreg 5) = (x.2, -1))) ∧
    (let t := sMem (.cas ⟨5, false, .reg 9, .reg 10, 0, true, true⟩) 0x3000 7 0
     (phys t.mem 0x3000 8, t.me.sreg 5) = (7, 0)) := by decide

/-- A misaligned LD traps with ALIGN and an address beyond 56 bits with XLATE (spec/04 R104; spec/10 R292). -/
theorem test_access_faults :
    (sMem (.ld ⟨5, false, .reg 9, 6, 0, true⟩) 0x3004 0 0).me.trap.cause = 7 ∧
    (sMem (.ld ⟨5, false, .reg 9, 6, 0, true⟩) 0x100000000000000 0 0).me.trap.cause = 8 := by decide

/-- LDA, STREL, ACQ, REL and FENCE at an object, and NADD's add on its way to the engine of the bank (spec/04 R113 to R117). -/
theorem test_objects : (sMem (.lda ⟨5, false, .reg 9, 2, false, 0, true⟩) 0x3000 0 9).me.sreg 5 = 9 ∧
    phys (sMem (.strel ⟨.reg 10, .reg 9, 2, false, 1, true⟩) 0x3000 6 9).mem 0x3008 8 = 6 ∧
    (sMem (.acq ⟨.reg 9, 2, false, 0, true⟩) 0x3000 0 0).me.ss.pc = 0x1004 ∧
    (sMem (.rel ⟨.reg 9, 2, false, 0, true⟩) 0x3000 0 0).me.ss.pc = 0x1004 ∧ (sMem (.fence ⟨7, true⟩) 0 0 0).me.ss.pc = 0x1004 ∧
    ((sMem (.nadd ⟨.reg 10, .reg 9, 1, 0, true⟩) 0x3000 3 0).engines.map fun e => e.2.inbound.map fun a => a.value) = [[3]] := by decide

/-- BIND takes entry 0 and answers 0, and refuses an empty range with −3; UNBIND counts none (spec/04 R119, R120). -/
theorem test_bindings : (let b := fun (len : Word) => run1 .s (.bind ⟨5, false, .reg 9, 10, 2, true⟩) fun c => { c with regs :=
      { c.regs with s := ((c.regs.s.set 9 0x3000).set 10 0x8000).set 11 len } }
    ((b 64).me.sreg 5, ((b 64).ctx 0).binds.map (·.1), (b 0).me.sreg 5) = (0, [0], -3)) ∧
    sResult (.unbind r1) 0x3000 0 7 = 0 := by decide

/-- TRAP commits and raises SYSCALL (cause 23) with its immediate and the next clause as its restart; BRK discards (spec/08 R234). -/
theorem test_trap_brk : (let c := (sMem (.trap ⟨77, true⟩) 0 0 0).me
    (c.trap.cause, vget c.trap.info 0 0, vget c.trap.pcs 0 0) = (23, 77, 0x1004)) ∧
    (let c := (sMem (.brk ⟨5, true⟩) 0 0 0).me
     (c.trap.cause, vget c.trap.info 0 0, vget c.trap.pcs 0 0) = (22, 5, 0x1000)) := by decide

/-- ERET at supervisor level resumes each stream at the image base plus its TRAPPC; at user level it traps with PRIV (spec/08 R228). -/
theorem test_eret : (let c := core1 .s (.eret ⟨true⟩) fun c => { c with
      cont := { c.cont with base := 0x8000 }, trap := { c.trap with super := true, pcs := #v[4, 8, 12, 16] } }
    (c.trap.super, c.ss.pc, c.sa.pc, c.sv.pc, c.sm.pc) = (false, 0x8004, 0x8008, 0x800C, 0x8010)) ∧
    (sMem (.eret ⟨true⟩) 0 0 0).me.trap.cause = 2 := by decide

/-- SYSWR of KSCR0 at supervisor level, RCAP held to 8,192, PRIV at user level on a supervisor register; SYSRD of RCAP (spec/08 R232). -/
theorem test_system_registers :
    (let c := core1 .s (.syswr ⟨.reg 9, 0x20, true⟩) fun c => { c with
      regs := { c.regs with s := c.regs.s.set 9 77 }, trap := { c.trap with super := true } }
     vget c.trap.kscr 0 0 = 77) ∧
    (sMem (.syswr ⟨.reg 9, 1, true⟩) 9000 0 0).me.rcap = 8192 ∧ (sMem (.syswr ⟨.reg 9, 0x20, true⟩) 0 0 0).me.trap.cause = 2 ∧
    sResult (.sysrd ⟨5, false, 1, true⟩) 0 0 0 = 8192 := by decide

/-- NPBEGIN opens a region; NPEND outside one raises ILLEGAL 7 (spec/08 R243). WID of field 0 reads the work identifier. -/
theorem test_regions : (sMem (.npbegin ⟨true⟩) 0 0 0).me.np = true ∧ vget (sMem (.npend ⟨true⟩) 0 0 0).me.trap.info 0 0 = 7 ∧
    (core1 .s (.wid ⟨5, false, 0, true⟩) fun c => { c with cont := { c.cont with wid := 9 } }).sreg 5 = 9 := by decide

/-- TKGIVE V from S adds a token to S→V; LOOP of count 16 over three words starts at the next clause; the DPAIR words 5 and 6 of
spec/03 R80's example fill two positions. -/
theorem test_common : vget (core1 .s (.tkgive ⟨4, true⟩) fun c => { c with ss := c.ss }).tok.count 1 0 = 0 ∧
    ((core1 .s (.loopImm ⟨0, 16, 2, true⟩) id).ss.loops = [{ n := 0, count := 16, start := 0x1004, stop := 0x1010 }]) ∧
    (core1 .s (.dpair ⟨5, 6⟩) fun c => { c with dict := [(5, 0x0410C400), (6, 0x20A80007)] }).ss.clause.slots.map (·.ins)
      = [.add ⟨0, true, .reg 3, .reg 4, false⟩, .shli ⟨5, false, .latch 0, 3, true⟩] := by decide

/-- Results of the A stream's rows (spec/05 R123, R124). -/
theorem test_access_arithmetic : ∀ x ∈ ([
    (.aadd rr, -1, 2, 1), (.asub rr, 0, 1, -1), (.amul rr, 3, 5, 15), (.ashl rr, 1, 65, 2), (.ashr rr, -1, 60, 15), (.aand rr, 12, 10, 8),
    (.aor rr, 12, 10, 14), (.amin rr, -1, 1, -1), (.amax rr, -1, 1, 1), (.aaddi (ri 0x1FFF), 5, 0, 4), (.amuli (ri 0x1FFF), 5, 0, -5),
    (.ashli (rsh 4), 1, 0, 16), (.ashri (rsh 4), 16, 0, 1), (.aandi (ri 0x1FFF), -1, 0, 0x1FFF), (.aori (ri 0x1000), 1, 0, 0x1001),
    (.amini (ri 0x1FFF), 5, 0, -1), (.amaxi (ri 0x1FFF), 5, 0, 5)] :
    List (Instr × Word × Word × Word)), aResult x.1 x.2.1 x.2.2.1 = x.2.2.2 := by decide

/-- The descriptor of spec/05's example, but with its BASE at 0x6000. -/
def image56 : BitVec 512 := BitVec.ofNat 512 0xBF800000000000000000000000000000000000000000001800000000040000000000000000000000050000060000004A0000000000006000

/-- TDMAKE installs it (spec/05 R129). -/
theorem test_tdmake :
    (run1 .a (.tdmake ⟨3, .reg 4, 0, true⟩) (fun c => c.setA 4 0x5000) (memAt 0x5000 64 image56.toNat)).me.slot 3 =
      some image56 := by decide

/-- The register TDINFO leaves, for a selector. -/
def tdinfoOf (x : Word) : Word := (run1 .a (.tdinfo ⟨5, false, 3, .reg 9, true⟩) (fun c => (c.setA 9 x).setD 3 (some image56))).me.areg 5

/-- TDINFO reads SIZE1 = 5 and STRIDE1 = 24 (spec/05 R132). -/
theorem test_tdinfo : tdinfoOf 0 = 0x6000 ∧ tdinfoOf 3 = 5 ∧ tdinfoOf 8 = 24 ∧ tdinfoOf 12 = 0xBF800000 ∧ tdinfoOf 16 = 0 := by
  decide

/-- TLD of one row of the example: at (o1, o0) = (3, 4) it starts with 34.0, at (3, 6) with the fill and a valid row, at (5, 0) with
the fill and no valid row (spec/05 R134). -/
theorem test_tile_load : ∀ x ∈ ([(0x300000004, 0x42080000, 1), (0x300000006, 0xBF800000, 1), (0x500000000, 0xBF800000, 0)] :
    List (Word × Nat × Nat)),
    (let c := (run1 .a (.tld ⟨2, 3, 6, false, false, true⟩) (fun c => ((c.setA 6 x.1).setD 3
        (some image56)).setT 2 { shape := 0x282001, valid := 0, data := [] })
        (memAt 0x6058 4 0x42080000)).me
     (tGet (c.tile 2).shape (c.tile 2).data 0 0, (c.tile 2).valid.toNat) = (x.2.1, x.2.2)) := by decide

/-- Runs of the v register an element-wise instruction leaves in v5, as (value, count). -/
def vRuns (i : Instr) (a b old m : VReg) (x : Word := 0) : List (Nat × Nat) :=
  ((vCore i a b old m x).vreg 5).runs.map fun r => (r.val, r.cnt)

/-- INT32 rows over segments, saturation included, and the old element where the mask is 0 (spec/06 R160, R170, R171, R174). -/
theorem test_vector_integer : ∀ x ∈ ([
    (.vadd vf, [(5, 2), (7, 1)], [(1, 1), (2, 2)], [(6, 1), (7, 1), (9, 1)]),
    (.vadd vf, [(0x7FFFFFFF, 1)], [(1, 1)], [(0x7FFFFFFF, 1)]), (.vsub vf, [(5, 1)], [(7, 1)], [(0xFFFFFFFE, 1)]),
    (.vmul vf, [(3, 2)], [(5, 2)], [(15, 2)]), (.vmin vf, [(0xFFFFFFFF, 1)], [(1, 1)], [(0xFFFFFFFF, 1)]),
    (.vmax vf, [(0xFFFFFFFF, 1)], [(1, 1)], [(1, 1)]), (.vand vf, [(12, 1)], [(10, 1)], [(8, 1)]), (.vor vf, [(12, 1)], [(10, 1)], [(14, 1)]),
    (.vxor vf, [(12, 1)], [(10, 1)], [(6, 1)]), (.vshl vf, [(1, 1)], [(4, 1)], [(16, 1)]),
    (.vshr vf, [(0xFFFFFFF8, 1)], [(1, 1)], [(0xFFFFFFFC, 1)]), (.vneg vun, [(1, 2)], [], [(0xFFFFFFFF, 2)]),
    (.vabs vun, [(0xFFFFFFFF, 2)], [], [(1, 2)]), (.vmov vun, [(9, 1), (9, 1)], [], [(9, 1), (9, 1)]),
    (.vcoal vone, [(9, 1), (9, 1)], [], [(9, 2)]), (.viota vone, [(9, 3)], [], [(0, 1), (1, 1), (2, 1)]),
    (.vcat ⟨5, false, .reg 9, .reg 10, false, false, false, true⟩, [(1, 1)], [(2, 1)], [(1, 1), (2, 1)]),
    (.vrsum vred, [(3, 2), (0xFFFFFFFF, 1)], [], [(5, 1)]), (.vrmax vred, [(3, 2), (0xFFFFFFFF, 1)], [], [(3, 1)]),
    (.vrmin vred, [(3, 2), (0xFFFFFFFF, 1)], [], [(0xFFFFFFFF, 1)]),
    (.vbcast ⟨5, false, .reg 9, .reg 10, false, false, true⟩, [(7, 1)], [(0, 3)], [(7, 3)])] :
    List (Instr × List (Nat × Nat) × List (Nat × Nat) × List (Nat × Nat))),
    vRuns x.1 (vr 4 x.2.1) (vr 4 x.2.2.1) {} {} = x.2.2.2 := by decide

/-- FP32 rows: 1.5 + 2 = 3.5, 1.5 × 2 = 3, 1.5 ÷ 2, 1.5 × 2 + 1, the square root of 4, −1.5 and |−1.5| (spec/06 R170, R174). -/
theorem test_vector_float : ∀ x ∈ ([
    (.vadd vf, 0x3FC00000, 0x40000000, 0x40600000), (.vsub vf, 0x3FC00000, 0x40000000, 0xBF000000),
    (.vmul vf, 0x3FC00000, 0x40000000, 0x40400000), (.vdiv vf, 0x3FC00000, 0x40000000, 0x3F400000),
    (.vfma vf, 0x3FC00000, 0x40000000, 0x40800000), (.vsqrt vun, 0x40800000, 0, 0x40000000), (.vneg vun, 0x3FC00000, 0, 0xBFC00000),
    (.vabs vun, 0xBFC00000, 0, 0x3FC00000), (.vexp2 vun, 0x40400000, 0, 0x41000000), (.vlog2 vun, 0x41000000, 0, 0x40400000),
    (.vrcp vun, 0x40800000, 0, 0x3E800000), (.vrsqrt vun, 0x40800000, 0, 0x3F000000), (.vtanh vun, 0, 0, 0),
    (.vsigm vun, 0, 0, 0x3F000000), (.vcvt ⟨5, false, .reg 9, 9, 0, false, false, false, true⟩, 0x3FC00000, 0, 0x3E00)] :
    List (Instr × Nat × Nat × Nat)), vRuns x.1 (vr 10 [(x.2.1, 1)]) (vr 10 [(x.2.2.1, 1)]) (vr 10 [(0x3F800000, 1)]) {} = [(x.2.2.2, 1)] := by decide

/-- The example of spec/06: VADD over the segments 3, 1 and 4 exceeds RCAP 2 (RUN_CAP: 3 runs for v5 against 2), .c merges it to two runs,
VCOMPRESS under a mask of zeros empties the register and sets EMPTY, and VRSUM gives 17.0 and the identity. -/
theorem test_vector_example :
    (let a := vr 10 [(0x3F800000, 3), (0x40000000, 5)]
     let b := vr 10 [(0x3F000000, 4), (0x3F000000, 4)]
     let go := fun (c : Bool) => (run1 .v (.vadd { vf with c := c }) fun x => { ((x.setV 9 a).setV 10 b) with rcap := 2 }).me
     (go false).trap.info.toList = [0, 3, 5, 2] ∧ ((go true).vreg 5).runs.map (fun r => (r.val, r.cnt)) = [(0x3FC00000, 3), (0x40200000, 5)]) ∧
    (let c := vCore (.vcompress vtwo) (vr 10 [(0x3FC00000, 3), (0x40200000, 5)]) {} {} (vr 11 [(0, 8)]) 0
     (c.vreg 5, c.sv.flags) = ({ tag := 10, runs := [] }, fEMPTY)) ∧
    vRuns (.vrsum vred) (vr 10 [(0x3FC00000, 3), (0x40200000, 5)]) {} {} {} = [(0x41880000, 1)] ∧
    vRuns (.vrsum vred) (vr 10 []) {} {} {} = [(0, 1)] := by decide

/-- Masks: VCMP.lt, VSEL, VEXPAND, the mask logic and MPOPC; a merge mask keeps old elements and .z clears them. -/
theorem test_vector_masks :
    ((vCore (.vcmp ⟨1, 5, false, .reg 9, .reg 10, 0, false, false, false, true⟩) (vr 4 [(1, 1), (5, 1)]) (vr 4 [(2, 2)]) {} {} 0).mreg 5)
      = vr 11 [(1, 1), (0, 1)] ∧
    vRuns (.vsel ⟨5, false, .reg 9, .reg 10, 3, false, false, false, true⟩) (vr 4 [(1, 2)]) (vr 4 [(2, 2)]) {} (vr 11 [(1, 1), (0, 1)])
      = [(1, 1), (2, 1)] ∧
    vRuns (.vexpand vtwo) (vr 4 [(7, 2)]) {} {} (vr 11 [(1, 1), (0, 1), (1, 1)]) = [(7, 1), (0, 1), (7, 1)] ∧
    vRuns (.vadd { vf with m := 3 }) (vr 4 [(1, 2)]) (vr 4 [(1, 2)]) (vr 4 [(9, 2)]) (vr 11 [(1, 1), (0, 1)]) = [(2, 1), (9, 1)] ∧
    vRuns (.vadd { vf with m := 3, z := true }) (vr 4 [(1, 2)]) (vr 4 [(1, 2)]) (vr 4 [(9, 2)]) (vr 11 [(1, 1), (0, 1)]) = [(2, 1), (0, 1)] ∧
    (∀ x ∈ ([(.mand ⟨5, false, .reg 3, .reg 4, true⟩, [(1, 1), (0, 3)]), (.mor ⟨5, false, .reg 3, .reg 4, true⟩, [(1, 3), (0, 1)]),
      (.mxor ⟨5, false, .reg 3, .reg 4, true⟩, [(0, 1), (1, 2), (0, 1)]), (.mnot ⟨5, false, .reg 3, true⟩, [(0, 2), (1, 2)])] :
      List (Instr × List (Nat × Nat))), (core1 .v x.1 fun c => (c.setM 3 (vr 11 [(1, 2), (0, 2)])).setM 4 (vr 11 [(1, 1), (0, 1), (1, 1), (0, 1)])).mreg 5
        = vr 11 x.2) ∧
    (core1 .v (.mpopc ⟨5, false, .reg 3, true⟩) fun c => c.setM 3 (vr 11 [(1, 2), (0, 2)])).xreg 5 = 2 := by decide

/-- Shapes and exchange: VSLICE takes LEN 2 from LO 1, VEXTEND appends a run image, VRUNS, VLEN, and VMOVX both ways (spec/06 R180 to R184). -/
theorem test_vector_shapes :
    vRuns (.vslice ⟨5, false, .reg 9, .reg 6, false, false, true⟩) (vr 4 [(1, 2), (2, 2)]) {} {} {} 0x20001 = [(1, 1), (2, 1)] ∧
    vRuns (.vextend ⟨5, false, .reg 9, .reg 6, false, false, true⟩) (vr 4 [(1, 2)]) {} {} {} 0x300000007 = [(1, 2), (7, 3)] ∧
    (vCore (.vruns ⟨5, false, .reg 9, false, true⟩) (vr 4 [(1, 2), (2, 2)]) {} {} {} 0).xreg 5 = 2 ∧
    (vCore (.vlen ⟨5, false, .reg 9, false, true⟩) (vr 4 [(1, 2), (2, 2)]) {} {} {} 0).xreg 5 = 0x40004 ∧
    vRuns (.vmovxToV ⟨5, false, .reg 6, true⟩) {} {} {} {} 0x4000300000007 = [(7, 3)] ∧
    (vCore (.vmovxToX ⟨5, false, .reg 9, true⟩) (vr 4 [(7, 3)]) {} {} {} 0).xreg 5 = 0x4000300000007 := by decide

/-- Scratch: VSTS of INT8 elements stores them in order, VLDS and VGATHER read them back, VSCATTER writes one, and VSPILL's image
begins with the length, run count and tag (spec/06 R185 to R188).  Operand words: offset 64 and the tag. -/
theorem test_vector_scratch :
    (let x : Word := word (64 + 4 * 2 ^ 24 + 2 * 2 ^ 40)
     let t := after (exec (.vsts ⟨.reg 9, .reg 6, false, true⟩) (one .v fun c => (c.setV 9 (vr 2 [(7, 2), (9, 2)])).setX 6 (x &&& ~~~(0xFFFF000000 : Word))))
     let at_ := fun (n : Nat) => Mem.bytes t.mem (scratchKey 0 64) n
     at_ 4 = [7, 7, 9, 9]) := by decide

/-- MSHAPE of a 4 by 16-byte FP32 tile makes four valid rows, CSHAPE a 1 by 1 accumulator of zero, and MSHAPE with more than 256
rows raises FORMAT 5 (spec/07 R196, R197). -/
theorem test_matrix_shapes :
    (let c := core1 .m (.mshape ⟨2, .reg 1, true⟩) fun c => c.setX 1 0x282004
     ((c.tile 2).valid.toNat, (c.tile 2).data) = (15, [])) ∧
    (core1 .m (.cshape ⟨1, .reg 1, true⟩) fun c => c.setX 1 0x280201).acc 1 = { tag := 10, rows := 1, cols := 1, vals := [0] } ∧
    (run1 .m (.mshape ⟨2, .reg 1, true⟩) fun c => c.setX 1 0x2821FF).me.trap.info.toList = [0, 5, 0, 0] := by decide

/-- MMA of one INT8 row (3, 5) by a stationary row (2, 4): 3 × 2 + 5 × 4 = 26 added to 100 (spec/02 R61; spec/07 R205). -/
theorem test_matrix_product :
    (let w : Word := word (1 + 2 * 512 + 2 * 2 ^ 18)
     let c := core1 .m (.mma ⟨1, .reg 2, .reg 3, false, false, true⟩) fun c =>
       let c := (c.setT 2 { shape := w, valid := 1, data := [(0, 3), (1, 5)] }).setC 1 { tag := 4, rows := 1, cols := 1, vals := [100] }
       { c with mat := { c.mat with active := { tag := 2, rows := 1, elems := 2, vals := [[2, 4]], scales := [[]] } } }
     (c.acc 1).vals = [126]) := by decide

/-- MMODE exchanges, MSWAP exchanges the planes, MACC.add adds, MTEST reports and fences (spec/07 R201, R214, R218, R219). -/
theorem test_matrix_state :
    (let c := core1 .m (.mmode ⟨5, false, .reg 1, true⟩) fun c => { c.setX 1 7 with mat := { c.mat with mode := 2 } }
     (c.xreg 5, c.mat.mode) = (2, 3)) ∧
    (core1 .m (.mswap ⟨true⟩) fun c => { c with mat := { c.mat with shadow := { tag := 2 } } }).mat.active.tag = 2 ∧
    ((core1 .m (.maccAdd ⟨1, 2, true⟩) fun c => (c.setC 1 { tag := 4, rows := 1, cols := 1, vals := [5] }).setC 2
      { tag := 4, rows := 1, cols := 1, vals := [7] }).acc 1).vals = [12] ∧
    (let c := core1 .m (.mtest ⟨5, false, true⟩) fun c => { c with mat := { c.mat with failing := 2, heat := 4 } }
     (c.xreg 5, c.mat.fenced) = (0x422, 2)) := by decide

/-- An engine with an instance on bank group 0 whose window 0 covers row 5 of bank 0 for writing. -/
def engine1 (upd : Engine → Engine) (mem : Mem := []) : State :=
  let e := upd { Engine.init with running := true, w := List.replicate 256 0, rwin := #v[word (5 + 5 * 2 ^ 16 + 2 ^ 32 + 2 ^ 36 + 2 ^ 38), 0, 0, 0] }
  { State.reset with engines := [(0, e)], mem := mem, ctxs := [(0, { held := 0, base := 0x10000 })] }

/-- The engine after a word. -/
def eng1 (i : Instr) (upd : Engine → Engine) (mem : Mem := []) : Engine := (after (exec i (engine1 upd mem))).eng

/-- The first columns of W and the tags of the bit-serial example of spec/09: the sum pass on bits 0, 4 and 8 and the carry pass. -/
theorem test_engine_columns :
    (let go := fun (i : Instr) (t : Nat) => eng1 i fun e => { e with w := [0x79, 0x35] ++ List.replicate 254 0, tags := BitVec.ofNat 256 t }
     (go (.ttp 0 4 8 0x96) 0).w.take 2 = [0x79, 0x35] ∧ (go (.ttpT 0 4 0xE8) 0).tags = 3 ∧ (go (.ttp 3 7 11 0x96) 2).w.take 2 = [0x879, 0x835]
       ∧ (go (.tand 0 false) 3).tags = 3 ∧ (go (.tcnt 5) 5).ereg 5 = 2) := by decide

/-- MOVI, MOVI.add and MOVI.sh (0x1FC then .sh 0 builds 1.0, spec/09 R260), SETK, SETM, and BNZ with .d. -/
theorem test_engine_registers :
    (eng1 (.movi 3 0x1FFFFF) id).ereg 3 = -1 ∧ (eng1 (.moviAdd 3 0x1FFFFF) fun e => e.setE 3 5).ereg 3 = 4 ∧
    (eng1 (.moviSh 6 0) fun e => e.setE 6 0x1FC).ereg 6 = 0x3F800000 ∧ (eng1 (.setk 1) fun e => e.setE 1 0x1FFFFFFFF).key = 0xFFFFFFFF ∧
    (eng1 (.setm 1) fun e => e.setE 1 7).mask = 7 ∧ (eng1 (.bnz 1 true 9) fun e => e.setE 1 2).mpc = 9 ∧
    (eng1 (.bnz 1 true 9) fun e => e.setE 1 1).mpc = 1 ∧ (eng1 (.idmasJmp 7) id).mpc = 7 ∧
    (eng1 (.idmasLoop 0 3 1) id).loops = [{ n := 0, count := 3, start := 1, stop := 3 }] := by decide

/-- ACT of row e0 = 5 opens it; a row outside the window ends the instance with status 4 (spec/09 R250, R251, R280). -/
theorem test_engine_rows :
    ((eng1 (.act 0 0 false) fun e => e.setE 0 5).bank 0).row = some 5 ∧ (eng1 (.act 0 0 false) fun e => e.setE 0 6).running = false ∧
    ((eng1 (.rd 0) fun e => e.setBank 0 { row := some 5 }).lands.map (·.at_)) = [24] ∧
    ((eng1 (.pre 0) fun e => e.setBank 0 { row := some 5 }).bank 0).row = none := by decide

/-- VLDE widens BF16 1.0 and 2.0 of W; ACCZ clears, ACCZ.w copies W and RED.add adds lane by lane (spec/09 R262, R266, R267). -/
theorem test_engine_arithmetic :
    (eng1 (.vlde 3 0) fun e => { e with w := [0x40003F80] ++ List.replicate 255 0 }).vv.take 2 = [0x3F800000, 0x40000000] ∧
    ((eng1 (.acczW 0) fun e => { e with w := [7] ++ List.replicate 255 0 }).src 1).take 1 = [7] ∧
    ((eng1 (.redAdd 0 1) fun e => (e.setSrc 1 (List.replicate 256 0x3F800000)).setSrc 2 (List.replicate 256 0x40000000)).src 1).take 1
      = [0x40400000] := by decide

/-- The two maps of spec/12's example: 0x4A3C_1D40 lies bank-local on engine 961 and striped on engine 394, row 148, column 320. -/
theorem test_maps : engineOf (dramOf true 0x4A3C1D40) = 961 ∧ engineOf (dramOf false 0x4A3C1D40) = 394 ∧
    striped 0x4A3A5740 = dramOf true 0x4A3C1D40 := by decide

/-- The header CRC of spec/14's example is 0xDF. -/
theorem test_packet_crc : crc8 [1, 0, 0, 0, 0, 0, 0] = 0xDF := by decide

/-- Conversions of spec/02's table: 5 and 7 to FP4, 490 and 496 to E4M3, with their flags. -/
theorem test_conversions : (fmtFP4.round .nearest false (fmtFP32.decode 0x40A00000)) = (6, fINX) ∧
    (fmtFP4.round .nearest false (fmtFP32.decode 0x40E00000)) = (7, fOVF ||| fINX) ∧
    (fmtE4M3.round .nearest false (fmtFP32.decode 0x43F50000)) = (0x7F, fINX) ∧
    (fmtE4M3.round .nearest false (fmtFP32.decode 0x43F80000)) = (0x7F, fOVF ||| fINX) := by decide
/-! ### Witnesses: states and operands that meet the hypotheses of each statement -/

/-- Two results of an access are the same: for the witnesses below. -/
def decExcept {ε α : Type} [DecidableEq ε] [DecidableEq α] : DecidableEq (Except ε α)
  | .ok a, .ok b => if h : a = b then isTrue (by rw [h]) else isFalse fun e => h (Except.ok.inj e)
  | .error a, .error b => if h : a = b then isTrue (by rw [h]) else isFalse fun e => h (Except.error.inj e)
  | .ok _, .error _ => isFalse fun e => nomatch e
  | .error _, .ok _ => isFalse fun e => nomatch e

/-- Core 0 is about to run stream `k` at 0x1000 in the mapped context, where the word `w` stands, and takes the next turn. -/
def ready (k : Strm) (w : Nat) : State :=
  let s := mapped (one k (fun c => c) (memAt 0x1000 4 w))
  { (s.onMe fun c => c.onStrm k fun t => { t with clause := {} }) with turns := [.stream 0 k] }

/-- An instruction of each decoder that is well formed for it; words the decoders accept; words of the majors 0x00 and 0x3E. -/
theorem witness_encoding : Instr.wf (.stream .s) (.add rr) = true ∧ Instr.wf .engine (.act 3 7 true) = true ∧
    accepted (decode (.stream .s) 0x44112344) = some (.movhi ⟨0, true, 0x91A2, false⟩) ∧ bits 0x03FFFFFF 31 26 = 0 ∧
    bits 0xFBFFFFFF 31 26 = 0x3E := by decide

/-- StepRunsClause and OneWordClause: ADDI s5, s0, 0x55 (0x10A00055) alone in its clause. -/
theorem witness_StepRunsClause :
    let s := ready .s 0x10A000AB
    let m := s.turnOf [] 0 .s
    let p := m.parse .s 4 m.st.pc {}
    s.Powered ∧ s.moving = false ∧ s.turns = [.stream 0 .s] ∧ m.me.running = true ∧ m.me.inReset = false ∧ m.st.stopped = false ∧
      m.cl.live = false ∧ (m.me.trap.super = false ∧ m.me.trap.pending = [] ∧ m.dev.ckStop = false) ∧ p.fault = none ∧
      m.loopCut p = none ∧ p.slots = [⟨0x1000, .addi ⟨5, false, .reg 0, 0x55, true⟩⟩] ∧
      (p.flat.any fun y => isSusp y.ins) = false ∧ takesOf .s p.flat = [] ∧ m.me.tok.avail [] = true ∧
      m.me.popsWait .s p.flat = false ∧ (p.flat.zipIdx.any fun y => m.stalls y.2 y.1.ins) = false ∧ m.me.trap.faults = [] ∧
      p.wait = none ∧ (m.issued p []).flawIn (.addi ⟨5, false, .reg 0, 0x55, true⟩) = none := by
  refine ⟨⟨?_, ?_⟩, ?_⟩ <;> decide

/-- The same with a suspension point, SUSP.end (0xB0000005), outside a region and outside every loop. -/
theorem witness_StepRunsClause_suspension :
    let s := ready .s 0xB0000005
    let m := s.turnOf [] 0 .s
    let p := m.parse .s 4 m.st.pc {}
    p.fault = none ∧ p.slots = [⟨0x1000, .suspEnd ⟨true⟩⟩] ∧ (p.flat.any fun y => isSusp y.ins) = true ∧ m.me.trap.super = false ∧
      m.me.np = false ∧ m.me.ss.loops = [] ∧ m.me.sa.loops = [] ∧ m.me.sv.loops = [] ∧ m.me.sm.loops = [] ∧
      (p.flat.zipIdx.any fun y => m.stalls y.2 y.1.ins) = false ∧ (m.issued p []).flawIn (.suspEnd ⟨true⟩) = none := by decide

theorem witness_OneWordClause : (ready .s 0x10A000AB).fetchWord 0x1000 = .ok 0x10A000AB ∧
    decode (.stream .s) 0x10A000AB = .ok (.addi ⟨5, false, .reg 0, 0x55, true⟩) ∧ 0x10A000AB % 2 = 1 ∧
    clauseBad .s [] (.addi ⟨5, false, .reg 0, 0x55, true⟩) = false ∧
    ∀ f, Instr.addi ⟨5, false, .reg 0, 0x55, true⟩ ≠ .dpair f := by
  let : ∀ {ε α : Type} [DecidableEq ε] [DecidableEq α], DecidableEq (Except ε α) := @decExcept
  refine ⟨by decide, by decide, by decide, by decide, fun f h => nomatch h⟩

/-- Engine 0 runs, its word at MPC 0 is TNOT, and it takes the next turn. -/
def engReady (w : Nat) : State := { engine1 fun e => { e with store := [(0, w)] } with turns := [.engine 0] }

theorem witness_StepRunsEngineWord : let s := engReady 0x30000000
    s.Powered ∧ s.moving = false ∧ s.turns = [.engine 0] ∧ (s.engine 0).running = true ∧ (s.engine 0).semBad = none ∧
      (s.engine 0).resume.overdue (s.engine 0).resume.now = false ∧ s.dev.ckStatus = 0 ∧ s.graph (s.engine 0).asid (s.engine 0).lrec = none ∧
      decode .engine (Tab.get (s.engine 0).store (s.engine 0).mpc 0) = .ok .tnot := by
  let : ∀ {ε α : Type} [DecidableEq ε] [DecidableEq α], DecidableEq (Except ε α) := @decExcept
  refine ⟨⟨?_, ?_⟩, ?_⟩ <;> decide

/-- WhatStopsTheMachine: a turn in a machine without supplies, and one after a thermal shutdown. -/
theorem witness_WhatStopsTheMachine : ({ ready .s 0 with dev := { supply := false } } : State).turns = [.stream 0 .s] ∧
    ({ ready .s 0 with dev := { halted := true } } : State).dev.supply = true ∧
    ({ engReady 0 with dev := { halted := true } } : State).turns = [.engine 0] := by decide

/-- Operands at the ends of the immediates: 8191, 4095 and 4096 of 13 bits, 63, 2^19 − 1, 2^18 − 1 and 2^18 of 19 bits. -/
theorem witness_immediates : ∀ f ∈ ([ri 8191, ri 4095, ri 4096] : List RI), f.i < 8192 ∧ (rsh 63).n < 64 ∧ (524287 : Nat) < 2 ^ 19 := by decide

/-- ScalarDivide: b = 0, the overflow, and a division of −7 by 2. -/
theorem witness_ScalarDivide :
    (let s := fun (a b : Word) => one .s fun c => (c.setS 9 a).setS 10 b
     (s 5 0).srcS rr.b = 0 ∧ (s (-7) 2).srcS rr.b ≠ 0 ∧ ((s 0x8000000000000000 (-1)).srcS rr.a).toInt = -2 ^ 63
       ∧ ((s 0x8000000000000000 (-1)).srcS rr.b).toInt = -1) := by decide

/-- BranchesAndJumps: a JR to an aligned address, to a misaligned one and to one of more than 56 bits. -/
theorem witness_BranchesAndJumps :
    (let t := fun (a : Word) => (one .s fun c => c.setS 9 a).srcS (ri 0).a + 4 * BitVec.ofInt 64 0
     (t 0x2000).toNat % 4 = 0 ∧ (t 0xFFFFFFFFFFFFFC).toNat < 2 ^ 56 ∧ (t 0x2001).toNat % 4 ≠ 0 ∧ (t 0x100000000000000).toNat % 4 = 0
       ∧ 2 ^ 56 ≤ (t 0x100000000000000).toNat) := by decide

/-- RegisterResultCommits, RedirectionCommits, OtherResultsCommit: a clause that did nothing else. -/
theorem witness_Lone : (one .s id).Lone ∧ (one .v id).Lone := by
  unfold State.Lone State.Bare
  decide

/-- RedirectionCommits: a target inside the outer of two loops. -/
theorem witness_RedirectionCommits :
    leaveLoops 0x1000 [⟨1, 2, 0x1010, 0x1020⟩, ⟨0, 2, 0x1000, 0x1030⟩] = [⟨0, 2, 0x1000, 0x1030⟩] := by decide

/-- OtherResultsCommit and RegisterResultCommits: v, m and accumulator results that fit, a stream that comes after every write of the x
register, v register or tile, a tile none of whose last writes are unseen, and a store that nothing holds up. -/
theorem witness_OtherResultsCommit :
    (∀ e ∈ ([.vreg 31 (vr 4 [(1, 2)]), .mreg 7 (vr 11 [(1, 2)]), .acc 7 { tag := 4, rows := 1, cols := 1, vals := [5] }] : List Eff),
      ((one .v id).onCl fun c => c.record { effs := [e], flags := fINX }).lateFault = none) ∧
    (one .v id).me.Settled .v 7 ∧ (one .v id).me.Settled .v 39 ∧ (one .v id).me.Settled .v 55 ∧
    (one .v id).vw.tile 15 = (one .v id).me.tile 15 ∧ (one .v id).MemOk ∧
    (∀ c ∈ ([(5, 1), (6, 2)] : List Host.Cell), (one .v id).owned c.1 = false) ∧ (one .v id).badCells 0 [(5, 1), (6, 2)] = false ∧
    (one .v id).farPort [(5, 1), (6, 2)] 0x3000 {} = none := by
  unfold State.MemOk Core.Settled
  refine ⟨?_, ?_, ?_, ?_, ?_, ?_, ?_, ?_, ?_⟩ <;> decide

/-- StoreCommits and ScalarStores: an ST of 8 bytes at 0x3000 in the mapped context. -/
theorem witness_StoreCommits :
    let s := mapped (one .s fun c => (c.setS 9 0x3000).setS 10 7)
    let f : StF := ⟨.reg 10, .reg 9, 3, 0, true⟩
    let l : Loc := { key := striped 0x3000, agent := 1 }
    s.Lone ∧ s.MemOk ∧ f.z < 4 ∧ s.access (s.srcS f.a + sext 11 f.o * word 8) 8 .write true = .ok l ∧
      ((cellsAt l.key (bytesOf 8 7)).any fun c => s.owned c.1) = false ∧ s.badCells 0 (cellsAt l.key (bytesOf 8 7)) = false ∧
      s.farPort (cellsAt l.key (bytesOf 8 7)) 0x3000 { grain := 0 } = none := by
  let : ∀ {ε α : Type} [DecidableEq ε] [DecidableEq α], DecidableEq (Except ε α) := @decExcept
  unfold State.MemOk State.Lone State.Bare
  refine ⟨?_, ?_, ?_, ?_, ?_, ?_, ?_⟩ <;> decide

/-- FaultDiscardsClause and SystemCallAndReturn: a user-level core whose context has a trap vector, and a supervisor-level one. -/
theorem witness_FaultDiscardsClause : (mapped (one .s id)).me.trap.super = false ∧
    (mapped (one .s id)).ctxWord (mapped (one .s id)).me.cont.asid 8 = 0x4000 ∧ (mapped (one .s id)).Lone ∧
    (mapped (one .s id)).st.loops = [] ∧ (mapped (one .s id)).me.overlapping = false ∧ (mapped (one .s id)).poolCause = none ∧
    (let s := one .s fun c => { c with trap := { c.trap with super := true } }
     s.me.trap.super = true ∧ s.cl.effs = [] ∧ s.cl.post = .none ∧ givesOf .s s.cl.slots = [] ∧ s.me.trap.pending = []) := by
  unfold State.Lone State.Bare
  decide

/-- ScalarLoads, ScalarStores and ScalarAtomics: the accesses of LD, LDA, STREL, NADD, CAS and AMO at 0x3000, of 1, 2, 4 and 8 bytes. -/
theorem witness_access : let s := mapped (one .s fun c => c.setS 9 0x3000)
    (∀ x ∈ ([(1, .read, false), (2, .read, false), (4, .read, false), (8, .read, true), (8, .write, true), (4, .nadd, true),
      (8, .nadd, true), (4, .atomic, true), (8, .atomic, true)] : List (Nat × Kind × Bool)),
      s.access 0x3000 x.1 x.2.1 x.2.2 = .ok { key := striped 0x3000, agent := 1 }) ∧ s.hist = [] := by
  let : ∀ {ε α : Type} [DecidableEq ε] [DecidableEq α], DecidableEq (Except ε α) := @decExcept
  decide

/-- AcquireDropsLines: an acquire of every line by core 0. -/
theorem witness_AcquireDropsLines : (({ one .s id with srb := [(16, []), (17, [])] } : State).acquire true 0).srb = [(17, [])] := by decide

/-- Bindings: a bad range, an overlap, a free entry 0, a full table, and a misaligned object. -/
theorem witness_Bindings :
    (let s := fun (a base len : Word) (binds : Tab (BitVec 256)) =>
       ({ one .s fun c => ((c.setS 9 a).setS 10 base).setS 11 len with ctxs := [(0, { held := 0, binds := binds })] } : State)
     let e := bindEntry 2 64 0x8000 0x3000
     (s 0x3001 0 0 []).srcS (.reg 9) = 0x3001 ∧ ((s 0x3000 0x8000 0 []).me.sreg 11).toNat = 0 ∧
       (((s 0x3008 0x8000 64 [(0, e)]).bindsNow.filter fun e => bindLive e.2).any fun e => bits e.2.toNat 63 0 != 0x3008
         && bits e.2.toNat 127 64 < 0x8000 + 64 && 0x8000 < bits e.2.toNat 127 64 + bits e.2.toNat 191 128) = true ∧
       ((s 0x3000 0x8000 64 [(0, e)]).bindsNow.filter fun e => bindLive e.2).map (·.1) = [0] ∧
       (∀ i ∈ List.range 64, ∃ x ∈ (s 0x3000 0x8000 64 ((List.range 64).map fun i => (i, e))).bindsNow.filter fun e => bindLive e.2,
         x.1 = i)) := by decide

/-- The mapped context with launch record 0, of one instance, at 0x40000, whose patch slot 0 names the low 16 bits of word 2. -/
def launching (upd : Core → Core) (st : LRec) : State :=
  let s := mapped (one .s upd)
  let s := ((s.physWrite 0 0x10020 (bytesOf 8 0x40000)).physWrite 0 0x10028 (bytesOf 8 1)).physWrite 0 0x40020 (bytesOf 8 9)
  let s := s.physWrite 0 0x40058 (bytesOf 8 (2 + 15 * 2 ^ 10))
  { s with ks := { s.ks with lrecs := [(0, st)] } }

/-- The launch record of `launching`. -/
def launchRec : Nat := 9 * 2 ^ 256 + (2 + 15 * 2 ^ 10) * 2 ^ 256 * 2 ^ 256 * 2 ^ 192

/-- LaunchAndEdgeInstructions: a record that is not armed, one that is, a caller at tier 3, and a patch that fits. -/
theorem witness_launch :
    (let s := launching (fun c => c.setS 10 0xFFFF) {}
     field (s.srcS (.reg 9)) 63 15 = 0 ∧ field (s.srcS (.reg 9)) 11 0 < s.lrCount ∧ s.lrNow 0 = .ok launchRec ∧ s.armedNow 0 = false ∧
       slotDeclared launchRec (2 + 15 * 2 ^ 10) = true ∧ (s.srcS (.reg 10)).toNat < 2 ^ 16 ∧ headerBad launchRec = false ∧
       s.me.cont.tier ≠ 3 ∧ s.settleAdds.armOutcome 0 = .ok (0, launchRec)) := by
  let : ∀ {ε α : Type} [DecidableEq ε] [DecidableEq α], DecidableEq (Except ε α) := @decExcept
  decide

theorem noSusp (ch : Nat) : (vget (Vector.replicate 8 ({} : Channel)) ch {}).susp = none := by
  unfold vget
  by_cases h : ch < 8 <;> simp [h]

theorem witness_launch_armed : (launching id { state := 1 }).armedNow 0 = true ∧
    (launching (fun c => { c with cont := { c.cont with tier := 3 } }) {}).settleAdds.me.cont.tier = 3 ∧
    (match (launching id {}).kWrite 0 (0x40000 + 16) (bytesOf 8 0) with | .ok _ => true | .error _ => false) = true ∧
    (∀ ch, ((launching id {}).me.chan ch).susp = none) :=
  ⟨by decide, by decide, by decide, noSusp⟩

/-- A graph of one node with a streaming edge of two slots from port 0. -/
def edgeGraph (items : List Nat) : Graph := { nodes := [0], edges := [{ entry := 2 * 2 ^ 29, items := items }] }

/-- EPUT and EPUT.w: an edge with room and a full one. -/
theorem witness_edges :
    (let s := fun (items : List Nat) => ({ one .s id with ks := { graphs := [edgeGraph items] } } : State)
     (s [1]).settleAdds.edgeRoom 0 = .ok true ∧ (s [1, 2]).settleAdds.edgeRoom 0 = .ok false ∧ (s [1]).settleAdds.inGang = false) := by
  let : ∀ {ε α : Type} [DecidableEq ε] [DecidableEq α], DecidableEq (Except ε α) := @decExcept
  decide

/-- SuspensionPoints: a readable semaphore and barrier, a waiting continuation, a gang, and neither. -/
theorem witness_SuspensionPoints :
    (let s := mapped (one .s fun c => c.setS 9 0x3000)
     (s.settleAdds.access 0x3000 8 .read true = .ok { key := striped 0x3000, agent := 1 }) ∧
       (s.settleAdds.access 0x3000 16 .read true = .ok { key := striped 0x3000, agent := 1 })) ∧
    (mapped (one .s id)).settleAdds.readyWaits = false ∧ (mapped (one .s id)).settleAdds.inGang = false ∧
    ({ mapped (one .s id) with ks := { recs := [(1, { state := 1 })] } } : State).settleAdds.readyWaits = true ∧
    (mapped (one .s fun c => { c with cont := { c.cont with ganged := true } })).settleAdds.inGang = true := by
  let : ∀ {ε α : Type} [DecidableEq ε] [DecidableEq α], DecidableEq (Except ε α) := @decExcept
  decide

theorem witness_SuspensionPoints_channels : ∀ ch, ((mapped (one .s id)).me.chan ch).susp = none := noSusp

/-- TrapInstructions: ERET.run at supervisor level with a result, with the bad counts 0 and 65, a misaligned address, recorded progress,
and a start; WID of a field of a graph. -/
theorem witness_TrapInstructions :
    (let s := fun (a b : Word) (upd : Core → Core) => one .s fun c => upd { (c.setS 9 a).setS 10 b with trap := { c.trap with super := true } }
     (s 0 0 id).me.trap.super = true ∧ (s 0 0 fun c => { c with trap := { c.trap with erun := { result := some 1 } } }).me.trap.erun.result = some 1 ∧
       (s 0 65 id).me.trap.erun.result = none ∧ (s 0 65 id).me.trap.erun.active = false ∧ 64 < ((s 0 65 id).srcS (.reg 10)).toNat ∧
       ((s 2 1 id).srcS (.reg 9)).toNat % 4 ≠ 0 ∧ 1 ≤ ((s 4 64 id).srcS (.reg 10)).toNat ∧ ((s 4 64 id).srcS (.reg 10)).toNat ≤ 64 ∧
       ((s 4 64 id).srcS (.reg 9)).toNat % 4 = 0 ∧ ((s 4 64 id).me.strm (strmOf 1)).prog.active = false ∧ strmOf 1 ≠ .s ∧
       ((s 4 64 fun c => { c with sm := { c.sm with prog := { active := true } } }).me.strm (strmOf 3)).prog.active = true) ∧
    (one .s id).me.np = false ∧ (one .s fun c => { c with np := true }).me.np = true ∧
    ({ one .s id with ks := { graphs := [{}] } } : State).graph 0 0 = some {} := by decide

/-- SystemRegisters: each class of register at user level, PART and RMODE images that break their rules and that keep them, the two
counters, and an open region of 65,535 cycles. -/
theorem witness_SystemRegisters : userRight 0 = 1 ∧ userRight 1 = 2 ∧ userRight 0x20 = 0 ∧ (one .s id).me.trap.super = false ∧
    (one .s id).me.partOk 0 = false ∧ (one .s id).me.partOk 0x182028 = true ∧ (5 : Word).toNat % 8 = 5 ∧ (4 : Word).toNat % 8 < 5 ∧
    userRight 0x34 = 2 ∧ isSysReg 5 = true ∧ isSysReg 0x40 = true ∧ (one .s fun c => { c with np := true, npCycles := 65535 }).me.npCycles ≤ 65535 := by
  decide

/-- WordsOfEveryStream: loop counts 0, 2^32 − 1 and 2^32, a used index, a body outside an active one, dictionary entries, and a WFE whose
word differs. -/
theorem witness_WordsOfEveryStream :
    (let s := fun (v : Word) (ls : List LoopSt) => one .s fun c => { c.setS 9 v with ss := { c.ss with loops := ls } }
     ((s 0 []).srcS (.reg 9)).toNat = 0 ∧ ((s 0xFFFFFFFF []).srcS (.reg 9)).toNat < 2 ^ 32 ∧ 2 ^ 32 ≤ ((s 0x100000000 []).srcS (.reg 9)).toNat ∧
       ((s 1 [⟨0, 1, 0x1000, 0x1010⟩]).st.loops.any fun l => l.n == 0) = true ∧
       ((s 1 [⟨1, 1, 0x1000, 0x1008⟩]).st.loops.any fun l => l.n == 0) = false ∧
       ((s 1 [⟨1, 1, 0x1000, 0x1008⟩]).st.loops.any fun l => (0x1004 : Word).toNat < l.start.toNat || l.stop.toNat < (0x100C : Word).toNat) = true) ∧
    accepted (decode (.stream .s) 0x0410C400) = some (.add ⟨0, true, .reg 3, .reg 4, false⟩) ∧
    (let s := mapped (one .s fun c => (c.setS 9 0x3000).setS 10 1)
     s.wfeWaits s.cl.pos (s.srcS (.reg 9)) (s.srcS (.reg 10)) = false ∧
       s.access 0x3000 8 .read true = .ok { key := striped 0x3000, agent := 1 }) := by
  let : ∀ {ε α : Type} [DecidableEq ε] [DecidableEq α], DecidableEq (Except ε α) := @decExcept
  decide

/-- An answer that is no error. -/
def isOk {ε α : Type} : Except ε α → Bool
  | .ok _ => true
  | .error _ => false

/-- The A stream with the descriptor of the example in slot 3, a pair a6 = (o1, o0), and tile 2 of one FP32 row of 16 bytes. -/
def aState (x : Word) : State := mapped (one .a fun c => ((c.setA 6 x).setD 3 (some image56)).setT 2 { shape := 0x282001 })

/-- An INT8 vector of four elements at 0x6000, stride 1, as a descriptor. -/
def image8 : BitVec 512 := BitVec.ofNat 512 (0x6000 + (0x22 + 4 * 2 ^ 32) * 2 ^ 64 + 2 ^ 24 * 2 ^ 192)

/-- DescriptorsAndTiles: an image that reads and passes its checks, elements that read and can be written, tile, vector, a binding of one
unit of four elements, and a bound register. -/
theorem witness_DescriptorsAndTiles :
    (isOk ((mapped (one .a id (memAt 0x5000 64 image56.toNat))).readDesc 0x5000) = true) ∧
    (let s := aState 0x300000004
     let n := image56.toNat
     let o : Coord := [4, 3, 0, 0, 0]
     s.me.slot 3 = some image56 ∧ s.tilePrep 2 3 6 false = .ok (n, o, 0x282001) ∧ dCrcchk n = false ∧ dBcast n = false ∧
       dNostore n = false ∧ isOk (s.readElems (s.mode .read false) n ((tilePlaces 0x282001 false).map fun p => tileCoord o false p.1 p.2)) = true ∧
       isOk (s.loadCrc (s.mode .read false) n []) = true ∧
       isOk (s.writeElems (s.mode .write true) n [] [(tileCoord o false 0 0, 7)]) = true) ∧
    (let s := mapped (one .a fun c => (c.setD 3 (some image8)).setV 1 (vr 2 [(7, 2)]))
     s.me.slotImg 3 = .ok image8.toNat ∧ s.me.origin 6 = .ok [0, 0, 0, 0, 0] ∧ vTag (dFmt image8.toNat) = true ∧ dSize image8.toNat 0 ≤ 65535 ∧
       s.readElems (s.mode .read false) image8.toNat ((upTo (dSize image8.toNat 0)).map fun j => Coord.shift [0, 0, 0, 0, 0] j 0)
         = .ok ([0, 0, 0, 0], [0, 1, 2, 3].map fun i => { key := striped (0x6000 + i), agent := 2 }) ∧
       (VReg.ofCodes 2 [0, 0, 0, 0]).n ≤ s.me.rcap ∧ (s.me.vreg 1).tag = dFmt image8.toNat ∧
       isOk (s.writeElems (s.mode .write true) image8.toNat [] [([0, 0, 0, 0, 0], 7)]) = true) ∧
    (mapped (one .a fun c => c.setQ 15 { bound := true })).me.qreg 15 ≠ {} := by
  let : ∀ {ε α : Type} [DecidableEq ε] [DecidableEq α], DecidableEq (Except ε α) := @decExcept
  decide

/-- The binding image of one unit of one row of four elements. -/
def bind8 : Nat := 0x40001000000000000000100000000000000010000000000000001000000000000000100000000000000000000000000000000

theorem witness_binding : bindingBad image8.toNat bind8 = false ∧
    isOk ((mapped (one .a (fun c => c.setA 9 0x5000) (memAt 0x5000 64 bind8))).readImage 0x5000) = true := by decide

/-- CopyInstructions: a channel that is not suspended, two descriptors of one shape, a control word, a tile of as many elements, identifiers
issued and completed, a suspended channel whose retry succeeds, and an empty schedule. -/
theorem witness_CopyInstructions :
    (let s := mapped (one .a fun c => ((c.setD 3 (some image8)).setD 4 (some image8)).setT 2 { shape := word (1 + 4 * 512 + 2 * 2 ^ 18) })
     (s.me.chan 7).susp = none ∧ (s.me.chan 7).queue.length < 16 ∧ (s.me.chan 7).next < 2 ^ 48 ∧ s.me.slotImg 3 = .ok image8.toNat ∧
       copyCheck image8.toNat (.inl image8.toNat) 2 false false = none ∧
       copyCheck image8.toNat (.inr (s.me.tile 2)) 2 false false = none ∧
       (s.srcA (.reg 0)).toNat < (s.me.chan 0).next ∧ (s.srcA (.reg 0)).toNat ≤ (s.me.chan 0).cdone ∧
       s.cl.effs = [] ∧
       (match s.schedRelease (min (s.me.copy.stg + 255) 256) s.me.copy.released [] [] (upTo s.me.copy.schedCount) with
        | .ok [] [] => true | _ => false) = true) ∧
    (let t : Transfer := { ident := 1, src := image8, dst := image8, ctl := 2 }
     isOk ((mapped (one .a fun c => c.setChan 7 { next := 2, queue := [t], susp := some {} })).retryChan 0 7) = true) := by
  let : ∀ {ε α : Type} [DecidableEq ε] [DecidableEq α], DecidableEq (Except ε α) := @decExcept
  decide

/-- BarriersAndCrc: a barrier at 0x3000 with target 2 and count 1, credits 0 and 2^48 − 1, its phase 0, and the 16 bytes of it. -/
theorem witness_BarriersAndCrc :
    (let s := mapped (one .a (fun c => (c.setA 9 0x3000).setA 10 0xFFFFFFFFFFFF) (memAt 0x3000 16 (2 + 2 ^ 64)))
     s.access (s.srcA (.reg 9)) 16 .atomic true = .ok { key := striped 0x3000, agent := 2 } ∧ (s.srcA (.reg 10)).toNat ≠ 0 ∧ (s.srcA (.reg 10)).toNat < 2 ^ 48 ∧
       bits (s.homeAfter (striped 0x3000) 16) 47 0 = 2 ∧ s.phaseAt (s.srcA (.reg 9)) = .ok (!wbit 1 0) ∧
       isOk (s.rangeLocs (s.mode .read true) 0x3000 16) = true) := by
  let : ∀ {ε α : Type} [DecidableEq ε] [DecidableEq α], DecidableEq (Except ε α) := @decExcept
  decide

/-- SegmentsCoverTheElements: three operands, of eight elements in different runs and of one. -/
theorem witness_SegmentsCoverTheElements : ∀ o ∈ ([vr 4 [(1, 3), (2, 5)], vr 4 [(7, 1)], vr 11 [(1, 4), (0, 4)]] : List VReg),
    (o.len = 8 ∨ o.len = 1) ∧ ∀ r ∈ o.runs, 1 ≤ r.cnt ∧ r.cnt ≤ 65535 := by decide

/-- The V stream with v9, v10 and v5 of tag `t`, a BIT mask m3 and x6. -/
def vState (t : Nat) (x : Word) : State := one .v fun c => { c with regs := { c.regs with
  v := ((c.regs.v.set 9 (vr t [(1, 2)])).set 10 (vr t [(2, 1), (3, 1)])).set 5 (vr t [(4, 2)])
  m := (c.regs.m.set 3 (vr 11 [(1, 1), (0, 1)])).set 4 (vr 11 [(1, 2)]), x := c.regs.x.set 6 x } }

/-- VectorBinary, VectorUnary and VectorSelections, for an integer and a wide tag: registers read as they are, with the mask and old
destination of one length. -/
theorem witness_vector_operands : ∀ t ∈ ([4, 10] : List Nat), let s := vState t 0
    s.vReads [.reg 9, .reg 10] [vr t [(1, 2)], vr t [(2, 1), (3, 1)]] {} ∧ s.vReads [.reg 9] [vr t [(1, 2)]] {} ∧
      (let x : Elt := { vs := [vr t [(1, 2)], vr t [(2, 1), (3, 1)]], old := s.me.vreg 5, reads := true, mask := 3 }
       x.tagOk s.me t = true ∧ lenRule s.cl.pos (x.ops s.me) = .ok 2 ∧ numTag t = true ∧ vTag t = true ∧
         isOk (s.kept (vr t [(1, 2)]) 3) = true ∧ (s.eltBuilt x 2 true (elAdd t)).runs.length ≤ s.me.rcap ∧ 1 ≤ s.me.rcap) := by
  let : ∀ {ε α : Type} [DecidableEq ε] [DecidableEq α], DecidableEq (Except ε α) := @decExcept
  unfold State.vReads
  decide

/-- The tags the rows accept or refuse, the codes at the ends of INT8, and different tags. -/
theorem witness_vector_tags : isIntTag 2 = true ∧ (255 : Nat) < 2 ^ tagBits 2 ∧ isWideTag 10 = true ∧ isWideTag 4 = false ∧ isIntTag 10 = false ∧
    (vr 4 []).tag ≠ (vr 10 []).tag := by decide

/-- VectorShapes: masks for VCOMPRESS and VEXPAND, LO and LEN at the end of a vector, a run image and a length at 65,535. -/
theorem witness_VectorShapes : let s := vState 4 0x20000
    (s.srcM (.reg 3)).tag = 11 ∧ (s.srcM (.reg 3)).len = (s.me.vreg 9).len ∧ (vr 4 [(1, 1)]).len = (s.srcM (.reg 3)).ones ∧
      (s.srcX (.reg 6)).toNat < 2 ^ 32 ∧ (s.srcX (.reg 6)).toNat % 2 ^ 16 + (s.srcX (.reg 6)).toNat / 2 ^ 16 ≤ (s.me.vreg 9).len ∧
      (0x4FFFD00000007 : Word) = word (7 + 65533 * 2 ^ 32 + 4 * 2 ^ 48) ∧ (s.me.vreg 9).len + 65533 ≤ 65535 ∧ (7 : Nat) < 2 ^ tagBits 4 ∧
      (s.me.vreg 9).len + (s.me.vreg 10).len ≤ 65535 ∧ (s.me.vreg 9).runs ≠ [] ∧
      (let m := vr 11 ((List.range 65).map fun i => (i % 2, 1))
       (segments [[{ val := 7, cnt := 65 }], m.over 65] (1 + m.n + 1)).length = compressStep + 1) := by decide

/-- VectorCountsAndMasks: a run image of a valid tag and masks of one length. -/
theorem witness_VectorCountsAndMasks : let s := vState 4 0
    vTag 4 = true ∧ (∀ m ∈ [s.srcM (.reg 3), s.srcM (.reg 4)], m.tag = 11) ∧
      lenRule s.cl.pos [s.srcM (.reg 3), s.srcM (.reg 4)] = .ok 2 ∧ lenRule s.cl.pos [s.srcM (.reg 3)] = .ok 2 := by
  let : ∀ {ε α : Type} [DecidableEq ε] [DecidableEq α], DecidableEq (Except ε α) := @decExcept
  decide

/-- The operand word of a scratch access: OFFSET, LEN, FMT and RS. -/
def scr (off len fmt rs : Nat) : Word := word (off + len * 2 ^ 24 + fmt * 2 ^ 40 + rs * 2 ^ 45)

/-- A run stream of two INT32 runs at offset 64 of core 0's scratch, and a spill image of the same at offset 128. -/
def scrMem : Mem := Mem.writeCells [] (cellsAt (scratchKey 0 64) (bytesOf 8 (5 + 16 * 2 ^ 24) ++ ([{ val := 7, cnt := 2 }, { val := 9, cnt := 3 }] :
  List Run).flatMap (fun r => bytesOf 8 (runWord r))) ++ cellsAt (scratchKey 0 128) (bytesOf 8 (5 + 2 * 2 ^ 16 + 4 * 2 ^ 32) ++
  ([{ val := 7, cnt := 2 }, { val := 9, cnt := 3 }] : List Run).flatMap (fun r => bytesOf 8 (runWord r))))

/-- VectorScratch: sound operand words in dense and run-stream form up to the last byte of the scratch, streams and images that read
back, and indices inside. -/
theorem witness_VectorScratch : let s := { vState 4 0 with mem := scrMem }
    (scrBad (scr 0x17FFFC 1 4 0) true true true = false ∧ s.scrOut 0x17FFFC (packedBytes 4 1) = false) ∧
    (scrBad (scr 64 0 4 1) true true true = false ∧ s.scrOut 64 24 = false ∧ s.scrBytesAt 64 8 = bytesOf 8 (5 + 8 * 2 * 2 ^ 24) ∧
      runWords 32 (s.scrBytesAt 72 16) = some [{ val := 7, cnt := 2 }, { val := 9, cnt := 3 }]) ∧
    (scrBad (scr 64 0 4 0) true false true = false ∧ scrBad (scr 64 0 4 1) true false true = false ∧ scrBad (scr 128 0 0 0) false false false = false ∧
      s.scrBytesAt 128 8 = bytesOf 8 (5 + 2 * 2 ^ 16 + 4 * 2 ^ 32) ∧
      runWords 32 (s.scrBytesAt 136 16) = some [{ val := 7, cnt := 2 }, { val := 9, cnt := 3 }]) ∧
    (scrBad (scr 64 0 4 0) false false true = false ∧ (∀ g ∈ [1, 2], ∀ reads, s.idxCheck (scr 64 0 4 0) reads g = none)) ∧
    s.scratchFlaw 0x17FFFC (packedBytes 4 1) = none ∧ s.scratchFlaw 64 8 = none ∧ s.scratchFlaw 72 16 = none ∧ s.scratchFlaw 128 8 = none ∧
    ({ s with flaws := [{ store := .scratch 64 }] } : State).scratchFlaw 64 (packedBytes 4 1) ≠ none := by decide

/-- MatrixStateInstructions: images that pass and break their checks, shaped registers, a stationary tile with its metadata, and record mode. -/
theorem witness_MatrixStateInstructions :
    tileBad 0x282004 = false ∧ tileBad 0x2821FF = true ∧ (one .m id).accSoFar.accBad 7 0x280201 = false ∧ (one .m id).accSoFar.accBad 7 0x280001 = true ∧
      ((one .m fun c => c.setC 1 { tag := 4, rows := 1, cols := 1, vals := [5] }).me.acc 1).tag ≠ 0 ∧
      tFmt ((one .m fun c => c.setT 15 { shape := 0x282004 }).me.tile 15).shape ≠ 0 ∧
      (let b : Word := word (1 + 4 * 512 + 2 * 2 ^ 18)
       mmaTag (tFmt b) = true ∧ tRows b = tRows b ∧ tElems b % 2 = 0 ∧ tElems b ≤ 4 * tRowb b) ∧
      (one .m id).xi.recMode ≠ 1 ∧ ({ one .m id with xi := { recMode := 1 } } : State).xi.recMode = 1 := by decide

/-- FoldOrderIsAPermutation: the courses 0, 1 and 3, and all four. -/
theorem witness_FoldOrderIsAPermutation : coursesOf 11 ≠ [] ∧ coursesOf 15 ≠ [] ∧ (0 : Nat) < 16 := by decide

/-- IntegerProductIsExact: two INT8 elements in the order of one block, negative codes included. -/
def intJob : MatJob := { tagA := 2, blkA := 0, sfA := 0, rows := 1, k := 2, arows := [[255, 5]], live := [true], ascales := []
                         plane := { tag := 2, rows := 1, elems := 2, vals := [[2, 128]] }, bs := false, ta := .ofInt 1, tb := .ofInt 1 }

theorem witness_IntegerProductIsExact : intJob.cls = 2 ∧ intJob.bs = false ∧ intJob.plane.sparse = false ∧ intJob.nb = 1 ∧
    (intJob.arows.getD 0 []).length = intJob.k ∧ (intJob.plane.vals.getD 0 []).length = intJob.k := by decide

/-- MatrixProducts: an INT8 MMA of one step on courses that compute right, one of two steps, and a nest of one iteration. -/
def mState (rows : Nat) : State := one .m fun c =>
  let c := (c.setT 2 { shape := word (rows + 2 * 512 + 2 * 2 ^ 18), valid := BitVec.ofNat 256 (2 ^ rows - 1), data := [(0, 3), (1, 5)] }).setC 1
    { tag := 4, rows := rows, cols := 1, vals := List.replicate rows 100 }
  { c with mat := { c.mat with active := { tag := 2, rows := 1, elems := 2, vals := [[2, 4]], scales := [[]] } } }

theorem witness_MatrixProducts :
    (let s := mState 1
     let a := opTile (s.me.tile 2).shape (s.me.tile 2).valid (s.me.tile 2).data
     let p := (s.courseStart false).1
     let j := jobOf a s.me.mat.active false 0
     s.mmaCheck a (s.me.acc 1) 0 false false = none ∧ coursesOf p.courses ≠ [] ∧
       (j.doStep (foldOrder j.nb j.q (coursesOf p.courses) false) s.me.mat.glitch p.step).2.2 = none ∧ j.steps ≤ p.step + 1 ∧
       (j.doStep [0] [{ kind := 1, delta := 1 }] 0).2.2 = some ((0, 0), 0, 1) ∧ s.prog.active = false ∧
       s.scratchFlaw 0 (tBytes (s.me.tile 2).shape) = none ∧ s.scratchFlaw 0 s.me.mat.active.bytes = none ∧
       s.mgoCheck ⟨1, 2, 2, false, false, true⟩ s.me.mat.nestShadow.toList = none ∧ nestRuns s.me.mat.nestShadow.toList = 1) ∧
    (let s := mState 65
     let a := opTile (s.me.tile 2).shape (s.me.tile 2).valid (s.me.tile 2).data
     s.mmaCheck a (s.me.acc 1) 0 false false = none ∧ (jobOf a s.me.mat.active false 0).steps = 2) ∧
    ((one .m fun c => { c with sm := { c.sm with prog := { active := true } } }).prog.active = true) := by decide

/-- AccumulatorEpilogues: accumulators and tiles of one shape, INT32 and FP32. -/
theorem witness_AccumulatorEpilogues : ∀ x ∈ ([(4, 2, 2), (10, 10, 8)] : List (Nat × Nat × Nat)),
    let w : Word := word (1 + x.2.2 * 512 + x.2.1 * 2 ^ 18)
    let c : Acc := { tag := x.1, rows := 1, cols := 2, vals := [5, 7] }
    tFmt w ≠ 0 ∧ c.tag ≠ 0 ∧ tRows w = c.rows ∧ tElems w = c.cols ∧ tBlk w = 0 ∧ isIntTag (tFmt w) = (c.tag == 4) ∧
      (c.tag = 10 → (0x3F800000 : Word).toNat < 2 ^ 32) ∧ tRows (word (2 + x.2.2 * 512 + x.2.1 * 2 ^ 18)) ≠ c.rows := by decide

/-- EngineRowCommands, EngineDatapath, EngineRowsAndControl: no row about to land, one that lands with an error, banks open and closed, the
window's row and one beside it, a word that follows, and sound operands of the other commands. -/
theorem witness_engine :
    (let s := engine1 fun e => (e.setE 0 5).setE 1 6
     s.Issues 0 ∧ s.Bounds 0 ∧ s.follows ∧ (s.eng.bank 3).row = none ∧ (s.eng.ereg 0).toNat < 2 ^ 16 ∧ s.eng.window 0 5 false false = true ∧
       s.eng.window 0 6 false false = false ∧ s.eng.window 0 5 true false = true ∧ (∀ l ∈ s.eng.lands, l.ue = none) ∧ s.eng.stalled = false ∧
       s.eng.sup = false ∧ (∀ x ∈ s.eng.loops, x.n ≠ 3) ∧ s.eng.mpc + 2 + 255 ≤ 4095 ∧ s.eng.posted = 0 ∧ s.rowUe 0 (rowLoc 0 1 6) = none) ∧
    (engine1 fun e => { e with lands := [{ at_ := 0, bank := 1, row := 2, data := [], ue := some 8 }] }).eng.badLanding 0 = some (2, 8, 1) ∧
    (engine1 fun e => { e with interval := 5, reqs := [{}] }).eng.overdue 6 = true ∧ (engine1 id).eng.overdue 6 = false ∧
    ((engine1 fun e => e.setBank 3 { row := some 5 }).eng.bank 3).row = some 5 ∧
    (engine1 fun e => { e with stalled := true, posted := 1 }).eng.stalled = true := by
  unfold State.follows State.Issues State.Bounds
  decide

theorem witness_engine_groups :
    (let s := engine1 fun e => { e with sup := true, rwin := #v[word (6 * 2 ^ 16 + 15 * 2 ^ 32 + 7 * 2 ^ 36), 0, 0, 0],
                                        sems := (e.sems.set 3 (some 0x40)) }
     s.eng.sup = true ∧ s.eng.window 0 5 true true = true ∧ s.eng.window 1 6 true false = true ∧ vget s.eng.sems 3 none = some 0x40 ∧
       (s.bounded 0).ueAt 0x40 8 = false ∧ (s.bounded 0).refuses 0 0x40 = false ∧ isHbm 0x40 = true ∧ (4095 : Nat) < 2 ^ 32 ∧
       (s.bounded 0).eng.semBad = none ∧ (s.bounded 0).eng.posted = 0) ∧
    (engine1 fun e => { e with semBad := some 3 }).eng.semBad = some 3 := by decide

/-- A state whose next event has the input `x`. -/
def given (s : State) (x : Input) : State := { s with inp := x }

/-- CoreAndEngineEvents, cores: a bound register with a unit to fetch, a transfer that moves and one whose step fails, a pending plane read, a
self-test, stalled streams, a region, the supervisor level, a pending cause, and a clause that could not be fetched. -/
theorem witness_core_events :
    (let q : QReg := { bound := true, desc := image8, bind := BitVec.ofNat 512 bind8 }
     let s := given (mapped (one .a fun c => c.setQ 15 q)) { ident := 15 }
     s.me.running = true ∧ q.popped + q.units.length < q.total ∧ (∀ y ∈ q.units, y.fault = none) ∧
       isOk (s.fetchUnit { s.who 0 with super := q.sup, agent := fetchAgent 0 15 } q 0) = true) ∧
    (let t : Transfer := { ident := 1, src := image8, dst := image8, ctl := 2 }
     let s := given (mapped (one .a fun c => c.setChan 7 { next := 2, queue := [t] })) { chan := 7, ident := 1 }
     (s.me.chan 7).behind 1 = false ∧ ((s.me.chan 7).queue.find? fun t => t.ident == 1) = some t ∧
       (match s.drive 0 7 1 (t.steps - t.prog) with | .moved _ => true | _ => false) = true) ∧
    (let t : Transfer := { ident := 1, src := image8, dst := image8, ctl := 2 }
     (match ({ one .a id with ctxs := [] } : State).copyStep 0 { t with src := image8 ||| (2 ^ 60 : BitVec 512) } with
      | .error (.cause _) => true | _ => false) = true) ∧
    (one .m fun c => { c with mat := { c.mat with pending := [(2, none)] } }).me.mat.pending = [(2, none)] ∧
    ((3 : Nat) < 4 ∧ (8 : Nat).testBit 3 = true ∧ (one .s id).me.sm.clause.live = false ∧ (one .s id).me.sm.prog.active = false) ∧
    (one .s fun c => { c with ss := { c.ss with tokenStall := true }, sa := { tokenStall := true }, sv := { tokenStall := true },
                              sm := { tokenStall := true } }).me.sv.tokenStall = true ∧
    (one .s fun c => { c with np := true }).me.trap.super = false ∧
    (one .s fun c => { c with trap := { c.trap with pending := [{ code := 16 }, { code := 13 }] } }).me.trap.pending ≠ [] ∧
    ((one .s id).onCl fun c => { c with bad := some (0, { code := 1 }) }).cl.bad = some (0, { code := 1 }) := by decide

/-- CoreAndEngineEvents, engines and pseudo-channels: an instance that waits, a stopped node, engines stalled, at a boundary, overdue and
without an instance, a flush that is reached, and pseudo-channels 0 and 511 in each state. -/
theorem witness_engine_events :
    (let g : Graph := { nodes := [1], st := [{}] }
     let x : EngInst := {}
     let s := { State.reset with ks := { graphs := [g], engQ := [x] } }
     s.eng.running = false ∧ s.ks.halted = false ∧ s.dev.dieHold.testBit 0 = false ∧ s.nextInst 0 = some x ∧ s.graph 0 0 = some g ∧
       (g.nst 0).stopped = false ∧ s.engLive 0 = true ∧ (s.ctx 0).held ≠ 0 ∧ ((mapped s).ctx 0).held = 0) ∧
    ((({ st := [{ stopped := true }] } : Graph).nst 0).stopped = true) ∧
    (let s := given (engine1 fun e => { e with stalled := true, store := [(0, encode (.waits 0 7 4))] }) { ident := 3 }
     s.eng.running = true ∧ s.eng.semBad = none ∧ s.eng.badLanding s.eng.now = none ∧ s.eng.stalled = true ∧ s.inp.ident < 4 ∧
       (match decode .engine (encode (.waits 0 7 4)) with | .ok (.waits 0 7 4) => true | _ => false) = true) ∧
    (engine1 fun e => { e with semBad := some 3 }).eng.semBad = some 3 ∧
    (let s := engine1 fun e => { e with interval := 5, now := 5, reqs := [{}] }
     s.eng.overdue s.eng.now = true ∧ s.eng.badLanding (max (max s.eng.now (s.eng.lastBound + s.eng.interval)) s.eng.quiet) = none ∧
       (engine1 fun e => { e with interval := 5, now := 5 }).eng.overdue 5 = false) ∧
    (let s := engine1 fun e => { e with interval := 5, now := 5, reqs := [{}], lands := [{ at_ := 0, bank := 1, row := 2, data := [], ue := some 8 }] }
     s.eng.overdue s.eng.now = true ∧ s.eng.badLanding (max (max s.eng.now (s.eng.lastBound + s.eng.interval)) s.eng.quiet) = some (2, 8, 1)) ∧
    (let s := engine1 fun e => { e with stalled := true, sems := e.sems.set 0 (some 0x40), store := [(0, encode (.waits 0 7 4))] }
     let r := s.onEng Engine.resume
     let u := r.bounded (r.eng.free (useE 4))
     r.eng.overdue r.eng.now = false ∧ r.eng.badLanding (max r.eng.now r.eng.quiet) = none ∧ vget r.eng.sems 0 none = some 0x40 ∧
       (loopBack (word (r.eng.mpc + 1)) r.eng.loops).1.toNat ≤ 4095 ∧ u.ueAt 0x40 8 = false ∧ u.refuses u.eng.asid 0x40 = false) ∧
    (let s := engine1 fun e => { e with atBound := true, reqs := [{}], adds := [] }
     s.eng.atBound = true ∧ s.eng.reqs ≠ [] ∧ s.eng.waits s.eng.boundAt = true) ∧
    (engine1 fun e => { e with atBound := true }).eng.atBound = true ∧
    (State.reset.eng.running = false ∧ State.reset.flushReached {} = true) ∧
    (State.reset.pcLive 511 = true ∧ State.reset.retired 7 < 4 ∧ State.reset.pcLost 511 = false ∧
      4 ≤ ({ State.reset with live := State.reset.live.set 7 (word (2 ^ 60 - 1)) } : State).retired 7) ∧
    ({ State.reset with dev := { retiring := [(511, 2 ^ 20 - 1)] } } : State).dev.retiring = [(511, 2 ^ 20 - 1)] ∧
      (0 : Nat) + max 1 0 < 2 ^ 20 := by decide

/-- KeystoneEvents: a launch pending in a closed and in an open context, one that passes and fits, an instance to create of each kind, a round,
a core that must yield, an error of a write, resets and counters, and each stage of a checkpoint. -/
theorem witness_keystone_events :
    (let p : Pending := { lrec := 0, dep0 := true, dep1 := true }
     let s := { State.reset with ks := { pend := [p] } }
     s.pendAt 0 0 = some p ∧ (s.ctx 0).held = 2) ∧
    (let g : Graph := { copy := 9 * 2 ^ 256, count := 1, nodes := [1] }
     let p : Pending := { dep0 := true, dep1 := true, passed := some g }
     let s := { mapped State.reset with ks := { pend := [p] } }
     (s.ctx 0).held = 0 ∧ s.sweep.pendAt 0 0 = some p ∧ (s.recAllows (recAdmit 0 0)) = true ∧ s.sweep.inp = s.inp ∧
       (let p1 := { p with reg := true }
        let s1 := s.sweep.registerDeps p
        s1.pendAt 0 0 = some p1 ∧ s1.inp = s.inp ∧ (s1.checkPend p1).pendAt 0 0 = some p1 ∧ (s1.checkPend p1).inp = s.inp ∧
          (s1.checkPend p1).fits g = true ∧ (∀ x ∈ (s1.checkPend p1).ks.pend, x.tier = 0 → ¬ x.order < 0))) ∧
    (let g : Graph := { copy := 9 * 2 ^ 256, count := 1, nodes := [0], st := [{}] }
     let s := { mapped State.reset with ks := { graphs := [g] } }
     s.graph 0 0 = some g ∧ g.nextWid 0 = some 0 ∧ nodeIsEngine (g.node 0) = false ∧ (g.nst 0).stopped = false ∧ s.sweep.takeRec g 0 ≠ none) ∧
    (nodeIsEngine 1 = true ∧ State.reset.ks.halted = false ∧ State.reset.recStale = false ∧ State.reset.replaying = false) ∧
    (let r : ContRec := { state := 3, wait := 1, waitAddr := 0x40000 }
     let s := { mapped State.reset with ks := { recs := [(recKey 0 7, r), (recKey 0 8, { r with heldReady := true })], mon := [semName 0 0x40000] } }
     (s.rec_ (recKey 0 7)).watches = true ∧ semName 0 0x40000 ∈ s.ks.mon ∧ semName 1 0x40000 ∉ s.ks.mon ∧
       (s.rec_ (recKey 0 8)).heldReady = true) ∧
    (let s := { one .s id with dev := { migrate := [0] } }
     s.me.running = true ∧ s.preemptCause 0 2 false = true ∧ ({ s with ks := { mayPreempt := true } } : State).ks.mayPreempt = true) ∧
    (let s := { mapped State.reset with ues := [{ source := 0 }], dev := { ready := true } }
     s.ues ≠ [] ∧ (0x1008F : Nat).testBit 16 = true ∧ (0x1008F : Nat) % 256 < 144 ∧ (s.ctx 0).held = 0 ∧ s.dev.ready = true ∧ popCount 4 12 = 2) ∧
    (let s := { State.reset with dev := { rstBusy := true, rstCore := 143, rstLater := [5] } }
     s.dev.rstBusy = true ∧ (s.core s.dev.rstCore).running = false ∧ s.dev.ckLater = false ∧ s.ckHolds = false ∧
       ({ one .s id with dev := { rstBusy := true } } : State).me.running = true) ∧
    (let s := given { State.reset with dev := { ready := true }, xi := { queues := [(0, { en := true, ctl := 2 ^ 30 })] } }
       { len := 8, value := 1 }
     s.mayCheckpoint = true ∧ s.inp.value.testBit 0 = true ∧ s.ckBusy = false ∧ s.inp.value / 2 % 4 = 0 ∧
       (s.writeCk 1).ckDescriptor 2 = none ∧
       ({ s.writeCk 1 with mem := Mem.writeCells [] (cellsAt (hostKey 0 0) (bytesOf 24 (1 + 2 ^ 40 * 2 ^ 128))) } : State).ckDescriptor 2 ≠ none) := by
  decide

theorem witness_keystone_fits : (mapped State.reset).fits { copy := 9 * 2 ^ 256, count := 1, nodes := [] } = true := by decide

/-- A launch whose graph is admitted, and the checkpoint statuses of the later stages. -/
theorem witness_checkpoint_stages :
    (∀ k ∈ ([1, 2, 6] : List Nat), ({ State.reset with dev := { ckStatus := k } } : State).dev.ckStatus = k) ∧
    ({ State.reset with dev := { ckStatus := 2, ckWords := [1] } } : State).ckWord 0 % 4 = 1 ∧
    ({ State.reset with dev := { ckStatus := 2, ckWords := [0], ckPorts := 1 } } : State).dev.ckPorts &&& (63 - 2 ^ 0) = 0 ∧
    ({ State.reset with dev := { ckStatus := 1 } } : State).dev.ckLater = false := by decide

/-- The header word of a packet of type `t` and one slot, being carried out from privileged queue 0 of context 0. -/
def carrying (t : Nat) (ws : List Nat) (s : State) : State :=
  { s with xi := { s.xi with now := (t :: ws), queues := [(0, { en := true, ctl := 2 ^ 30 })] } }

/-- QueueEvents: a queue enabled and disabled, notifies that fit and overrun the ring, a packet of each type with sound words, and each stage of an
update, a record and a link. -/
theorem witness_queue_events :
    (let s := given { State.reset with dev := { ready := true }, xi := { queues := [(4095, { en := true, ctl := 0x400 })] } } { len := 8, queue := 4095, value := 16 }
     s.ownsQueue 4095 = true ∧ s.inp.port = qOwner (s.queue 4095).ctl ∧ s.inp.fn = 0 ∧ (s.queue 4095).err = false ∧
       (16 + 2 ^ 32 - (s.queue 4095).head) % 2 ^ 32 ≤ 2 ^ qLog (s.queue 4095).ctl ∧
       2 ^ qLog (s.queue 4095).ctl < (17 + 2 ^ 32 - (s.queue 4095).head) % 2 ^ 32) ∧
    (let s := { State.reset with xi := { queues := [(3, { en := true, pend := true })], scan := 3 } }
     s.xi.now = [] ∧ s.xiQuiet = false ∧ s.xi.serving = false ∧ s.nextQueue = some 3 ∧ (s.queue 3).closing = false) ∧
    (let s := { State.reset with dev := { ready := true, asidfn := [(0, 0)] } }
     s.mayEnable { ctl := 0x400 } 0x401 = true ∧ s.mayEnable {} 1 = false ∧ s.ringRead { ctl := 0x400 } 0 8 = some 0) ∧
    (let s := { State.reset with xi := { queues := [(0, { en := true, ctl := 0x400, tail := 1 })], serving := true } }
     let nop := 1 + crc8 (bytesOf 7 1) * 2 ^ 56
     let t := { s with mem := Mem.writeCells [] (cellsAt (hostKey 0 0) (bytesOf 8 nop)) }
     (match t.seePacket 0 with | .take ws => ws.length == 8 && ws.headD 0 == nop | _ => false) = true ∧
       (match s.seePacket 0 with | .bad 4 0 => true | _ => false) = true ∧
       (match State.reset.seePacket 0 with | .stop false => true | _ => false) = true ∧ s.xi.serving = true) ∧
    (∀ t ∈ ([1, 2, 3, 4, 5, 6, 7, 8, 9] : List Nat), ((carrying t [0, 0, 0] State.reset).packet t).isSome = true) ∧
    (let s := carrying 3 [0x3000, 5, 0x71] (mapped State.reset)
     s.refusal (3 :: [0x3000, 5, 0x71]) false = 0 ∧ 7 ≤ bits 0x71 7 4 ∧ (s.ctx 0).held ≠ 2 ∧
       isOk (s.keysOf (kWho 0) 0x3000 .atomic 8) = true ∧ s.waitRead 0 [4, 0x3000, 0] = some 0 ∧ s.waitRead 0 [4, 0x3000, 1] = none) ∧
    (let s := carrying 6 [0, 0, 0] State.reset
     s.refusal [6, 0, 0, 0] false = 0 ∧ State.reset.ctxQuiet 5 = true ∧ s.refusal [7, 1, 0, 8] false = 0 ∧ s.refusal [5, 0, 0, 4096] false = 0) ∧
    (let s := { State.reset with xi := { recMode := 1, recLog := 0, recHead := 1 } }
     s.recFull = true) ∧
    (let s := { carrying 8 [0, 64, 0] State.reset with xi := { (carrying 8 [0, 64, 0] State.reset).xi with sby := 1 } }
     s.dev.idfail = false ∧ s.xi.sby ≠ 0 ∧ s.xi.sby ≠ 2 ∧ s.xi.upst < 1 ∧ s.ckHolds = false) ∧
    (physKeys 0 64).length = 64 := by decide

/-- FabricEvents: a write of each register kind, functions and ports at the ends of their numbers, a BAR2 access that reaches memory and one
that is refused, links up, flits good and bad, and a peer that a window admits. -/
theorem witness_fabric_events :
    (let s := given { State.reset with dev := { ready := true, links := [(1, { state := 2, width := 8 })] } } { port := 1, len := 8, addr := 8 }
     s.pfWrite = true ∧ s.inp.len = 8 ∧ s.inp.addr % 8 = 0 ∧ s.bar2Refused = false ∧ (Tab.get s.dev.links 1 {}).state = 2) ∧
    (given State.reset { len := 8 }).bar2Refused = true ∧ ((0x3844 : Nat) < 0x3850 ∧ (1023 : Nat) < 1024 ∧ (32 : Nat) ≤ 32 ∧ (17 : Nat) < 18) ∧
    (∀ k ∈ physKeys 8 8, State.reset.owned k = false ∧ State.reset.ueAt k 1 = false) ∧
    (({ config := [(64, (39, true, true))] } : Dev).config = [(64, (39, true, true))]) ∧
    (let v := List.replicate 248 (0 : Byte)
     (crc64 v).toNat = ofBytes (bytesOf 8 (crc64 v).toNat)) := by decide +kernel

theorem witness_peer : (let s := given { State.reset with dev := { ready := true, vinwin := [(15, 7 + 255 * 2 ^ 42 + (2 ^ 39 - 1) * 2 ^ 64)] } } { port := 17 }
    s.dev.ready = true ∧ s.inp.port < 18 ∧ s.peerAdmitted 1 = true) := by decide

/-- EthernetEvents: queue pair 1,023 of port 5 runs, has nothing or one request in flight, and accepts bytes at 0x3000 of the mapped context
under its key 0. -/
theorem witness_ethernet_events :
    (let s := given { mapped State.reset with
       dev := { ready := true, links := [(25, { state := 2, width := 8 })], ethFly := [(qpKey 5 1023, [2 + 8 * 2 ^ 32])], ethqp := [(5, 0x80000)] } }
       { port := 5, ident := 1023, addr := 0x3000, len := 2, bytes := [1, 2] }
     let s := s.physWrite 0 (s.qpAddr 5 1023) (bytesOf 8 (3 + 4 * 2 ^ 22))
     s.qpRuns 5 1023 = true ∧ s.fly 5 1023 = [2 + 8 * 2 ^ 32] ∧ s.ethOwned 0 0x3000 8 = false ∧ s.inp.value = qpRkey (s.qpEntry 5 1023) ∧
       isOk (s.kRead 0 0x3000 2) = true ∧ isOk (s.ethWrite 5 1023 0 0x3000 [1, 2]) = true ∧ (s.semAdd 5 1023 0 0x3000 1).isSome = true ∧ s.qpHeld 5 1023 = false ∧
       isOk (s.keysOf (kWho 0) 0x3000 .write 2) = true ∧ bits (s.qpEntry 5 1023) 25 22 = 4) := by decide

/-- PowerAndAttestationEvents: each phase, a copy being written, a negotiated port, and samples at each limit. -/
theorem witness_power_events : ({ supply := false } : Dev).supply = false ∧ ({ phase := 6 } : Dev).phase ≤ 6 ∧
    ({ writing := some (1, [5]) } : Flash).writing = some (1, [5]) ∧ Tab.get ({ ready := true, spdm := [(1, 3)] } : Dev).spdm 1 0 = 3 ∧
    (one .s id).me.mat.heat.testBit 3 = false ∧ (one .s id).me.mat.fenced.testBit 0 = false ∧ (115 : Nat) ≤ 115 ∧ (639 : Nat) < 640 ∧ 720 < (721 : Nat) := by
  decide

/-- SystemCallAndReturn: a clause that ends a body of an active loop. -/
theorem witness_SystemCallAndReturn_loop :
    let s := mapped (one .s fun c => { c with ss := { c.ss with loops := [⟨0, 2, 0x1000, 0x1004⟩] } })
    s.Lone ∧ s.st.loops ≠ [] ∧ s.ctxWord s.me.cont.asid 8 ≠ 0 ∧ loopBack s.cl.next s.st.loops = (0x1000, [⟨0, 1, 0x1000, 0x1004⟩]) := by
  unfold State.Lone State.Bare
  decide

/-- BarriersAndCrc: an object with TARGET 0, to which a credit of 3 adds without a change of phase (spec/05 R151). -/
theorem witness_BarriersAndCrc_target :
    (let s := mapped (one .a fun c => (c.setA 9 0x3000).setA 10 3)
     s.access (s.srcA (.reg 9)) 16 .atomic true = .ok { key := striped 0x3000, agent := 2 } ∧ bits (s.homeAfter (striped 0x3000) 16) 47 0 = 0) ∧
    bits (barCredit (2 ^ 63 + (2 ^ 48 - 1) * 2 ^ 64) 3) 111 64 = 2 ∧ bit (barCredit (2 ^ 63 + (2 ^ 48 - 1) * 2 ^ 64) 3) 63 = true := by
  let : ∀ {ε α : Type} [DecidableEq ε] [DecidableEq α], DecidableEq (Except ε α) := @decExcept
  decide

/-- CoreAndEngineEvents: a flush that another package announces, reached and not; rows under copy, in part and to the last one, and an access
to one of them. -/
theorem witness_migration :
    (let p : Add := { asid := 1, source := 256 }
     let s := { State.reset with dev := { farEnds := [(1, 0, 0)] } }
     s.flushReached p = true ∧ (s.onEngine 7 fun e => { e with inbound := [p] }).flushReached p = false) ∧
    (let s := { State.reset with dev := { retiring := [(511, 0)], copying := some (511, 0, 4) } }
     let a := rowLoc 2044 0 3
     isHbm a = true ∧ engineOf a / 4 = 511 ∧ pcRow a < 4 ∧ s.owned a = true) ∧
    (2 ^ 20 : Nat) ≤ (2 ^ 20 - 4) + 4 := by decide

/-- KeystoneEvents: a restore of an image whose header says that HBM begins at block 1, and one of an empty image, of which no block is bad. -/
theorem witness_restore :
    (let m := Mem.writeCells [] (cellsAt (hostKey 0 192) (bytesOf 16 (1 + (1 + 2 ^ 27) * 2 ^ 64)))
     let s := { State.reset with mem := m, dev := { ckStatus := 6, ckWords := [1] } }
     s.MemOk ∧ s.srcSection 0 = 1 ∧ s.srcSection 1 = 1 + 2 ^ 27 ∧ s.unbacked (striped 5) = false) ∧
    (let s := { State.reset with dev := { ckStatus := 6, ckWords := [1], refused := [(0, 5)] } }
     (s.restoreHbm s.badBlock).srcSection 5 ≤ s.badBlock ∧ (s.restoreHbm s.badBlock).srcBad 0 4096 = false) ∧
    (let s := { State.reset with dev := { ckStatus := 6, ckWords := [1], refused := [(0, 2 ^ 52)] } }
     (s.restoreHbm s.badBlock).srcBad 0 4096 = true) := by
  unfold State.MemOk
  decide

/-- EthernetEvents: a queue pair that carries a checkpoint, one with LOG2RQ 0, and a message of 4,089 bytes. -/
theorem witness_ethernet_refusals :
    ({ State.reset with dev := { ckStatus := 2, ckWords := [2 ^ 8] } } : State).qpHeld 0 0 = true ∧
    bits ((State.reset.physWrite 0 (State.reset.qpAddr 5 1023) (bytesOf 8 3)).qpEntry 5 1023) 25 22 = 0 ∧
    4088 < (List.replicate 4089 (0 : Byte)).length := by decide +kernel

/-- PowerAndAttestationEvents: a course beside which another is left to P, and one beside which none is. -/
theorem witness_courses :
    (let m := (one .s id).me.mat
     ∃ j, j < 4 ∧ j ≠ 0 ∧ m.fenced.testBit j = false ∧ m.heat.testBit j = false) ∧
    (let m := (one .s fun c => { c with mat := { c.mat with fenced := 6, heat := 8 } }).me.mat
     ¬ (m.fenced.testBit 0 = true ∨ ∃ j, j < 4 ∧ j ≠ 0 ∧ m.fenced.testBit j = false ∧ m.heat.testBit j = false)) ∧
    Tab.get ({ slowed := [(0, 2)] } : Dev).slowed 0 0 ≠ 0 ∧ recordValid [] tornCopy = false := by decide

/-- StripedMemoryReadsBack and StepKeepsMemoryCanonical: memory in its canonical form, ranges up to 2^39, and a step that answers a next state. -/
theorem witness_memory : State.reset.mem.wf = true ∧ State.reset.badCells 0 (physCells (2 ^ 39 - 8) (bytesOf 8 7)) = false ∧
    ((physCells (2 ^ 39 - 8) (bytesOf 8 7)).all fun c => !State.reset.owned c.1) = true ∧ (2 ^ 39 - 8 + 8 : Nat) ≤ 2 ^ 39 ∧
    (match step (ready .s 0x10A000AB) with | .next t => t.me.sreg 5 == 0x55 && t.mem.wf | _ => false) = true := by decide

end Sys2Proof.Tests
end

section
/-! SUPPORT. Committing a clause (spec/03 R72): which effects its commit does not check and does not hold back, the state that such
a commit answers, and what a commit leaves alone in the moving core and outside it. -/

namespace Sys2Proof.Machine

/-! ### Effects that the commit does not check, and those that nothing holds back -/

/-- The commit checks the effect: runs that must fit the pool, accumulators, PART (spec/06 R158; spec/01 R26, R34). -/
def Eff.checked : Eff → Bool
  | .vreg _ _ => true
  | .mreg _ _ => true
  | .acc _ _ => true
  | .sys 0 _ => true
  | _ => false

/-- The commit may wait for, or start over because of, something outside the core that the effect meets. -/
def Eff.leaves : Eff → Bool
  | .store _ _ _ => true
  | .nadd _ _ _ _ => true
  | .addNow _ _ _ _ => true
  | .fold _ => true
  | .edgePut _ _ => true
  | .patch _ _ _ _ _ => true
  | .arm _ _ _ => true
  | _ => false

theorem Eff.pooled_eq_none {e : Eff} (h : e.checked = false) : e.pooled = none := by
  cases e <;> simp_all [Eff.checked, Eff.pooled]

theorem mem_of_mem_effsByPos {ns : List Nat} {l es : List Eff} {e : Eff} (hes : es ∈ effsByPos ns l) (he : e ∈ es) : e ∈ l := by
  induction ns generalizing l with
  | nil => cases hes
  | cons n r ih =>
    obtain rfl | hes := List.mem_cons.mp hes
    · exact List.mem_of_mem_take he
    · exact List.mem_of_mem_drop (ih hes)

/-- A clause that writes no v or m register needs no run-pool entry at any position. -/
theorem Clause.needs_eq_zero {cl : Clause} (h : ∀ e ∈ cl.effs, e.pooled = none) : ∀ n ∈ cl.needs, n = 0 := by
  unfold Clause.needs
  refine (List.foldlRecOn (motive := fun st : Nat × List Nat => st.1 = 0 ∧ ∀ n ∈ st.2, n = 0) (effsByPos cl.lens cl.effs) _
    ⟨rfl, by simp⟩ fun st ⟨h1, h2⟩ l hl => ?_).2
  have hnone : l.filterMap Eff.pooled = [] := List.filterMap_eq_nil_iff.mpr fun e he => h e (mem_of_mem_effsByPos hl he)
  refine ⟨by simp [hnone, h1], fun n hn => ?_⟩
  obtain hn | hn := List.mem_append.mp hn
  · exact h2 n hn
  · simpa [hnone, h1] using hn

theorem State.poolCause_eq_none {s : State} (h : ∀ e ∈ s.cl.effs, e.pooled = none) : s.poolCause = none := by
  have hfind : s.me.poolFault s.cur.strm s.cl = none := by
    unfold Core.poolFault
    simp only [Option.map_eq_none_iff, List.find?_eq_none]
    intro x hx
    have := Clause.needs_eq_zero h x.1 (List.fst_mem_of_mem_zipIdx hx)
    simp [this]
  simp [State.poolCause, hfind]

theorem Core.lateBad_eq_none (c : Core) {cl : Clause} (h : ∀ e ∈ cl.effs, e.checked = false) (i : Nat) : c.lateBad cl i = none := by
  unfold Core.lateBad
  simp only [List.findSome?_eq_none_iff]
  intro e he
  have hmem : e ∈ cl.effs := by
    rw [List.getD_eq_getElem?_getD] at he
    cases hi : (effsByPos cl.lens cl.effs)[i]? with
    | none => simp [hi] at he
    | some es => exact mem_of_mem_effsByPos (List.mem_of_getElem? hi) (by simpa [hi] using he)
  have := h e hmem
  split <;> simp_all [Eff.checked]

/-- Effects that the commit does not check raise no fault there. -/
theorem State.lateFault_eq_none {s : State} (h : ∀ e ∈ s.cl.effs, e.checked = false) : s.lateFault = none := by
  have hpool : s.poolCause = none := State.poolCause_eq_none fun e he => Eff.pooled_eq_none (h e he)
  simp [State.lateFault, hpool, s.me.lateBad_eq_none h, lowerFault]

theorem Eff.keys_eq_nil {e : Eff} (h : e.leaves = false) : e.keys = [] := by
  cases e <;> simp_all [Eff.leaves, Eff.keys]

/-- Effects that stay in the core enter no near-memory add in the record. -/
theorem State.addEntries_eq_nil (s : State) {l : List Eff} (h : ∀ e ∈ l, e.leaves = false) : s.addEntries l = [] := by
  unfold State.addEntries
  extract_lets far
  have hfar : far = [] := List.filterMap_eq_nil_iff.mpr fun e he => by
    have := h e he
    split <;> simp_all [Eff.leaves]
  simp [hfar]

/-- Effects that stay in the core wait for no bank group and no record. -/
theorem State.effsOwned_eq_false (s : State) {l : List Eff} (h : ∀ e ∈ l, e.leaves = false) : s.effsOwned l = false := by
  unfold State.effsOwned
  simp only [s.addEntries_eq_nil h, List.isEmpty_nil, Bool.not_true, Bool.false_and, Bool.or_false, List.any_eq_false]
  intro e he
  have hl := h e he
  split
  · simp [Eff.leaves] at hl
  · simp [Eff.keys_eq_nil hl]

/-- A clause whose effects stay in the core starts over only where the bytes or the binding table it rests on have changed. -/
theorem State.stale_eq_false {s : State} (hb : ∀ c ∈ s.cl.basis, Mem.read s.mem c.1 = c.2) (ht : s.cl.table = none)
    (h : ∀ e ∈ s.cl.effs, e.leaves = false) : s.stale = false := by
  unfold State.stale
  simp only [ht, Option.any_none, Bool.or_false, Bool.or_eq_false_iff, List.any_eq_false]
  refine ⟨by simpa using hb, fun e he => ?_⟩
  have hl := h e he
  split <;> simp_all [Eff.leaves]

/-! ### The state that a commit answers -/

/-- The state before what follows the commit: the effects applied, the errors they renew gone, the core committed. -/
def State.committed (s : State) : State :=
  let t := (s.applyAll s.cl.effs).mend s.cl.effs
  (t.onMe fun c => c.committed t.cur.strm (givesOf s.cur.strm s.cl.slots) (t.handed t.cur.core t.cur.strm)).keep false

/-- A clause whose checks pass and which nothing holds back commits. -/
theorem State.commit_eq_committed {s : State} (hlate : s.lateFault = none)
    (hturn : s.me.overlapping = false ∨ s.me.overlap = 0 ∨ bit s.me.later s.cur.strm.idx = false)
    (howned : s.effsOwned s.cl.effs = false) (hroom : s.me.tok.room (givesOf s.cur.strm s.cl.slots) = true)
    (hstale : s.stale = false) : s.commit = s.committed.after s.cl.post (trapPos s.cl.slots) := by
  have hlater : (s.me.overlapping && s.me.overlap != 0 && bit s.me.later s.cur.strm.idx) = false := by
    obtain h | h | h := hturn <;> simp [h]
  unfold State.commit
  simp [hlate, hlater, howned, hroom, hstale, State.committed]

/-- The state in which the position that moves has been recorded. -/
def State.recorded (s : State) (r : Res) : State := (s.restOn r.rests).onCl fun c => c.record r

/-- The last position of a clause that completes ends the clause. -/
theorem State.finish_last (s : State) (r : Res) : s.finish true (.done r) = (s.recorded r).conclude := rfl

/-- A clause in which no atomic has met an uncorrectable sector ends with its commit. -/
theorem State.conclude_eq_commit {s : State} (h : s.cl.ue = none) : s.conclude = s.commit := by
  unfold State.conclude
  simp [h]

/-- A clause that fails a check of its commit other than RUN_POOL faults there. -/
theorem State.commit_eq_faultAt {s : State} {p : Nat} {c : Cause} (h : s.lateFault = some (p, c)) (hc : c.code ≠ 6) :
    s.commit = s.faultAt p c := by
  unfold State.commit
  simp [h, hc]

/-- A position that traps ends its clause, whatever its E bit. -/
theorem State.finish_trap (s : State) (e : Bool) (c : Cause) : s.finish e (.trap c) = s.finish true (.trap c) := rfl

/-! ### What recording a position leaves alone -/

theorem Core.onStrm_onStrm (c : Core) (k : Strm) (f g : StreamSt → StreamSt) :
    (c.onStrm k f).onStrm k g = c.onStrm k fun t => g (f t) := by cases k <;> rfl

@[simp] theorem Core.onStrm_past (c : Core) (k : Strm) (f : StreamSt → StreamSt) : (c.onStrm k f).past = c.past := by cases k <;> rfl
@[simp] theorem Core.onStrm_overlap (c : Core) (k : Strm) (f : StreamSt → StreamSt) : (c.onStrm k f).overlap = c.overlap := by cases k <;> rfl
@[simp] theorem Core.onStrm_later (c : Core) (k : Strm) (f : StreamSt → StreamSt) : (c.onStrm k f).later = c.later := by cases k <;> rfl
@[simp] theorem Core.onStrm_overlapping (c : Core) (k : Strm) (f : StreamSt → StreamSt) :
    (c.onStrm k f).overlapping = c.overlapping := by cases k <;> rfl

/-- Recording a position changes the clause of the moving stream alone. -/
theorem State.recorded_me (s : State) (r : Res) : (s.recorded r).me = s.me.onStrm s.cur.strm fun t =>
    { t with clause := ({ t.clause with basis := t.clause.basis ++ r.rests.map fun k => (k, Mem.read s.mem k) } : Clause).record r } := by
  simp [State.recorded, State.restOn, State.onCl, State.onSt, Core.onStrm_onStrm]

@[simp] theorem State.recorded_cur (s : State) (r : Res) : (s.recorded r).cur = s.cur := rfl
@[simp] theorem State.recorded_mem (s : State) (r : Res) : (s.recorded r).mem = s.mem := rfl

theorem State.recorded_cl (s : State) (r : Res) : (s.recorded r).cl =
    ({ s.cl with basis := s.cl.basis ++ r.rests.map fun k => (k, Mem.read s.mem k) } : Clause).record r := by
  simp [State.cl, State.st, State.recorded_me]

/-! ### A clause that did nothing else -/

/-- Once its only position is recorded, the clause holds what the position gave it. -/
theorem State.Bare.recorded_cl {s : State} (h : s.Bare) (r : Res) :
    let cl := (s.recorded r).cl
    cl.effs = r.effs ∧ cl.flags = r.flags ∧ cl.seed = r.seed ∧ cl.post = r.post ∧ cl.ue = none ∧ cl.table = none
      ∧ cl.slots = s.cl.slots ∧ cl.next = s.cl.next ∧ ∀ c ∈ cl.basis, Mem.read s.mem c.1 = c.2 := by
  obtain ⟨heffs, hflags, hseed, hpost, hue, hbasis, htable, -⟩ := h
  rw [State.recorded_cl]
  refine ⟨by simp [Clause.record, heffs], by simp [Clause.record, hflags], ?_, ?_, hue, htable, rfl, rfl, by simp [Clause.record, hbasis]⟩
  · cases hr : r.seed <;> simp [Clause.record, hr, hseed]
  · simp only [Clause.record, hpost, beq_iff_eq]
    split
    · exact Eq.symm ‹_›
    · rfl

/-- The only position of a clause, completing with effects that the commit does not check and that stay in the core, commits. -/
theorem State.finish_eq_committed {s : State} (h : s.Bare) (r : Res) (hc : ∀ e ∈ r.effs, e.checked = false)
    (hl : ∀ e ∈ r.effs, e.leaves = false) :
    s.finish true (.done r) = (s.recorded r).committed.after r.post (trapPos s.cl.slots) := by
  obtain ⟨heffs, -, -, hpost, hue, htable, hslots, -, hbasis⟩ := h.recorded_cl r
  obtain ⟨-, -, -, -, -, -, -, hgives, -, hturn⟩ := h
  rw [← heffs] at hc hl
  have hcommit : (s.recorded r).commit = (s.recorded r).committed.after r.post (trapPos s.cl.slots) := by
    rw [← hpost, ← hslots]
    refine State.commit_eq_committed (State.lateFault_eq_none hc) ?_ (State.effsOwned_eq_false _ hl) ?_
      (State.stale_eq_false hbasis htable hl)
    · simpa [State.recorded_me] using hturn
    · rw [State.recorded_cur, hslots, hgives]
      rfl
  rw [State.finish_last, State.conclude_eq_commit hue, hcommit]

/-! ### What a commit leaves alone in the core -/

/-- `d` is `c` but for its streams, its tokens and what they settle, the watch's one-shot skips and ERET.run. -/
def Core.StreamsOnly (c d : Core) : Prop :=
  d = { c with ss := d.ss, sa := d.sa, sv := d.sv, sm := d.sm, tok := d.tok, past := d.past
               trap := { c.trap with oneshot := d.trap.oneshot, erun := d.trap.erun } }

theorem Core.StreamsOnly.trans {c d e : Core} (h : c.StreamsOnly d) (h' : d.StreamsOnly e) : c.StreamsOnly e := by
  unfold Core.StreamsOnly at h h' ⊢
  rw [h']
  rw [h]

theorem Core.streamsOnly_onStrm (c : Core) (k : Strm) (f : StreamSt → StreamSt) : c.StreamsOnly (c.onStrm k f) := by
  cases k <;> rfl

theorem Core.streamsOnly_erunEnd (c : Core) (status : Nat) : c.StreamsOnly (c.erunEnd status) := by
  unfold Core.erunEnd
  dsimp only
  generalize c.trap.erun.strm = k
  cases k <;> rfl

theorem Core.streamsOnly_erunStep (c : Core) : c.StreamsOnly c.erunStep := by
  unfold Core.erunStep
  dsimp only
  split
  · refine Core.StreamsOnly.trans ?_ (Core.streamsOnly_erunEnd _ _)
    rfl
  · rfl

theorem Core.streamsOnly_foldl (c : Core) (f : StreamSt → StreamSt) (l : List Strm) :
    c.StreamsOnly (l.foldl (fun c j => c.onStrm j f) c) := by
  induction l generalizing c with
  | nil => rfl
  | cons j r ih => exact (Core.streamsOnly_onStrm c j f).trans (ih _)

theorem Core.StreamsOnly.stepIf {c d : Core} {p : Prop} [Decidable p] (h : c.StreamsOnly d) :
    c.StreamsOnly (if p then d.erunStep else d) := by
  split
  · exact h.trans (Core.streamsOnly_erunStep d)
  · exact h

/-- A commit changes the core's streams and tokens alone. -/
theorem Core.streamsOnly_committed (c : Core) (k : Strm) (gives : List Nat) (g : Sight) : c.StreamsOnly (c.committed k gives g) := by
  unfold Core.committed
  refine Core.StreamsOnly.stepIf ?_
  have h : c.StreamsOnly { c.stamp k gives with
      tok := ((c.stamp k gives).tok.drop ((c.strm k).clause.taken ++ (c.strm k).held)).give gives g } := rfl
  exact ((h.trans (Core.streamsOnly_onStrm _ _ _)).trans (Core.streamsOnly_foldl _ _ _)).trans rfl

theorem Core.StreamsOnly.regs {c d : Core} (h : c.StreamsOnly d) : d.regs = c.regs := by rw [h]

/-- Where FLAGS and RMODE of every stream stay too, so does every system register. -/
theorem Core.StreamsOnly.sameSys {c d : Core} (h : c.StreamsOnly d)
    (hk : ∀ k, (d.strm k).flags = (c.strm k).flags ∧ (d.strm k).ctl = (c.strm k).ctl ∧ (d.strm k).seed = (c.strm k).seed) :
    c.SameSys d :=
  ⟨congrArg (·.trap.super) h, congrArg (·.trap.cause) h, congrArg (·.trap.src) h, congrArg (·.trap.pcs) h,
    congrArg (·.trap.info) h, congrArg (·.trap.kscr) h, congrArg (·.trap.waddr) h, congrArg (·.trap.wctl) h, congrArg (·.part) h,
    congrArg (·.rcap) h, congrArg (·.mat) h, congrArg (·.copy) h, congrArg (·.np) h, hk⟩

/-- At user level the moving stream takes its new control state, FLAGS and RMODE.SEED and starts no clause; the others only
stop stalling for tokens (spec/03 R72, R78, R82). -/
theorem Core.committed_strm (c : Core) (k j : Strm) (gives : List Nat) (g : Sight) (h : c.trap.super = false)
    (hr : runsEret (c.strm k).clause.slots = false) :
    (c.committed k gives g).strm j = if j = k then
      { (c.strm k).control false (c.strm k).clause.post (c.strm k).clause.next with
        clause := {}, prog := {}, held := [], wake := 0, tokenStall := false
        flags := (c.strm k).flags ||| (c.strm k).clause.flags, seed := (c.strm k).clause.seed.getD (c.strm k).seed }
    else { c.strm j with tokenStall := false } := by
  cases k <;> cases j <;> simp_all [Core.committed, Core.stamp, Core.onStrm, Core.setStrm, Core.strm]

/-! ### A commit that writes registers alone -/

/-- `d` is `c` but for the register files and the writes of them that other streams may not see yet. -/
def Core.RegsOnly (c d : Core) : Prop := d = { c with regs := d.regs, past := d.past }

theorem Core.RegsOnly.strm {c d : Core} (h : c.RegsOnly d) (k : Strm) : d.strm k = c.strm k := by
  rw [h]
  cases k <;> rfl

theorem Core.RegsOnly.sameSys {c d : Core} (h : c.RegsOnly d) : c.SameSys d := by
  rw [h]
  exact ⟨rfl, rfl, rfl, rfl, rfl, rfl, rfl, rfl, rfl, rfl, rfl, rfl, rfl, fun k => by cases k <;> exact ⟨rfl, rfl, rfl⟩⟩

theorem Core.SameSys.trans {c d e : Core} (h : c.SameSys d) (h' : d.SameSys e) : c.SameSys e := by
  unfold Core.SameSys at h h' ⊢
  simp only [h, h', implies_true, and_self]

theorem State.recorded_streamsOnly (s : State) (r : Res) : s.me.StreamsOnly (s.recorded r).me := by
  rw [State.recorded_me]
  exact Core.streamsOnly_onStrm ..

/-- The same mover moves in `t` as in `s`, and everything outside its core is the same. -/
def State.CoreOnly (s t : State) : Prop := t.cur = s.cur ∧ s.SameOutside t

theorem State.CoreOnly.trans {s t u : State} (h : s.CoreOnly t) (h' : t.CoreOnly u) : s.CoreOnly u := by
  obtain ⟨hcur, h1, h2, h3, h4, h5, h6, h7, h8⟩ := h
  obtain ⟨hcur', h1', h2', h3', h4', h5', h6', h7', h8'⟩ := h'
  exact ⟨hcur'.trans hcur, h1'.trans h1, h2'.trans h2, h3'.trans h3, h4'.trans h4, h5'.trans h5, h6'.trans h6, h7'.trans h7,
    fun c hc => (h8' c (hcur ▸ hc)).trans (h8 c hc)⟩

theorem State.CoreOnly.refl (s : State) : s.CoreOnly s := ⟨rfl, rfl, rfl, rfl, rfl, rfl, rfl, rfl, fun _ _ => rfl⟩

theorem State.coreOnly_onMe (s : State) (f : Core → Core) : s.CoreOnly (s.onMe f) :=
  ⟨rfl, rfl, rfl, rfl, rfl, rfl, rfl, rfl, fun c hc => (s.onMe_core f c).trans (if_neg hc)⟩

/-- Until the clause commits a position that completes changes nothing outside the core. -/
theorem State.coreOnly_recorded (s : State) (r : Res) : s.CoreOnly (s.recorded r) :=
  (s.coreOnly_onMe _).trans (State.coreOnly_onMe _ _)

/-- A commit whose effects change the moving core alone changes that core alone. -/
theorem State.coreOnly_committed {s : State} (h : s.CoreOnly (s.applyAll s.cl.effs)) : s.CoreOnly s.committed := by
  have hmend : (s.applyAll s.cl.effs).CoreOnly ((s.applyAll s.cl.effs).mend s.cl.effs) := State.CoreOnly.refl _
  have hkeep (u : State) : u.CoreOnly (u.keep false) := State.CoreOnly.refl _
  exact ((h.trans hmend).trans (State.coreOnly_onMe _ _)).trans (hkeep _)

theorem State.committed_me {s : State} (h : s.CoreOnly (s.applyAll s.cl.effs)) :
    ∃ g, s.committed.me = (s.applyAll s.cl.effs).me.committed s.cur.strm (givesOf s.cur.strm s.cl.slots) g := by
  have hcur : ((s.applyAll s.cl.effs).mend s.cl.effs).cur = s.cur := h.1
  refine ⟨((s.applyAll s.cl.effs).mend s.cl.effs).handed s.cur.core s.cur.strm, ?_⟩
  unfold State.committed
  dsimp only
  rw [State.keep_me, State.onMe_me, hcur]
  rfl

/-- The control state that a commit leaves depends on the stream's program counter and loops alone. -/
theorem StreamSt.control_clause (t : StreamSt) (cl : Clause) (frozen : Bool) (post : Post) (next : Word) :
    ({ t with clause := cl } : StreamSt).control frozen post next = { t.control frozen post next with clause := cl } := by
  cases post with
  | goto target => rfl
  | loop l => simp only [StreamSt.control]; split <;> rfl
  | _ => cases frozen <;> rfl

theorem StreamSt.control_ctl (t : StreamSt) (frozen : Bool) (post : Post) (next : Word) :
    (t.control frozen post next).ctl = t.ctl := by
  cases post with
  | goto target => rfl
  | loop l => simp only [StreamSt.control]; split <;> rfl
  | _ => cases frozen <;> rfl

/-- A commit at user level of a clause without a flag or a draw leaves the system registers. -/
theorem Core.committed_sameSys (c : Core) (k : Strm) (gives : List Nat) (g : Sight) (h : c.trap.super = false)
    (hr : runsEret (c.strm k).clause.slots = false) (hf : (c.strm k).clause.flags = 0) (hs : (c.strm k).clause.seed = none) :
    c.SameSys (c.committed k gives g) := by
  refine (c.streamsOnly_committed k gives g).sameSys fun j => ?_
  rw [c.committed_strm k j gives g h hr]
  by_cases hj : j = k
  · subst hj
    simp [hf, hs, StreamSt.control_ctl]
  · simp [hj]

theorem State.recorded_sameSys (s : State) (r : Res) : s.me.SameSys (s.recorded r).me := by
  refine (s.recorded_streamsOnly r).sameSys fun k => ?_
  rw [State.recorded_me, Core.onStrm_strm]
  split
  · next hk => subst hk; exact ⟨rfl, rfl, rfl⟩
  · exact ⟨rfl, rfl, rfl⟩

/-- The only position of a clause at user level, completing with effects that write registers alone, without a flag or a draw: the
register files are as the effects leave them, the stream stands where its control goes, and the system registers and everything
outside the core are unchanged. -/
theorem State.finish_registers {s : State} (h : s.Lone) {r : Res} (hcore : (s.recorded r).CoreOnly ((s.recorded r).applyAll r.effs))
    (hr : (s.recorded r).me.RegsOnly ((s.recorded r).applyAll r.effs).me)
    (hc : ∀ e ∈ r.effs, e.checked = false) (hl : ∀ e ∈ r.effs, e.leaves = false)
    (hflags : r.flags = 0) (hseed : r.seed = none) (hpost : ∀ (u : State) (p : Nat), u.after r.post p = u) :
    let t := s.finish true (.done r)
    t.me.regs = ((s.recorded r).applyAll r.effs).me.regs ∧ t.st.pc = (s.st.control false r.post s.cl.next).pc
      ∧ t.st.loops = (s.st.control false r.post s.cl.next).loops ∧ s.me.SameSys t.me ∧ s.SameOutside t := by
  obtain ⟨hbare, hsuper⟩ := h
  rw [State.finish_eq_committed hbare r hc hl, hpost]
  obtain ⟨heffs, hcflags, hcseed, hcpost, -, -, hslots, hnext, -⟩ := hbare.recorded_cl r
  obtain ⟨-, -, -, -, -, -, -, -, heret, -⟩ := hbare
  rw [← heffs] at hcore hr ⊢
  obtain ⟨hcur, hout⟩ := (s.coreOnly_recorded r).trans (State.coreOnly_committed hcore)
  obtain ⟨g, hme⟩ := State.committed_me hcore
  generalize (s.recorded r).applyAll (s.recorded r).cl.effs = u at hcore hr hme ⊢
  rw [State.recorded_cur] at hme
  have hsys := (s.recorded_sameSys r).trans hr.sameSys
  have hst : u.me.strm s.cur.strm = { s.st with clause := (s.recorded r).cl } := by
    rw [hr.strm, State.recorded_cl, State.recorded_me, Core.onStrm_strm, if_pos rfl]
    rfl
  have hcl : (u.me.strm s.cur.strm).clause = (s.recorded r).cl := by rw [hst]
  have hsuper' : u.me.trap.super = false := hsys.1.trans hsuper
  have heret' : runsEret (u.me.strm s.cur.strm).clause.slots = false := by rwa [hcl, hslots]
  have hstrm := Core.committed_strm _ _ s.cur.strm (givesOf s.cur.strm (s.recorded r).cl.slots) g hsuper' heret'
  rw [if_pos rfl, hcl, hst, StreamSt.control_clause, hcpost, hnext] at hstrm
  have hst' : (s.recorded r).committed.st = _ :=
    (congrArg (Core.strm _ ·) (congrArg Mover.strm hcur)).trans ((congrArg (Core.strm · s.cur.strm) hme).trans hstrm)
  refine ⟨?_, (congrArg StreamSt.pc hst' :), (congrArg StreamSt.loops hst' :), ?_, hout⟩
  · rw [hme]
    exact (Core.streamsOnly_committed ..).regs
  · rw [hme]
    exact hsys.trans (Core.committed_sameSys _ _ _ _ hsuper' heret' (by rw [hcl, hcflags, hflags]) (by rw [hcl, hcseed, hseed]))

end Sys2Proof.Machine
end

section
/-! SUPPORT. The results of the scalar registers at a commit, and O16. -/

namespace Sys2Proof.Machine

/-! ### Writes of one register and the others -/

theorem Core.sreg_congr {c d : Core} (h : d.regs = c.regs) (n : Nat) : d.sreg n = c.sreg n := by simp [Core.sreg, h]
theorem Core.areg_congr {c d : Core} (h : d.regs = c.regs) (n : Nat) : d.areg n = c.areg n := by simp [Core.areg, h]
theorem Core.xreg_congr {c d : Core} (h : d.regs = c.regs) (n : Nat) : d.xreg n = c.xreg n := by simp [Core.xreg, h]

/-- Two cores of equal register files agree in every register. -/
theorem Core.SameRegs.of_regs {c d : Core} (h : d.regs = c.regs) (xs xa xx : List Nat) : c.SameRegs d xs xa xx := by
  simp [Core.SameRegs, Core.sreg_congr h, Core.areg_congr h, Core.xreg_congr h, Core.vreg, Core.mreg, Core.tile, Core.acc, Core.slot, Core.qreg, h]

theorem Core.SameRegs.trans {c d e : Core} {xs xa xx : List Nat} (h : c.SameRegs d xs xa xx) (h' : d.SameRegs e xs xa xx) :
    c.SameRegs e xs xa xx := by
  obtain ⟨hs, ha, hx, hv, hm, ht, hc, hd, hq⟩ := h
  obtain ⟨hs', ha', hx', hv', hm', ht', hc', hd', hq'⟩ := h'
  exact ⟨fun n hn => (hs' n hn).trans (hs n hn), fun n hn => (ha' n hn).trans (ha n hn), fun n hn => (hx' n hn).trans (hx n hn),
    fun n => (hv' n).trans (hv n), fun n => (hm' n).trans (hm n), fun n => (ht' n).trans (ht n), fun n => (hc' n).trans (hc n),
    fun n => (hd' n).trans (hd n), fun n => (hq' n).trans (hq n)⟩

theorem Core.sameRegs_setS (c : Core) (n : Nat) (v : Word) (h : n < 32) : c.SameRegs (c.setS n v) [n] [] [] := by
  refine ⟨fun m hm => ?_, ?_⟩
  · have : m ≠ n := by simpa using hm
    simp [h, this]
  · unfold Core.setS
    split <;> exact ⟨fun _ _ => rfl, fun _ _ => rfl, fun _ => rfl, fun _ => rfl, fun _ => rfl, fun _ => rfl, fun _ => rfl, fun _ => rfl⟩

theorem Core.sameRegs_setA (c : Core) (n : Nat) (v : Word) (h : n < 32) : c.SameRegs (c.setA n v) [] [n] [] := by
  refine ⟨?_, fun m hm => ?_, ?_⟩
  · unfold Core.setA
    split <;> exact fun _ _ => rfl
  · have : m ≠ n := by simpa using hm
    simp [h, this]
  · unfold Core.setA
    split <;> exact ⟨fun _ _ => rfl, fun _ => rfl, fun _ => rfl, fun _ => rfl, fun _ => rfl, fun _ => rfl, fun _ => rfl⟩

theorem Core.sameRegs_setX (c : Core) (n : Nat) (v : Word) (h : n < 8) : c.SameRegs (c.setX n v) [] [] [n] := by
  refine ⟨fun _ _ => rfl, fun _ _ => rfl, fun m hm => ?_, fun _ => rfl, fun _ => rfl, fun _ => rfl, fun _ => rfl, fun _ => rfl, fun _ => rfl⟩
  have : m ≠ n := by simpa using hm
  simp [h, this]

theorem Core.regsOnly_setS (c : Core) (n : Nat) (v : Word) : c.RegsOnly (c.setS n v) := by
  unfold Core.setS
  split <;> rfl

theorem Core.regsOnly_setA (c : Core) (n : Nat) (v : Word) : c.RegsOnly (c.setA n v) := by
  unfold Core.setA
  split <;> rfl

theorem Core.regsOnly_putReg (c : Core) (k : Strm) (i : Nat) (e : Eff) : c.RegsOnly (c.putReg k i e) := by
  unfold Core.putReg
  split <;> rfl

/-- Where the stream comes after every other write of the register, its own takes the value whole (spec/01 R20). -/
theorem Core.putReg_regs {c : Core} {k : Strm} {e : Eff} {r : Nat} (i : Nat) (he : e.race = some r) (h : c.Settled k r) :
    (c.putReg k i e).regs = c.regs.put e := by
  unfold Core.putReg
  split
  · rfl
  · have hmine : (c.past.any fun p => p.old.race == e.race && !p.known c.tok k) = false := by
      rw [List.any_eq_false]
      intro p hp hk
      rw [Bool.and_eq_true, beq_iff_eq, he] at hk
      simp [h p hp hk.1] at hk
    simp [hmine]

/-! ### A clause of one register result -/

/-- Recording a position leaves every register. -/
theorem State.recorded_regs (s : State) (r : Res) : (s.recorded r).me.regs = s.me.regs := (s.recorded_streamsOnly r).regs

/-- Recording a position settles no write and unsettles none. -/
theorem State.settled_recorded {s : State} {k : Strm} {n : Nat} (h : s.me.Settled k n) (r : Res) : (s.recorded r).me.Settled k n := by
  unfold Core.Settled at h ⊢
  simpa only [State.recorded_me, Core.onStrm_past, Core.onStrm_tok] using h

/-- The registers after a commit are those that the effects left: what they say of the core as it was holds of it. -/
theorem State.sameRegs_of_recorded {s : State} {r : Res} {c d : Core} {xs xa xx : List Nat}
    (h : (s.recorded r).me.SameRegs c xs xa xx) (hd : d.regs = c.regs) : s.me.SameRegs d xs xa xx :=
  ((Core.SameRegs.of_regs (s.recorded_regs r) xs xa xx).trans h).trans (Core.SameRegs.of_regs hd xs xa xx)

/-- `t` is `s` but for registers of the moving core. -/
def State.RegStep (s t : State) : Prop := s.CoreOnly t ∧ s.me.RegsOnly t.me

theorem State.RegStep.onMe (s : State) {f : Core → Core} (h : ∀ c : Core, c.RegsOnly (f c)) : s.RegStep (s.onMe f) :=
  ⟨s.coreOnly_onMe f, by rw [State.onMe_me]; exact h s.me⟩

/-- The only position of a clause at user level, completing with effects that write registers alone and no more, leaves the program
counter after the clause or at a loop's start. -/
theorem State.finish_result {s : State} (h : s.Lone) {r : Res} (heff : (s.recorded r).RegStep ((s.recorded r).applyAll r.effs))
    (hres : r = { latch := r.latch, effs := r.effs }) (hc : ∀ e ∈ r.effs, e.checked = false) (hl : ∀ e ∈ r.effs, e.leaves = false) :
    let t := s.finish true (.done r)
    t.me.regs = ((s.recorded r).applyAll r.effs).me.regs ∧ t.st.pc = (loopBack s.cl.next s.st.loops).1
      ∧ s.me.SameSys t.me ∧ s.SameOutside t := by
  have hpost : r.post = .none := congrArg Res.post hres
  obtain ⟨hregs, hpc, -, hsys, hout⟩ := State.finish_registers h heff.1 heff.2 hc hl (congrArg Res.flags hres) (congrArg Res.seed hres)
    fun u p => by rw [hpost]; rfl
  exact ⟨hregs, by rw [hpc, hpost]; rfl, hsys, hout⟩

theorem State.applyAll_toS (s : State) (d : Nat) (v : Word) : s.applyAll (toS d false v).effs = s.onMe fun c => c.setS d v := rfl

theorem State.applyAll_toA (s : State) (d : Nat) (v : Word) : s.applyAll (toA d false v).effs = s.onMe fun c => c.setA d v := rfl

theorem State.applyAll_toX (s : State) (d : Nat) (v : Word) :
    s.applyAll (toX d false v).effs = s.onMe fun c => c.putReg s.cur.strm s.free (.xreg d v) := rfl

/-- An s register takes its result (s0 stays zero), and nothing else but control changes. -/
theorem State.finish_toS {s : State} (h : s.Lone) {d : Nat} (hd : d < 32) (v : Word) :
    let t := s.finish true (.done (toS d false v))
    t.me.sreg d = (if d = 0 then 0 else v) ∧ t.st.pc = (loopBack s.cl.next s.st.loops).1 ∧ s.me.SameRegs t.me [d] [] []
      ∧ s.me.SameSys t.me ∧ s.SameOutside t := by
  obtain ⟨hregs, hpc, hsys, hout⟩ := State.finish_result (r := toS d false v) h
    (State.RegStep.onMe _ fun c => c.regsOnly_setS d v) rfl (by simp [toS, Eff.checked]) (by simp [toS, Eff.leaves])
  rw [State.applyAll_toS, State.onMe_me] at hregs
  refine ⟨?_, hpc, State.sameRegs_of_recorded (Core.sameRegs_setS _ d v hd) hregs, hsys, hout⟩
  rw [Core.sreg_congr hregs]
  by_cases h0 : d = 0
  · simp [h0]
  · simp [h0, hd]

/-- The same of the a registers. -/
theorem State.finish_toA {s : State} (h : s.Lone) {d : Nat} (hd : d < 32) (v : Word) :
    let t := s.finish true (.done (toA d false v))
    t.me.areg d = (if d = 0 then 0 else v) ∧ t.st.pc = (loopBack s.cl.next s.st.loops).1 ∧ s.me.SameRegs t.me [] [d] []
      ∧ s.me.SameSys t.me ∧ s.SameOutside t := by
  obtain ⟨hregs, hpc, hsys, hout⟩ := State.finish_result (r := toA d false v) h
    (State.RegStep.onMe _ fun c => c.regsOnly_setA d v) rfl (by simp [toA, Eff.checked]) (by simp [toA, Eff.leaves])
  rw [State.applyAll_toA, State.onMe_me] at hregs
  refine ⟨?_, hpc, State.sameRegs_of_recorded (Core.sameRegs_setA _ d v hd) hregs, hsys, hout⟩
  rw [Core.areg_congr hregs]
  by_cases h0 : d = 0
  · simp [h0]
  · simp [h0, hd]

/-- An x register takes its result whole where the stream comes after every other write of it (spec/01 R20). -/
theorem State.finish_toX {s : State} (h : s.Lone) {d : Nat} (hd : d < 8) (hset : s.me.Settled s.cur.strm d) (v : Word) :
    let t := s.finish true (.done (toX d false v))
    t.me.xreg d = v ∧ t.st.pc = (loopBack s.cl.next s.st.loops).1 ∧ s.me.SameRegs t.me [] [] [d]
      ∧ s.me.SameSys t.me ∧ s.SameOutside t := by
  obtain ⟨hregs, hpc, hsys, hout⟩ := State.finish_result (r := toX d false v) h
    (State.RegStep.onMe _ fun c => c.regsOnly_putReg s.cur.strm s.free (.xreg d v)) rfl (by simp [toX, Eff.checked])
    (by simp [toX, Eff.leaves])
  rw [State.applyAll_toX, State.onMe_me] at hregs
  replace hregs : _ = ((s.recorded (toX d false v)).me.setX d v).regs :=
    hregs.trans (Core.putReg_regs _ rfl (State.settled_recorded hset _))
  refine ⟨?_, hpc, State.sameRegs_of_recorded (Core.sameRegs_setX _ d v hd) hregs, hsys, hout⟩
  rw [Core.xreg_congr hregs]
  simp [hd]

/-- With W = 1 a result reaches the latch alone. -/
theorem State.finish_noWrite {s : State} (h : s.Lone) (d : Nat) (v : Word) :
    let t := s.finish true (.done (toS d true v))
    t.st.pc = (loopBack s.cl.next s.st.loops).1 ∧ s.me.SameRegs t.me [] [] [] ∧ s.me.SameSys t.me ∧ s.SameOutside t := by
  obtain ⟨hregs, hpc, hsys, hout⟩ := State.finish_result (r := toS d true v) h ⟨State.CoreOnly.refl _, rfl⟩ rfl
    (by simp [toS]) (by simp [toS])
  exact ⟨hpc, Core.SameRegs.of_regs (hregs.trans (s.recorded_regs _)) _ _ _, hsys, hout⟩

/-- Settles O16: the effect of each result is the write of its register, and a commit of a clause that did nothing else adds
control alone. -/
theorem registerResultCommits : Obligations.RegisterResultCommits := by
  unfold Obligations.RegisterResultCommits
  intro s d v h
  exact ⟨fun hd => State.finish_toS h hd v, fun hd => State.finish_toA h hd v, fun hd hset => State.finish_toX h hd hset v,
    State.finish_noWrite h d v⟩

end Sys2Proof.Machine
end

section
/-! SUPPORT. System registers (spec/08 R232): what SYSRD and SYSWR answer, what a committed write leaves to be read, and O30. -/

namespace Sys2Proof.Machine

/-! ### SYSRD -/

theorem exec_sysrd (f : DstNum) (s : State) : exec (.sysrd f) s = execSysrd f s := rfl
theorem exec_syswr (f : SyswrF) (s : State) : exec (.syswr f) s = execSyswr f s := rfl

/-- A register other than the two counters reads in the state as it is. -/
theorem execSysrd_plain {f : DstNum} (h5 : f.n ≠ 5) (h40 : f.n ≠ 0x40) (s : State) :
    execSysrd f s = .next (s.finish f.e (
      if !s.me.trap.super && userRight f.n == 0 then .trap (cPriv f.n) else .done (toS f.d f.w (s.sysRead f.n)))) := by
  simp [execSysrd, h5, h40]

/-- Both levels read TICK, at the moment of the read. -/
theorem execSysrd_tick {f : DstNum} (h : f.n = 5) (s : State) :
    execSysrd f s = .next (s.tickNow.finish f.e (.done (toS f.d f.w (word s.tickNow.tick)))) := by
  simp [execSysrd, h, userRight, State.sysRead]

/-- Both levels read NPSTATE, at the moment of the read. -/
theorem execSysrd_npstate {f : DstNum} (h : f.n = 0x40) (s : State) :
    execSysrd f s = .next (s.npNow.finish f.e (.done (toS f.d f.w
      (if s.npNow.me.np then word (2 ^ 17 + s.npNow.me.npCycles) else 0)))) := by
  simp [execSysrd, h, userRight, State.sysRead]

theorem State.npNow_np (s : State) : s.npNow.me.np = s.me.np := by
  unfold State.npNow
  split
  · rw [State.onMe_me]
    rfl
  · rfl

/-- The count of an open region rises, up to the 65,535 cycles at which the region closes (spec/08 R243). -/
theorem State.npNow_npCycles {s : State} (h : s.me.npCycles ≤ 65535) :
    s.me.npCycles ≤ s.npNow.me.npCycles ∧ s.npNow.me.npCycles ≤ 65535 := by
  unfold State.npNow
  split
  · rw [State.onMe_me]
    have : ({ s with free := s.free + 1 } : State).me = s.me := rfl
    simp only [this]
    omega
  · exact ⟨Nat.le_refl _, h⟩

/-! ### SYSWR -/

/-- A write by a level that may make it completes with its effect, but that of a reserved rounding mode. -/
theorem execSyswr_allowed {f : SyswrF} {s : State} (h : s.me.trap.super = true ∨ userRight f.n = 2) :
    execSyswr f s = .next (s.finish f.e (
      if 0x34 ≤ f.n && f.n ≤ 0x37 && 5 ≤ (s.srcS f.c).toNat % 8 then .trap (cIllegal 5)
      else .done { effs := [.sys f.n (s.srcS f.c)] })) := by
  have hmode : field (s.srcS f.c) 2 0 = (s.srcS f.c).toNat % 8 := by simp [field, bits]
  obtain h | h := h <;> simp [execSyswr, h, hmode]

/-- PART at the commit of a clause of its own that breaks R34 (spec/01 R34). -/
theorem State.lateFault_part {s : State} {v : Word} (h : s.cl.effs = [.sys 0 v]) (hl : s.cl.lens = [1]) (hv : s.me.partOk v = false) :
    s.lateFault = some (0, cIllegal 1) := by
  have hpool : s.poolCause = none := State.poolCause_eq_none fun e he => by
    rw [h, List.mem_singleton] at he
    rw [he]
    rfl
  have hbad : s.me.lateBad s.cl 0 = some (cIllegal 1) := by
    simp [Core.lateBad, h, hl, effsByPos, hv, cIllegal]
  simp [State.lateFault, hpool, hl, upTo, hbad, lowerFault]

/-- Whether PART may take a value does not depend on the core's streams. -/
theorem Core.StreamsOnly.partOk {c d : Core} (h : c.StreamsOnly d) (v : Word) : d.partOk v = c.partOk v := by
  rw [h]
  rfl

/-- PART written by a clause of its own, against R34: the clause faults at its commit. -/
theorem State.finish_part {s : State} {v : Word} (heffs : s.cl.effs = []) (hlens : s.cl.lens = []) (hue : s.cl.ue = none)
    (hv : s.me.partOk v = false) :
    s.finish true (.done { effs := [.sys 0 v] }) = (s.recorded { effs := [.sys 0 v] }).faultAt 0 (cIllegal 1) := by
  have hlate : (s.recorded { effs := [.sys 0 v] }).lateFault = some (0, cIllegal 1) :=
    State.lateFault_part (v := v) (by simp [State.recorded_cl, Clause.record, heffs]) (by simp [State.recorded_cl, Clause.record, hlens])
      (by rw [(s.recorded_streamsOnly _).partOk, hv])
  have hue' : (s.recorded { effs := [.sys 0 v] }).cl.ue = none := by simp [State.recorded_cl, Clause.record, hue]
  rw [State.finish_last, State.conclude_eq_commit hue']
  exact State.commit_eq_faultAt hlate (by simp [cIllegal])

/-! ### What a committed write leaves to be read -/

theorem lt_four_cases {i : Nat} (h : i < 4) : i = 0 ∨ i = 1 ∨ i = 2 ∨ i = 3 := by omega

theorem State.sysRead_sysWrite_kscr (s : State) (v : Word) {i : Nat} (h : i < 4) :
    (s.sysWrite (0x20 + i) v).sysRead (0x20 + i) = v := by
  obtain rfl | rfl | rfl | rfl := lt_four_cases h <;> simp [State.sysWrite, State.sysRead, vget_vset]

theorem State.sysRead_sysWrite_trapinfo (s : State) (v : Word) {i : Nat} (h : i < 4) :
    (s.sysWrite (0x18 + i) v).sysRead (0x18 + i) = v := by
  obtain rfl | rfl | rfl | rfl := lt_four_cases h <;> simp [State.sysWrite, State.sysRead, vget_vset]

theorem State.sysRead_sysWrite_seed (s : State) (v : Word) {i : Nat} (h : i < 4) :
    (s.sysWrite (0x38 + i) v).sysRead (0x38 + i) = v := by
  obtain rfl | rfl | rfl | rfl := lt_four_cases h <;> simp [State.sysWrite, State.sysRead, strmOf]

theorem State.sysRead_sysWrite_flags (s : State) (v : Word) {i : Nat} (h : i < 4) :
    (s.sysWrite (0x30 + i) v).sysRead (0x30 + i) = v &&& 0x7F := by
  obtain rfl | rfl | rfl | rfl := lt_four_cases h <;> simp [State.sysWrite, State.sysRead, strmOf]

theorem State.sysRead_sysWrite_waddr (s : State) (v : Word) : (s.sysWrite 0x28 v).sysRead 0x28 = v &&& 0xFFFFFFFFFFFFFF := by
  simp [State.sysWrite, State.sysRead]

theorem State.sysRead_sysWrite_rcap (s : State) (v : Word) : (s.sysWrite 1 v).sysRead 1 = word (max 1 (min v.toNat 8192)) := by
  simp [State.sysWrite, State.sysRead]

/-- The low `n` bits of a word, as a mask takes them. -/
theorem and_mask (v : Word) {n : Nat} (h : n ≤ 64) : v &&& word (2 ^ n - 1) = word (v.toNat % 2 ^ n) := by
  apply BitVec.eq_of_toNat_eq
  have hm : 2 ^ n - 1 < 2 ^ 64 := Nat.lt_of_lt_of_le (Nat.sub_lt (Nat.two_pow_pos n) Nat.one_pos) (Nat.pow_le_pow_right (by decide) h)
  have hv : v.toNat % 2 ^ n < 2 ^ 64 := Nat.lt_of_le_of_lt (Nat.mod_le _ _) v.isLt
  rw [BitVec.toNat_and, BitVec.toNat_ofNat, BitVec.toNat_ofNat, Nat.mod_eq_of_lt hm, Nat.mod_eq_of_lt hv, Nat.and_two_pow_sub_one_eq_mod]

/-- Settles O30: the answers of SYSRD and SYSWR by level, and each register read back after its write. -/
theorem systemRegisters : Obligations.SystemRegisters := by
  unfold Obligations.SystemRegisters
  refine ⟨fun f s h5 h40 => ?_, fun f s h => ?_, fun f s h => ?_, fun f s => ?_, fun s v i hi => ?_⟩
  · unfold Completes Faults
    rw [exec_sysrd, execSysrd_plain h5 h40]
    refine ⟨fun hr => ?_, fun hs hr => ?_⟩
    · obtain hr | hr := hr <;> simp [hr]
    · simp [hs, hr, cPriv, State.finish_trap]
  · exact ⟨_, Nat.le_add_right _ _, execSysrd_tick h s⟩
  · refine ⟨_, _, execSysrd_npstate h s, fun hnp => ?_, fun hnp hc => ?_⟩
    · simp [State.npNow_np, hnp]
    · obtain ⟨hlo, hhi⟩ := State.npNow_npCycles hc
      exact ⟨_, hlo, hhi, by simp [State.npNow_np, hnp]⟩
  · unfold Completes Faults
    rw [exec_syswr]
    refine ⟨fun hs hr => ?_, fun hs hr => ?_, fun hr => ⟨fun hlo hhi hv => ?_, fun hv => ?_⟩, fun hs hn he heffs hlens hue hv => ?_⟩
    · simp [execSyswr, hs, hr, cPriv, State.finish_trap]
    · simp [execSyswr, hs, hr]
    · rw [execSyswr_allowed hr]
      simp [hlo, hhi, hv, cIllegal, State.finish_trap]
    · rw [execSyswr_allowed hr, if_neg]
      simpa [and_imp] using hv
    · rw [execSyswr_allowed (.inl hs), hn, he]
      exact congrArg Host.Outcome.next (State.finish_part heffs hlens hue hv)
  · refine ⟨s.sysRead_sysWrite_kscr v hi, s.sysRead_sysWrite_trapinfo v hi, s.sysRead_sysWrite_seed v hi, ?_,
      s.sysRead_sysWrite_rcap v, ?_⟩
    · rw [State.sysRead_sysWrite_waddr]
      exact and_mask v (n := 56) (by decide)
    · rw [State.sysRead_sysWrite_flags _ _ hi]
      exact and_mask v (n := 7) (by decide)

end Sys2Proof.Machine
end

section
/-! SUPPORT. The machine right after reset (spec/01 R31 to R35; spec/17 R432, R433), and O58. -/

namespace Sys2Proof.Machine

/-- No core is listed at reset: each is as a core after reset is. -/
theorem State.reset_core (c : Nat) : State.reset.core c = Core.init := rfl

/-- A register file of equal entries reads that entry, within the file and past it. -/
theorem vget_replicate {α : Type} (n i : Nat) (x : α) : vget (Vector.replicate n x) i x = x := by
  unfold vget
  by_cases h : i < n <;> simp [h]

/-- Every tile is without a shape and a byte after reset. -/
theorem Core.init_tile (n : Nat) : Core.init.tile n = {} := vget_replicate ..

/-- The fields of PART at reset: 40, 32 and 24 units (spec/01 R33). -/
theorem Core.init_part : field Core.init.part 6 0 = 40 ∧ field Core.init.part 14 8 = 32 ∧ field Core.init.part 22 16 = 24 := by decide

theorem Core.init_strm (k : Strm) : Core.init.strm k = {} := by cases k <;> rfl

/-- Settles O58: nothing is listed at reset, so every core, engine, queue and byte reads its default. -/
theorem resetState : Obligations.ResetState := by
  unfold Obligations.ResetState
  refine ⟨rfl, ⟨rfl, rfl⟩, fun _ => rfl, fun c => ?_, fun _ => rfl, rfl, fun _ => rfl⟩
  obtain ⟨hrun, hacc, hscr⟩ := Core.init_part
  rw [State.reset_core]
  exact ⟨rfl, rfl, hrun, hacc, hscr, rfl, fun k => by rw [Core.init_strm]; exact ⟨rfl, rfl⟩, fun n => by rw [Core.init_tile]⟩

end Sys2Proof.Machine
end

section
/-! SUPPORT. Signed codes (spec/02 R38, R47): the range of an n-bit code, the code of an integer inside it, and saturation at its
ends; the order of exact integers as values; and O38. -/

namespace Sys2Proof.Machine

/-! ### Signed codes -/

/-- The signed reading of a code is the balanced remainder modulo 2^n. -/
theorem signed_eq_bmod {n : Nat} (hn : 0 < n) (x : Nat) : signed n x = (x : Int).bmod (2 ^ n) := by
  have hpow : 2 ^ n = 2 * 2 ^ (n - 1) := by rw [Nat.mul_comm, Nat.two_pow_pred_mul_two hn]
  unfold signed
  rw [Int.bmod_def]
  split <;> split <;> omega

theorem signed_range {n : Nat} (hn : 0 < n) (x : Nat) :
    -((2 ^ (n - 1) : Nat) : Int) ≤ signed n x ∧ signed n x < ((2 ^ (n - 1) : Nat) : Int) := by
  have hpow : 2 ^ n = 2 * 2 ^ (n - 1) := by rw [Nat.mul_comm, Nat.two_pow_pred_mul_two hn]
  have hlo := Int.le_bmod (x := x) (Nat.two_pow_pos n)
  have hhi := Int.bmod_lt (x := x) (Nat.two_pow_pos n)
  rw [signed_eq_bmod hn]
  omega

theorem toCode_lt (n : Nat) (v : Int) : toCode n v < 2 ^ n := by
  have hpos := Nat.two_pow_pos n
  have := Int.emod_lt_of_pos v (b := ((2 ^ n : Nat) : Int)) (by omega)
  unfold toCode
  omega

/-- An integer in the range of `n` bits is read back from its code. -/
theorem signed_toCode {n : Nat} (hn : 0 < n) {v : Int} (hlo : -((2 ^ (n - 1) : Nat) : Int) ≤ v)
    (hhi : v < ((2 ^ (n - 1) : Nat) : Int)) : signed n (toCode n v) = v := by
  have hpow : 2 ^ n = 2 * 2 ^ (n - 1) := by rw [Nat.mul_comm, Nat.two_pow_pred_mul_two hn]
  have hpos := Nat.two_pow_pos n
  have hcode : (toCode n v : Int) = v % ((2 ^ n : Nat) : Int) := Int.toNat_of_nonneg (Int.emod_nonneg _ (by omega))
  rw [signed_eq_bmod hn, hcode, Int.emod_bmod]
  exact Int.bmod_eq_of_le (by omega) (by omega)

/-- A power of two among the integers is that among the naturals. -/
theorem two_pow_eq_cast (n : Nat) : (2 ^ n : Int) = ((2 ^ n : Nat) : Int) := (Int.natCast_pow 2 n).symm

/-- Sat(v, n bits, SAT) of spec/02 R47: the code reads `v` held to the range, and SAT tells that `v` was outside it. -/
theorem satInt_holds {n : Nat} (hn : 0 < n) (v : Int) :
    (satInt n v).1 < 2 ^ n ∧ signed n (satInt n v).1 = max (-2 ^ (n - 1)) (min (2 ^ (n - 1) - 1) v) ∧
      ((satInt n v).2 = fSAT ∨ (satInt n v).2 = 0) ∧ ((satInt n v).2 = fSAT ↔ v < -2 ^ (n - 1) ∨ 2 ^ (n - 1) ≤ v) := by
  have hpos : 0 < 2 ^ (n - 1) := Nat.two_pow_pos _
  have hclear : (0 : Word) ≠ fSAT := by decide
  rw [two_pow_eq_cast]
  by_cases hhi : ((2 ^ (n - 1) : Nat) : Int) - 1 < v
  · have heq : satInt n v = (toCode n (((2 ^ (n - 1) : Nat) : Int) - 1), fSAT) := if_pos hhi
    rw [heq, signed_toCode hn (by omega) (by omega)]
    exact ⟨toCode_lt .., by omega, .inl rfl, iff_of_true rfl (by omega)⟩
  by_cases hlo : v < -((2 ^ (n - 1) : Nat) : Int)
  · have heq : satInt n v = (toCode n (-((2 ^ (n - 1) : Nat) : Int)), fSAT) := (if_neg hhi).trans (if_pos hlo)
    rw [heq, signed_toCode hn (by omega) (by omega)]
    exact ⟨toCode_lt .., by omega, .inl rfl, iff_of_true rfl (by omega)⟩
  · have heq : satInt n v = (toCode n v, 0) := (if_neg hhi).trans (if_neg hlo)
    rw [heq, signed_toCode hn (by omega) (by omega)]
    exact ⟨toCode_lt .., by omega, .inr rfl, iff_of_false hclear (by omega)⟩

/-! ### Integer tags -/

theorem tagBits_pos (t : Nat) : 0 < tagBits t := by
  unfold tagBits
  split <;> decide

theorem tagVal_int {t : Nat} (ht : isIntTag t = true) (x : Nat) : tagVal t x = Val.ofInt (intOf t x) := by
  simp [tagVal, ht, intOf]

theorem elAdd_int {t : Nat} (ht : isIntTag t = true) (m : RMode) (ftz : Bool) (x y : Nat) :
    elAdd t m ftz [x, y] = satInt (tagBits t) (intOf t x + intOf t y) := if_pos ht

theorem elSub_int {t : Nat} (ht : isIntTag t = true) (m : RMode) (ftz : Bool) (x y : Nat) :
    elSub t m ftz [x, y] = satInt (tagBits t) (intOf t x - intOf t y) := if_pos ht

theorem elMul_int {t : Nat} (ht : isIntTag t = true) (m : RMode) (ftz : Bool) (x y : Nat) :
    elMul t m ftz [x, y] = satInt (tagBits t) (intOf t x * intOf t y) := if_pos ht

/-- Exact integers as values are ordered as the integers are. -/
theorem Val.ofInt_lt (a b : Int) : (Val.ofInt a).lt (Val.ofInt b) = decide (a < b) := by
  rw [Bool.eq_iff_iff]
  by_cases ha : a < 0 <;> by_cases hb : b < 0 <;> simp [Val.ofInt, Val.lt, Mag.lt, ha, hb] <;> omega

/-- The choice between two integer codes: by the order of their integers, and no flag. -/
theorem pick_int {t : Nat} (ht : isIntTag t = true) (larger : Bool) (x y : Nat) :
    pick larger t x y =
      (if (if intOf t x < intOf t y then true else if intOf t y < intOf t x then false else decide (intOf t x < 0)) != larger
        then x else y, 0) := by
  simp only [pick, tagVal_int ht, Val.ofInt_lt, decide_eq_true_eq]
  rfl

theorem pick_fst_of_lt {t x y : Nat} (ht : isIntTag t = true) (h : intOf t x < intOf t y) (larger : Bool) :
    (pick larger t x y).1 = if larger then y else x := by
  rw [pick_int ht, if_pos h]
  cases larger <;> rfl

theorem pick_fst_of_gt {t x y : Nat} (ht : isIntTag t = true) (h : intOf t y < intOf t x) (larger : Bool) :
    (pick larger t x y).1 = if larger then x else y := by
  rw [pick_int ht, if_neg (Int.not_lt.2 (Int.le_of_lt h)), if_pos h]
  cases larger <;> rfl

/-- Of two codes that read the same, either choice reads so. -/
theorem intOf_pick_of_eq {t x y : Nat} (ht : isIntTag t = true) (h : intOf t x = intOf t y) (larger : Bool) :
    intOf t (pick larger t x y).1 = intOf t x := by
  rw [pick_int ht, apply_ite (intOf t), ← h, ite_self]

theorem intOf_pick_smaller {t : Nat} (ht : isIntTag t = true) (x y : Nat) :
    intOf t (pick false t x y).1 = min (intOf t x) (intOf t y) := by
  obtain h | h | h := Int.lt_trichotomy (intOf t x) (intOf t y)
  · rw [pick_fst_of_lt ht h, if_neg Bool.false_ne_true]
    omega
  · rw [intOf_pick_of_eq ht h]
    omega
  · rw [pick_fst_of_gt ht h, if_neg Bool.false_ne_true]
    omega

theorem intOf_pick_larger {t : Nat} (ht : isIntTag t = true) (x y : Nat) :
    intOf t (pick true t x y).1 = max (intOf t x) (intOf t y) := by
  obtain h | h | h := Int.lt_trichotomy (intOf t x) (intOf t y)
  · rw [pick_fst_of_lt ht h, if_pos rfl]
    omega
  · rw [intOf_pick_of_eq ht h]
    omega
  · rw [pick_fst_of_gt ht h, if_pos rfl]
    omega

/-! ### Shifts -/

/-- A shift left by the width or more leaves no bit of the code. -/
theorem elShl_eq (t x y : Nat) (hy : y < 2 ^ tagBits t) : elShl t [x, y] = (x * 2 ^ y % 2 ^ tagBits t, 0) := by
  simp only [elShl, List.getD_cons_zero, List.getD_cons_succ, Nat.mod_eq_of_lt hy]
  by_cases hw : tagBits t ≤ y
  · rw [if_pos hw, Nat.mod_eq_zero_of_dvd (Nat.dvd_mul_left_of_dvd (Nat.pow_dvd_pow 2 hw) x)]
  · rw [if_neg hw]

/-- A quotient of an integer in a range around 0 by a positive number is in that range. -/
theorem ediv_range {b v d : Int} (hlo : -b ≤ v) (hhi : v < b) (hd : 0 < d) : -b ≤ v / d ∧ v / d < b := by
  have hb : b * 1 ≤ b * d := Int.mul_le_mul_of_nonneg_left (by omega) (by omega)
  have hneg : -b * d = -(b * d) := Int.neg_mul ..
  exact ⟨(Int.le_ediv_iff_mul_le hd).2 (by omega), (Int.ediv_lt_iff_lt_mul hd).2 (by omega)⟩

/-- A quotient by more than the number's magnitude, rounded down, is the sign: 0 or −1. -/
theorem ediv_eq_sign {b v d : Int} (hlo : -b ≤ v) (hhi : v < b) (hd : b ≤ d) : v / d = if v < 0 then -1 else 0 := by
  by_cases hv : v < 0
  · simp only [hv, if_true]
    exact Int.ediv_eq_neg_one_of_neg_of_le hv (by omega)
  · simp only [hv, if_false]
    exact Int.ediv_eq_zero_of_lt (by omega) (by omega)

/-- A shift right is the exact quotient rounded down; by the width or more, the sign. -/
theorem intOf_elShr (t x y : Nat) (hy : y < 2 ^ tagBits t) : intOf t (elShr t [x, y]).1 = intOf t x / 2 ^ y := by
  obtain ⟨hlo, hhi⟩ := signed_range (tagBits_pos t) x
  have hpos := Nat.two_pow_pos y
  have hquot : (if tagBits t ≤ y then (if intOf t x < 0 then -1 else 0) else intOf t x / ((2 ^ y : Nat) : Int)) =
      intOf t x / ((2 ^ y : Nat) : Int) := by
    by_cases hw : tagBits t ≤ y
    · have hpow : 2 ^ (tagBits t - 1) ≤ 2 ^ y := Nat.pow_le_pow_right (by decide) (by omega)
      rw [if_pos hw, intOf, ediv_eq_sign hlo hhi (by omega)]
    · rw [if_neg hw]
  obtain ⟨hlo, hhi⟩ := ediv_range hlo hhi (d := ((2 ^ y : Nat) : Int)) (by omega)
  rw [two_pow_eq_cast]
  simp only [elShr, List.getD_cons_zero, List.getD_cons_succ, Nat.mod_eq_of_lt hy, hquot]
  exact signed_toCode (tagBits_pos t) hlo hhi

/-- Settles O38: sums, differences and products are `satInt` of the exact result, whose range `satInt_holds` gives. -/
theorem vectorIntegerElements : Obligations.VectorIntegerElements := by
  unfold Obligations.VectorIntegerElements
  intro t x y m ftz ht _ hy
  have hsat := satInt_holds (tagBits_pos t)
  refine ⟨?_, ?_, ?_, intOf_pick_smaller ht x y, intOf_pick_larger ht x y, elShl_eq t x y hy, intOf_elShr t x y hy⟩
  · rw [elAdd_int ht]
    exact hsat _
  · rw [elSub_int ht]
    exact hsat _
  · rw [elMul_int ht]
    exact hsat _

end Sys2Proof.Machine
end

section
/-! SUPPORT. Integer MMA elements (spec/02 R62; spec/07 R205): exact integers among the values, their sums and products, the blocks
of a row and their share of the dot product, and O46. -/

namespace Sys2Proof.Machine

/-! ### Values that are exact integers -/

/-- The value is the integer `i`, as a number with denominator 1 and exponent 0; a zero may carry either sign. -/
def Val.IsInt (v : Val) (i : Int) : Prop := ∃ neg n, v = .fin neg ⟨n, 1, 0⟩ ∧ i = if neg then -(n : Int) else n

theorem Val.IsInt.int_eq {v : Val} {i : Int} (h : v.IsInt i) : v.int = i := by
  obtain ⟨neg, n, rfl, rfl⟩ := h
  simp [Val.int]

theorem Val.isInt_ofInt (i : Int) : (Val.ofInt i).IsInt i :=
  ⟨_, _, rfl, by simp only [decide_eq_true_eq]; split <;> omega⟩

theorem Val.isInt_zero (neg : Bool) : (Val.zero neg).IsInt 0 := ⟨_, _, rfl, by simp⟩

/-- The sum of two integers, a zero sum included, is an integer. -/
theorem Val.IsInt.add {v w : Val} {i k : Int} (hv : v.IsInt i) (hw : w.IsInt k) (down : Bool) : (v.add down w).1.IsInt (i + k) := by
  obtain ⟨n1, x, rfl, rfl⟩ := hv
  obtain ⟨n2, y, rfl, rfl⟩ := hw
  simp only [Val.add, addFin, Int.min_self, Int.sub_self, Int.toNat_zero, Nat.pow_zero, Nat.mul_one, beq_iff_eq]
  generalize (if n1 = true then -(x : Int) else x) = i
  generalize (if n2 = true then -(y : Int) else y) = k
  split
  next hzero =>
    rw [hzero]
    split
    · exact Val.isInt_zero _
    · exact Val.isInt_zero _
  · exact Val.isInt_ofInt _

theorem Val.IsInt.mul {v w : Val} {i k : Int} (hv : v.IsInt i) (hw : w.IsInt k) : (v.mul w).1.IsInt (i * k) := by
  obtain ⟨n1, x, rfl, rfl⟩ := hv
  obtain ⟨n2, y, rfl, rfl⟩ := hw
  exact ⟨_, _, rfl, by
    cases n1 <;> cases n2 <;>
      simp only [bne_self_eq_false, Bool.bne_true, Bool.bne_false, Bool.not_false, Bool.false_eq_true, if_true, if_false, Int.neg_mul,
        Int.mul_neg, Int.neg_neg, Int.natCast_mul]⟩

/-- A chain of additions of integers adds the integers. -/
theorem Val.IsInt.foldl_add {α : Type} {f : α → Val} {g : α → Int} (hf : ∀ x, (f x).IsInt (g x)) (l : List α) {v : Val} {i : Int}
    (hv : v.IsInt i) : (l.foldl (fun a x => (a.add false (f x)).1) v).IsInt (i + (l.map g).sum) := by
  induction l generalizing v i with
  | nil => simpa using hv
  | cons x xs ih => simpa [Int.add_assoc] using ih (hv.add (hf x) false)

/-! ### The products of a block -/

/-- Every NaN quiet, an integer stays as it is. -/
theorem quietVal_ofInt (i : Int) : quietVal (Val.ofInt i) = Val.ofInt i := rfl

/-- The exact product of a pair of codes, as the multiplier takes them. -/
def pairProduct (ta tb : Nat) (p : Nat × Nat) : Val := ((quietVal (tagVal ta p.1)).mul (quietVal (tagVal tb p.2))).1

/-- Putting out results one after another, beside what else is kept, lists them in order. -/
theorem foldl_append_fst {α β γ : Type} (f : α → β) (g : γ → α → γ) (l : List α) (out : List β) (c : γ) :
    (l.foldl (fun (st : List β × γ) x => (st.1 ++ [f x], g st.2 x)) (out, c)).1 = out ++ l.map f := by
  induction l generalizing out c with
  | nil => exact (List.append_nil out).symm
  | cons x xs ih => rw [List.foldl_cons, ih, List.map_cons, List.append_assoc, List.singleton_append]

theorem blockProducts_fst (ta tb : Nat) (ps : List (Nat × Nat)) : (blockProducts ta tb ps).1 = ps.map (pairProduct ta tb) :=
  foldl_append_fst (pairProduct ta tb) (fun fl p => fl ||| ((quietVal (tagVal ta p.1)).mul (quietVal (tagVal tb p.2))).2) ps [] 0

theorem pairProduct_isInt {ta tb : Nat} (ha : isIntTag ta = true) (hb : isIntTag tb = true) (p : Nat × Nat) :
    (pairProduct ta tb p).IsInt (intOf ta p.1 * intOf tb p.2) := by
  simp only [pairProduct, tagVal_int, ha, hb, quietVal_ofInt]
  exact (Val.isInt_ofInt _).mul (Val.isInt_ofInt _)

/-! ### The blocks of a row -/

/-- Block `i` of a list cut into pieces of `k` is its members from `k * i` on, at most `k`. -/
theorem chunks_getD {α : Type} {k : Nat} (hk : 0 < k) (fuel : Nat) (l : List α) (h : l.length ≤ fuel) (i : Nat) :
    (chunks k fuel l).getD i [] = (l.drop (k * i)).take k := by
  induction fuel generalizing l i with
  | zero => simp [chunks, List.length_eq_zero_iff.1 (Nat.le_zero.1 h)]
  | succ f ih =>
    unfold chunks
    cases l with
    | nil => simp
    | cons x xs =>
      cases i with
      | zero => simp
      | succ i =>
        have hrest : ((x :: xs).drop k).length ≤ f := by
          simp only [List.length_drop, List.length_cons] at h ⊢
          omega
        simpa [Nat.mul_succ, Nat.add_comm] using ih _ hrest i

theorem cut_getD {k : Nat} (hk : 0 < k) (row : List Nat) (i : Nat) : (cut k row).getD i [] = (row.drop (k * i)).take k :=
  chunks_getD hk _ _ (Nat.le_refl _) i

/-- The sums of the first `m` pieces of `k` members add up to the sum of the first `k * m` members. -/
theorem sum_pieces (l : List Int) (k m : Nat) :
    ((List.range m).map fun i => ((l.drop (k * i)).take k).sum).sum = (l.take (k * m)).sum := by
  induction m with
  | zero => simp
  | succ m ih => 
    rw [List.range_succ, List.map_append, List.sum_append_int, ih, Nat.mul_succ, List.take_add, List.sum_append_int, List.map_singleton,
      List.sum_singleton]

/-- A sum of integers does not depend on their order. -/
theorem perm_sum_eq {l k : List Int} (h : l.Perm k) : l.sum = k.sum := by
  induction h with
  | nil => rfl
  | cons x _ ih => rw [List.sum_cons, List.sum_cons, ih]
  | swap x y l =>
    simp only [List.sum_cons]
    omega
  | trans _ _ ih₁ ih₂ => exact ih₁.trans ih₂

theorem le_mul_ceilDiv {k : Nat} (hk : 0 < k) (n : Nat) : n ≤ k * ceilDiv n k := by
  have := Nat.div_add_mod (n + k - 1) k
  have := Nat.mod_lt (n + k - 1) hk
  unfold ceilDiv
  omega

/-! ### The element -/

/-- An integer pair has integer tags on both sides (spec/07 R203). -/
theorem isIntTag_of_pairClass {a b : Nat} (h : pairClass a b = 2) : isIntTag a = true ∧ isIntTag b = true := by
  simp only [pairClass] at h
  split at h
  · simp at h
  · split at h
    next hint =>
      simp only [Bool.and_eq_true, Bool.or_eq_true, beq_iff_eq] at hint
      obtain ⟨ha | ha, hb | hb⟩ := hint <;> simp [ha, hb, isIntTag]
    · split at h <;> simp at h

/-- The products of a row and a column as integers, at their positions. -/
def MatJob.products (j : MatJob) (r n : Nat) : List Int :=
  List.zipWith (fun x y => intOf j.tagA x * intOf j.plane.tag y) (j.arows.getD r []) (j.plane.vals.getD n [])

/-- Without block scales an integer job sums blocks of 32 (spec/02 R55). -/
theorem MatJob.sb_int {j : MatJob} (hcls : j.cls = 2) (hbs : j.bs = false) : j.sb = 32 := by simp [MatJob.sb, hcls, hbs]

/-- With no wrong value in it, the sum of a dense integer block is the chain of additions of its products. -/
theorem MatJob.blockSum_int {j : MatJob} (hcls : j.cls = 2) (hdense : j.plane.sparse = false) (a b m : List (List Nat)) (i : Nat) :
    (j.blockSum a b m [] i).1 = ((a.getD i []).zip (b.getD i [])).foldl
      (fun v p => (v.add false (pairProduct j.tagA j.plane.tag p)).1) (Val.zero false) := by
  simp [MatJob.blockSum, hcls, hdense, blockPairs, blockProducts_fst, List.foldl_map]

theorem MatJob.blockSum_isInt {j : MatJob} (hcls : j.cls = 2) (hdense : j.plane.sparse = false) (a b m : List (List Nat)) (i : Nat) :
    (j.blockSum a b m [] i).1.IsInt
      (List.zipWith (fun x y => intOf j.tagA x * intOf j.plane.tag y) (a.getD i []) (b.getD i [])).sum := by
  obtain ⟨ha, hb⟩ := isIntTag_of_pairClass hcls
  have h := Val.IsInt.foldl_add (pairProduct_isInt ha hb) ((a.getD i []).zip (b.getD i [])) (Val.isInt_zero false)
  rw [Int.zero_add] at h
  rw [MatJob.blockSum_int hcls hdense, ← List.map_uncurry_zip_eq_zipWith]
  exact h

/-- With no wrong value in the array an integer element is the chain of additions of its block sums. -/
theorem MatJob.element_int {j : MatJob} (hcls : j.cls = 2) (hbs : j.bs = false) (hdense : j.plane.sparse = false) (order : List Nat)
    (r n : Nat) : (j.element order [] r n).1 = order.foldl (fun v i => (v.add false (j.blockSum (cut 32 (j.arows.getD r []))
      (cut 32 (j.plane.vals.getD n [])) (cut 8 (j.plane.nibs.getD n [])) [] i).1).1) (Val.zero false) := by
  simp only [MatJob.element, hcls, hdense, MatJob.sb_int hcls hbs, List.filter_nil, List.isEmpty_nil, beq_self_eq_true, if_true]
  exact (List.foldl_hom Prod.fst fun _ _ => rfl).symm

/-- Settles O46: each block sum is the integer sum of its piece of the products; a permutation of the blocks does not
change the sum of the pieces, and the blocks cover the row. -/
theorem integerProductIsExact : Obligations.IntegerProductIsExact := by
  unfold Obligations.IntegerProductIsExact
  intro j order r n hcls hbs hdense hperm a b ha _
  have hblock : ∀ i, (j.blockSum (cut 32 a) (cut 32 b) (cut 8 (j.plane.nibs.getD n [])) [] i).1.IsInt
      (((j.products r n).drop (32 * i)).take 32).sum := fun i => by
    have h := MatJob.blockSum_isInt hcls hdense (cut 32 a) (cut 32 b) (cut 8 (j.plane.nibs.getD n [])) i
    rwa [cut_getD (by decide), cut_getD (by decide), ← List.take_zipWith, ← List.drop_zipWith] at h
  have hcover : (j.products r n).length ≤ 32 * j.nb := by
    rw [MatJob.nb, MatJob.sb_int hcls hbs, MatJob.products, List.length_zipWith]
    exact Nat.le_trans (Nat.min_le_left ..) (Nat.le_trans (Nat.le_of_eq ha) (le_mul_ceilDiv (by decide) j.k))
  calc (j.element order [] r n).1.int
      = 0 + (order.map fun i => (((j.products r n).drop (32 * i)).take 32).sum).sum := by
        rw [MatJob.element_int hcls hbs hdense]
        exact (Val.IsInt.foldl_add hblock order (Val.isInt_zero false)).int_eq
    _ = ((List.range j.nb).map fun i => (((j.products r n).drop (32 * i)).take 32).sum).sum := by
        rw [Int.zero_add, perm_sum_eq (hperm.map _)]
    _ = (j.products r n).sum := by rw [sum_pieces, List.take_of_length_le hcover]

end Sys2Proof.Machine
end

section
/-! SUPPORT. The S stream's register results (spec/04 R94 to R103; spec/05 R125, R126): what a layout completes with, the values that
the model's word operations have as numbers and bits, and O8 to O14. -/

namespace Sys2Proof.Machine

/-! ### What a layout completes with -/

/-- A position whose operation has the value `v` completes with `v`, in the latch and, with W = 0, in its s register. -/
theorem Completes.value {i : Instr} {s : State} {e w : Bool} {d : Nat} {v v' : Word}
    (h : exec i s = .next (s.finish e (.done (toS d w v)))) (hv : v = v') : Completes i s e (toS d w v') := hv ▸ h

/-- A position that traps faults, whatever its E bit. -/
theorem Faults.trap {i : Instr} {s : State} {e : Bool} {c : Cause} (h : exec i s = .next (s.finish e (.trap c))) : Faults i s c := h

/-- A branch whose test decides `p` redirects exactly when `p` holds. -/
theorem branch_completes {i : Instr} {s : State} {e b : Bool} {tgt : Word} {p : Prop}
    (h : exec i s = .next (s.finish e (.done { post := if b then .goto tgt else .none }))) (hp : b = true ↔ p) :
    (p → Completes i s e { post := .goto tgt }) ∧ (¬p → Completes i s e {}) := by
  refine ⟨fun hyes => ?_, fun hno => ?_⟩
  · rw [if_pos (hp.2 hyes)] at h
    exact h
  · rw [if_neg fun hb => hno (hp.1 hb)] at h
    exact h

/-! ### Shifts as products and quotients -/

theorem shiftLeft_eq_word (a : Word) (n : Nat) : a <<< n = word (a.toNat * 2 ^ n) := by
  apply BitVec.eq_of_toNat_eq
  simp [Nat.shiftLeft_eq]

theorem shiftRight_eq_word (a : Word) (n : Nat) : a >>> n = word (a.toNat / 2 ^ n) := by
  have hlt : a.toNat / 2 ^ n < 2 ^ 64 := Nat.lt_of_le_of_lt (Nat.div_le_self ..) a.isLt
  apply BitVec.eq_of_toNat_eq
  rw [BitVec.toNat_ofNat, Nat.mod_eq_of_lt hlt, BitVec.toNat_ushiftRight, Nat.shiftRight_eq_div_pow]

theorem sshiftRight_eq_ofInt (a : Word) (n : Nat) : a.sshiftRight n = BitVec.ofInt 64 (a.toInt / 2 ^ n) := by
  simp [BitVec.sshiftRight, Int.shiftRight_eq_div_pow]

theorem ofInt_shiftLeft (x : Int) (n : Nat) : BitVec.ofInt 64 x <<< n = BitVec.ofInt 64 (x * 2 ^ n) := by
  have hpow : BitVec.ofInt 64 (2 ^ n) = BitVec.twoPow 64 n := by
    apply BitVec.eq_of_toNat_eq
    rw [two_pow_eq_cast, BitVec.ofInt_natCast, BitVec.toNat_ofNat, BitVec.toNat_twoPow]
  rw [BitVec.shiftLeft_eq_mul_twoPow, BitVec.ofInt_mul, hpow]

/-- A word counted in units of four bytes. -/
theorem shiftLeft_two (a : Word) : a <<< 2 = 4 * a := by
  rw [BitVec.shiftLeft_eq_mul_twoPow, BitVec.mul_comm]
  rfl

/-! ### Choices and tests -/

theorem minW_eq (a b : Word) : minW a b = if a.toInt ≤ b.toInt then a else b := by
  simp only [minW, BitVec.slt_eq_decide, decide_eq_true_eq, ← Int.not_le, ite_not]

theorem maxW_eq (a b : Word) : maxW a b = if b.toInt ≤ a.toInt then a else b := by
  simp only [maxW, BitVec.slt_eq_decide, decide_eq_true_eq, ← Int.not_le, ite_not]

/-- A test answers 1 where the relation that it decides holds, and 0 elsewhere. -/
theorem ofBool_eq {b : Bool} {p : Prop} [Decidable p] (h : b = true ↔ p) : ofBool b = if p then 1 else 0 := by
  simp [ofBool, h]

/-! ### Counts and reversal of bits -/

theorem foldl_add_bits (x : Nat) (l : List Nat) (n : Nat) :
    l.foldl (fun a i => a + x / 2 ^ i % 2) n = n + (l.filter fun i => x.testBit i).length := by
  induction l generalizing n with
  | nil => rfl
  | cons i l ih =>
    rw [List.foldl_cons, ih, List.filter_cons, Nat.testBit_eq_decide_div_mod_eq]
    obtain h | h := Nat.mod_two_eq_zero_or_one (x / 2 ^ i)
    · simp [h]
    · simp [h, Nat.add_assoc, Nat.add_comm 1]

theorem popCount_eq (n x : Nat) : popCount n x = ((List.range n).filter fun i => x.testBit i).length :=
  (foldl_add_bits x _ 0).trans (Nat.zero_add _)

/-- CLZ counts the zero bits above the highest one bit. -/
theorem clz64_spec (a : Word) : clz64 a ≤ 64 ∧ (∀ i, 64 - clz64 a ≤ i → a.getLsbD i = false) ∧
    (clz64 a < 64 → a.getLsbD (63 - clz64 a) = true) := by
  by_cases h : a = 0
  · subst h
    simp [clz64]
  · have hpos : a.toNat ≠ 0 := fun h0 => h (BitVec.eq_of_toNat_eq h0)
    have hlog : Nat.log2 a.toNat < 64 := (Nat.log2_lt hpos).2 a.isLt
    have hclz : clz64 a = 63 - Nat.log2 a.toNat := if_neg (by simpa using h)
    refine ⟨by omega, fun i hi => Nat.testBit_lt_two_pow ?_, fun _ => ?_⟩
    · exact Nat.lt_of_lt_of_le Nat.lt_log2_self (Nat.pow_le_pow_right (by decide) (by omega))
    · rw [hclz, Nat.sub_sub_self (by omega)]
      exact Nat.testBit_log2 hpos

/-- CTZ counts the zero bits below the lowest one bit. -/
theorem ctzFrom_spec (a n : Nat) : ctzFrom a n ≤ n ∧ (∀ i, i < ctzFrom a n → a.testBit i = false) ∧
    (ctzFrom a n < n → a.testBit (ctzFrom a n) = true) := by
  induction n generalizing a with
  | zero => simp [ctzFrom]
  | succ n ih =>
    by_cases hodd : a % 2 = 1
    · simp [ctzFrom, hodd]
    · obtain ⟨hle, hzero, hone⟩ := ih (a / 2)
      have hctz : ctzFrom a (n + 1) = ctzFrom (a / 2) n + 1 := by simp [ctzFrom, hodd, Nat.add_comm]
      rw [hctz]
      refine ⟨by omega, fun i hi => ?_, fun hlt => ?_⟩
      · cases i with
        | zero => simpa using hodd
        | succ i =>
          rw [Nat.testBit_succ]
          exact hzero i (by omega)
      · rw [Nat.testBit_succ]
        exact hone (by omega)

/-! ### Quotient and remainder -/

/-- A division by zero faults with DIVZERO, and any other completes (spec/04 R97). -/
theorem divide_faults_or_completes {i : Instr} {s : State} {e w : Bool} {d : Nat} {b v : Word}
    (h : exec i s = .next (s.finish e (if b == 0 then .trap { code := 21 } else .done (toS d w v)))) :
    (b = 0 → Faults i s { code := 21 }) ∧ (b ≠ 0 → Completes i s e (toS d w v)) := by
  refine ⟨fun h0 => .trap (e := e) ?_, fun h0 => ?_⟩
  · rw [h, if_pos (beq_iff_eq.2 h0)]
  · rwa [if_neg (mt beq_iff_eq.1 h0)] at h

/-- The one quotient beyond the range wraps to -2^63 (spec/04 R97). -/
theorem sdiv_srem_wrap {a b : Word} (ha : a.toInt = -2 ^ 63) (hb : b.toInt = -1) :
    (a.sdiv b).toInt = -2 ^ 63 ∧ a.srem b = 0 := by
  obtain rfl : a = BitVec.ofInt 64 (-2 ^ 63) := BitVec.eq_of_toInt_eq (ha.trans (by decide))
  obtain rfl : b = BitVec.ofInt 64 (-1) := BitVec.eq_of_toInt_eq (hb.trans (by decide))
  decide

/-- Every other quotient is exact and leaves a remainder below the divisor, with the sign of the dividend. -/
theorem sdiv_srem_exact {a b : Word} (hb : b ≠ 0) (hwrap : ¬(a.toInt = -2 ^ 63 ∧ b.toInt = -1)) :
    a.toInt = (a.sdiv b).toInt * b.toInt + (a.srem b).toInt ∧ (a.srem b).toInt.natAbs < b.toInt.natAbs ∧
      ((a.srem b).toInt ≠ 0 → ((a.srem b).toInt < 0 ↔ a.toInt < 0)) := by
  have hquot : (a.sdiv b).toInt = a.toInt.tdiv b.toInt := by
    refine BitVec.toInt_sdiv_of_ne_or_ne a b (Decidable.not_and_iff_not_or_not.1 ?_)
    rintro ⟨rfl, rfl⟩
    exact hwrap (by decide)
  have hb0 : b.toInt ≠ 0 := fun h => hb (BitVec.eq_of_toInt_eq h)
  rw [hquot, BitVec.toInt_srem]
  refine ⟨(Int.tdiv_mul_add_tmod ..).symm, ?_, fun hr => ?_⟩
  · rw [Int.natAbs_tmod]
    exact Nat.mod_lt _ (Int.natAbs_pos.2 hb0)
  · have hsign : (a.toInt.tmod b.toInt).sign = a.toInt.sign := by
      rw [Int.sign_tmod, if_neg fun hdvd => hr (Int.tmod_eq_zero_of_dvd hdvd)]
    rw [← Int.sign_eq_neg_one_iff_neg, hsign, Int.sign_eq_neg_one_iff_neg]

/-! ### Bit fields (spec/04 R100) -/

/-- BEXT reads the field as a signed number of its width. -/
theorem bext_eq (a b : Word) :
    (if bfWidth b == 0 then 0 else BitVec.ofInt 64 (signed (bfWidth b) (bfGet a b))) =
      if bfWidth b = 0 then (0 : Word) else if bfGet a b < 2 ^ (bfWidth b - 1) then word (bfGet a b)
        else BitVec.ofInt 64 ((bfGet a b : Int) - 2 ^ bfWidth b) := by
  have hmod : bfGet a b % 2 ^ bfWidth b = bfGet a b := Nat.mod_mod ..
  by_cases hw : bfWidth b = 0
  · simp [hw]
  · rw [if_neg (by simpa using hw), if_neg hw, signed, hmod, two_pow_eq_cast, apply_ite (BitVec.ofInt 64), BitVec.ofInt_natCast]

theorem getLsbD_word (x : Nat) {i : Nat} (hi : i < 64) : (word x).getLsbD i = x.testBit i := by
  rw [BitVec.getLsbD_ofNat]
  simp [hi]

/-- BINS replaces the bits of the field and no other. -/
theorem getLsbD_bfPut (d a b : Word) {i : Nat} (hi : i < 64) : (bfPut d a b).getLsbD i =
    if bfOff b ≤ i ∧ i < bfOff b + bfWidth b then a.getLsbD (i - bfOff b) else d.getLsbD i := by
  have hfield : bfOff b ≤ i ∧ i < bfOff b + bfWidth b ↔ bfOff b ≤ i ∧ i - bfOff b < bfWidth b := by omega
  simp only [bfPut, BitVec.getLsbD_or, BitVec.getLsbD_and, BitVec.getLsbD_not, getLsbD_word _ hi, hi, hfield, Nat.testBit_mul_two_pow,
    Nat.testBit_two_pow_sub_one, Nat.testBit_mod_two_pow]
  by_cases hlo : bfOff b ≤ i
  · by_cases hin : i - bfOff b < bfWidth b
    · simp [hlo, hin, BitVec.getLsbD]
    · simp [hlo, hin, BitVec.getLsbD]
  · simp [hlo, BitVec.getLsbD]

/-! ### Immediates (spec/04 R94) -/

theorem sext_eq {n i : Nat} (h : i < 2 ^ n) :
    sext n i = BitVec.ofInt 64 (if i < 2 ^ (n - 1) then (i : Int) else (i : Int) - 2 ^ n) := by
  rw [sext, signed, Nat.mod_eq_of_lt h, two_pow_eq_cast]

theorem sext13_eq {i : Nat} (h : i < 8192) :
    sext 13 i = BitVec.ofInt 64 (if i < 4096 then (i : Int) else (i : Int) - 8192) := sext_eq h

theorem sext19_eq {i : Nat} (h : i < 2 ^ 19) :
    sext 19 i = BitVec.ofInt 64 (if i < 2 ^ 18 then (i : Int) else (i : Int) - 2 ^ 19) := sext_eq h

/-- MOVHI's word: the immediate times 2^13 (spec/04 R99). -/
theorem sext19_shiftLeft_13 {i : Nat} (h : i < 2 ^ 19) :
    (sext 19 i <<< 13).toInt = (if i < 2 ^ 18 then (i : Int) else (i : Int) - 2 ^ 19) * 2 ^ 13 ∧
      (sext 19 i <<< 13).toNat % 2 ^ 13 = 0 := by
  rw [sext19_eq h, ofInt_shiftLeft, BitVec.toInt_ofInt, BitVec.toNat_ofInt]
  constructor
  · exact Int.bmod_eq_of_le (by omega) (by omega)
  · omega

/-! ### Jumps to a register (spec/04 R102) -/

/-- A jump faults with ALIGN at a misaligned target, with XLATE at an aligned one beyond 56 bits, and goes to any other. -/
theorem jump_faults_or_completes {i : Instr} {s : State} {e : Bool} {t : Word} {r : Res}
    (h : exec i s = .next (s.finish e (if t.toNat % 4 != 0 then .trap { code := 7, i0 := t }
      else if 2 ^ 56 ≤ t.toNat then .trap (xlateFault t.toNat 1 0) else .done r))) :
    (t.toNat % 4 = 0 → t.toNat < 2 ^ 56 → Completes i s e r) ∧ (t.toNat % 4 ≠ 0 → Faults i s { code := 7, i0 := t }) ∧
      (t.toNat % 4 = 0 → 2 ^ 56 ≤ t.toNat → ∃ x : Cause, Faults i s x ∧ x.code = 8 ∧ x.i0 = t) := by
  refine ⟨fun hal hlt => ?_, fun hal => .trap (e := e) ?_, fun hal hge => ⟨xlateFault t.toNat 1 0, .trap (e := e) ?_, rfl, ?_⟩⟩
  · rwa [if_neg (by simpa using hal), if_neg (Nat.not_le.2 hlt)] at h
  · rw [h, if_pos (by simpa using hal)]
  · rw [h, if_neg (by simpa using hal), if_pos hge]
  · exact BitVec.ofNat_toNat ..

/-! ### The obligations -/

/-- Settles O8: each form's word operation is the table's value. -/
theorem scalarRegister : Obligations.ScalarRegister := by
  unfold Obligations.ScalarRegister
  refine ⟨fun f s => ?_, fun f s => ?_⟩
  · exact ⟨rfl, rfl, rfl, rfl, rfl, rfl, rfl, rfl, .value rfl (shiftLeft_eq_word ..), .value rfl (shiftRight_eq_word ..),
      .value rfl (sshiftRight_eq_ofInt ..), rfl, .value rfl (minW_eq ..), .value rfl (maxW_eq ..), .value rfl (ofBool_eq beq_iff_eq),
      .value rfl (ofBool_eq BitVec.slt_iff_toInt_lt), .value rfl (ofBool_eq BitVec.ult_iff_toNat_lt)⟩
  · obtain ⟨hclz, hclz0, hclz1⟩ := clz64_spec (s.srcS f.a)
    obtain ⟨hctz, hctz0, hctz1⟩ := ctzFrom_spec (s.srcS f.a).toNat 64
    refine ⟨.value rfl (congrArg word (popCount_eq ..)), ⟨_, rfl, hclz, hclz0, hclz1⟩,
      ⟨_, rfl, hctz, hctz0, hctz1⟩, _, rfl, fun i hi => ?_⟩
    rw [BitVec.getLsbD_reverse, BitVec.getMsbD_eq_getLsbD]
    simp [hi]

/-- Settles O9: outside the wrapping case the model's quotient rounds toward zero, and the remainder is what that leaves. -/
theorem scalarDivide : Obligations.ScalarDivide := by
  unfold Obligations.ScalarDivide
  intro f s
  obtain ⟨hdiv0, hdiv⟩ := divide_faults_or_completes (i := .div f) (s := s) rfl
  obtain ⟨hrem0, hrem⟩ := divide_faults_or_completes (i := .rem f) (s := s) rfl
  refine ⟨fun h0 => ⟨hdiv0 h0, hrem0 h0⟩, fun h0 => ⟨_, _, hdiv h0, hrem h0, sdiv_srem_wrap, sdiv_srem_exact h0⟩⟩

/-- Settles O10: BEXTU and the funnel shifts as the table writes them, BEXT by the sign of the field, BINS bit by bit. -/
theorem scalarFields : Obligations.ScalarFields := by
  unfold Obligations.ScalarFields
  intro f s
  exact ⟨rfl, .value rfl (bext_eq ..), ⟨_, rfl, fun _ hi => getLsbD_bfPut _ _ _ hi⟩, rfl, rfl⟩

/-- Settles O11: the register forms' values, with the immediate in place of b. -/
theorem scalarImmediate : Obligations.ScalarImmediate := by
  unfold Obligations.ScalarImmediate
  refine ⟨fun f s hi => ?_, fun f s _ => ?_⟩
  · simp only [← sext13_eq hi]
    exact ⟨rfl, rfl, rfl, rfl, .value rfl (minW_eq ..), .value rfl (maxW_eq ..), .value rfl (ofBool_eq beq_iff_eq),
      .value rfl (ofBool_eq BitVec.slt_iff_toInt_lt), .value rfl (ofBool_eq BitVec.ult_iff_toNat_lt)⟩
  · exact ⟨.value rfl (shiftLeft_eq_word ..), .value rfl (shiftRight_eq_word ..), .value rfl (sshiftRight_eq_ofInt ..), rfl⟩

/-- Settles O12: the product of the immediate and 2^13 fits in 64 bits, so it is the value of the shifted word. -/
theorem scalarMovhi : Obligations.ScalarMovhi := by
  unfold Obligations.ScalarMovhi
  intro f s hi
  obtain ⟨hint, hnat⟩ := sext19_shiftLeft_13 hi
  exact ⟨_, rfl, hint, by omega, by omega, hnat⟩

/-- Settles O13: each branch's test decides the relation of its row, and a shift by 2 multiplies the offset by 4. -/
theorem branchesAndJumps : Obligations.BranchesAndJumps := by
  unfold Obligations.BranchesAndJumps
  refine ⟨fun f s hi => ?_, fun f s hi => ?_, fun f s hi => ?_, fun f s hi => ?_⟩
  · simp only [← sext13_eq hi, ← shiftLeft_two]
    refine ⟨branch_completes rfl beq_iff_eq, branch_completes rfl bne_iff_ne, branch_completes rfl BitVec.slt_iff_toInt_lt,
      branch_completes rfl ?_, branch_completes rfl BitVec.ult_iff_toNat_lt, branch_completes rfl ?_, branch_completes rfl ?_⟩
    · simp [BitVec.slt_eq_decide]
    · simp [BitVec.ult_eq_decide]
    · simp
  · rw [← sext19_eq hi, ← shiftLeft_two]
    rfl
  · rw [← sext19_eq hi, ← shiftLeft_two]
    rfl
  · simp only [← sext13_eq hi, ← shiftLeft_two]
    exact jump_faults_or_completes rfl

/-- Settles O14: the four moves complete with what their source reads. -/
theorem exchangeMoves : Obligations.ExchangeMoves := by
  unfold Obligations.ExchangeMoves
  exact fun f s => ⟨rfl, rfl, rfl, rfl⟩

end Sys2Proof.Machine
end

section
/-! SUPPORT. The S stream's memory instructions (spec/04 R104 to R118; spec/10 R288): where an access bypasses the read buffer, the
bytes that a load finds, what lines are dropped, and O21 to O24. -/

namespace Sys2Proof.Machine

/-! ### Bytes as numbers -/

theorem ofBytes_lt (l : List Byte) : ofBytes l < 2 ^ (8 * l.length) := by
  induction l with
  | nil => decide
  | cons b l ih =>
    have hb := b.isLt
    have hpow : 2 ^ (8 * (b :: l).length) = 256 * 2 ^ (8 * l.length) := by
      rw [List.length_cons, Nat.mul_add, Nat.pow_add, Nat.mul_comm]
    rw [ofBytes, hpow]
    omega

/-! ### Loads -/

theorem pastCells_length (p : Wr → Bool) (ws : List Wr) (cs : List Host.Cell) : (pastCells p ws cs).1.length = cs.length := by
  induction ws generalizing cs with
  | nil => rfl
  | cons r ws ih =>
    unfold pastCells
    split
    · exact ih cs
    · split
      · rfl
      · rw [ih, List.length_map]

theorem State.lookAll_length (s : State) (a : Nat) (keys : List Nat) : (s.lookAll a keys).1.length = keys.length := by
  unfold State.lookAll State.lookAs
  split
  · simp
  · simp [pastCells_length]

/-- Where every write is visible, a look finds the bytes of memory. -/
theorem State.lookAll_of_hist_nil {s : State} (h : s.hist = []) (a : Nat) (keys : List Nat) :
    s.lookAll a keys = (keys.map fun k => (k, Mem.read s.mem k), []) := by
  simp [State.lookAll, h]

theorem State.loadNum_lt (s : State) (l : Loc) (n : Nat) : s.loadNum l n < 2 ^ (8 * n) := by
  unfold State.loadNum
  split
  · simpa [upTo] using ofBytes_lt ((upTo n).map fun i => s.loadByte s.cur.core { l with key := l.key + i })
  · simpa [upTo, State.lookAll_length] using ofBytes_lt ((s.lookAll l.agent ((upTo n).map (l.key + ·))).1.map (·.2))

theorem State.loaded_of_hist_nil {s : State} (h : s.hist = []) (l : Loc) (n : Nat) : s.loaded l n = s := by
  simp [State.loaded, State.hasRead, h]

/-- An access that goes through does so where its address translates; one at the home bypasses the read buffer. -/
theorem State.access_ok {s : State} {va : Word} {n : Nat} {k : Kind} {home : Bool} {l : Loc} (h : s.access va n k home = .ok l) :
    ∃ l', s.xlate s.whoMe va.toNat k = .ok l' ∧ l = if home then { l' with cache := false } else l' := by
  unfold State.access at h
  dsimp only at h
  split at h
  · cases h
  split at h
  · cases h
  · cases h
  · next l' _ hl =>
    refine ⟨l', hl, ?_⟩
    generalize (if home = true then { l' with cache := false } else l') = x at h ⊢
    split at h
    · cases h
    split at h
    · cases h
    split at h
    · cases h
    · exact (Except.ok.inj h).symm

theorem State.access_home {s : State} {va : Word} {n : Nat} {k : Kind} {l : Loc} (h : s.access va n k true = .ok l) :
    l.cache = false := by
  obtain ⟨l', -, rfl⟩ := State.access_ok h
  rfl

/-- What LD makes of the `n` bytes it reads (spec/04 R105). -/
theorem ld_widens {n x : Nat} (z : Nat) (hx : x < 2 ^ (8 * n)) :
    (if ldSigned z then BitVec.ofInt 64 (signed (8 * n) x) else word x) =
      if z % 2 = 0 ∧ 2 ^ (8 * n - 1) ≤ x % 2 ^ (8 * n) then BitVec.ofInt 64 ((x % 2 ^ (8 * n) : Nat) - 2 ^ (8 * n)) else word x := by
  rw [Nat.mod_eq_of_lt hx, signed, Nat.mod_eq_of_lt hx, two_pow_eq_cast]
  by_cases hz : z % 2 = 0
  · by_cases hlow : x < 2 ^ (8 * n - 1)
    · simp [ldSigned, hz, hlow, Nat.not_le.2 hlow]
    · simp [ldSigned, hz, hlow, Nat.not_lt.1 hlow]
  · simp [ldSigned, hz]

theorem State.loadNum_home {s : State} {l : Loc} (hl : l.cache = false) (h : s.hist = []) (n : Nat) :
    s.loadNum l n = s.homeNum l.key n := by
  simp [State.loadNum, State.buffered, hl, State.lookAll_of_hist_nil h, State.homeNum, Mem.bytes, Function.comp_def]

/-! ### Lines of the read buffer -/

theorem State.mem_srb_dropLines (s : State) (x : Nat) (p : Nat → Bool) (y : Nat × List Byte) :
    y ∈ (s.dropLines x p).srb ↔ y ∈ s.srb ∧ ¬(y.1 % 16 = x ∧ p (y.1 / 16 * 256) = true) := by
  simp only [State.dropLines, List.mem_filter, Bool.not_eq_true', ← Bool.not_eq_true, Bool.and_eq_true, beq_iff_eq]

/-- An acquire drops lines of the moving core's sector alone: every line where it names all, those under its ranges else. -/
theorem State.acquire_eq_dropLines (s : State) (all : Bool) (va : Nat) :
    ∃ p, s.acquire all va = s.dropLines (sectorOf s.cur.core) p ∧ (all = true → p = fun _ => true) := by
  unfold State.acquire
  split
  · exact ⟨_, rfl, fun _ => rfl⟩
  · exact ⟨_, rfl, fun h => absurd h ‹_›⟩

/-! ### What comes before a store or a fence -/

/-- Settling the adds of lower positions changes the clause alone. -/
theorem State.coreOnly_settleAdds (s : State) : s.CoreOnly s.settleAdds := by
  unfold State.settleAdds
  split
  · exact .refl s
  · exact s.coreOnly_onMe _

theorem State.settleAdds_hist (s : State) : s.settleAdds.hist = s.hist := by
  unfold State.settleAdds
  split <;> rfl

theorem State.afterAdds_cur (s : State) (key n : Nat) : (s.afterAdds key n).cur = s.cur := by
  unfold State.afterAdds
  split
  · exact s.coreOnly_settleAdds.1
  · rfl

theorem State.afterAdds_hist (s : State) (key n : Nat) : (s.afterAdds key n).hist = s.hist := by
  unfold State.afterAdds
  split
  · exact s.settleAdds_hist
  · rfl

theorem State.coreOnly_onSight (s : State) (k : Strm) (f : Sight → Sight) : s.CoreOnly (s.onSight s.cur.core k f) :=
  s.coreOnly_onMe fun c => c.onStrm k fun t => { t with sight := f t.sight }

/-- An acquire of releases changes the moving stream's sight alone. -/
theorem State.coreOnly_takeRels (s : State) (w : Who) (agent : Nat) (cover : Cover) (rels : List Rel) :
    s.CoreOnly (s.takeRels w agent cover rels) := by
  unfold State.takeRels
  dsimp only
  split
  · exact .refl s
  · exact s.coreOnly_onSight ..

theorem State.coreOnly_fenceAcquire (s : State) (w : Who) (scope : Nat) : s.CoreOnly (s.fenceAcquire w scope) := by
  unfold State.fenceAcquire
  split
  · exact .refl s
  · exact s.coreOnly_takeRels ..

/-! ### Atomics -/

/-- An atomic whose access goes through and whose new value is `v` stores it and answers the old word. -/
theorem State.atomic_some {s : State} {e w : Bool} {d n code v : Nat} {va : Word} {g : Nat → Option Nat} {l : Loc}
    (h : s.access va n .atomic true = .ok l)
    (hg : g ((s.afterAdds l.key n).atomicWord (atomWidth code l.target) l.key n) = some v) :
    s.atomic e d w va n code g =
      let s' := s.afterAdds l.key n
      let r : Res := { toS d w (word (s'.atomicWord (atomWidth code l.target) l.key n)) with rests := (upTo n).map (l.key + ·) }
      (s'.readHome ((upTo n).map (l.key + ·))).finish e (.done { r with effs := r.effs ++
        [.store (cellsAt l.key (bytesOf n v)) va.toNat { grain := 0, scope := some (atomWidth code l.target) }] }) := by
  simp only [State.atomic, h, hg]

/-- One that stores nothing answers the old word and drops its line of the read buffer. -/
theorem State.atomic_none {s : State} {e w : Bool} {d n code : Nat} {va : Word} {g : Nat → Option Nat} {l : Loc}
    (h : s.access va n .atomic true = .ok l)
    (hg : g ((s.afterAdds l.key n).atomicWord (atomWidth code l.target) l.key n) = none) :
    s.atomic e d w va n code g =
      let s' := s.afterAdds l.key n
      ((s'.readHome ((upTo n).map (l.key + ·))).dropLines (sectorOf s.cur.core) fun k => k == l.key / 256 * 256).finish e
        (.done { toS d w (word (s'.atomicWord (atomWidth code l.target) l.key n)) with rests := (upTo n).map (l.key + ·) }) := by
  simp only [State.atomic, h, hg, State.afterAdds_cur]

/-- Where every write is visible, an atomic finds the newest word. -/
theorem State.atomicWord_of_hist_nil {s : State} (h : s.hist = []) (scope key n : Nat) : s.atomicWord scope key n = s.homeAfter key n := by
  simp [State.atomicWord, h]

/-- f(m, v) of each operation of AMO (spec/04 R111). -/
theorem amoOp_spec (o n m v : Nat) :
    (o = 0 → amoOp o n m v = v) ∧ (o = 1 → amoOp o n m v = (m + v) % 2 ^ n) ∧ (o = 2 → amoOp o n m v = m &&& v) ∧
      (o = 3 → amoOp o n m v = m ||| v) ∧ (o = 4 → amoOp o n m v = m ^^^ v) ∧
      (o = 5 → amoOp o n m v = if signed n v < signed n m then v else m) ∧
      (o = 6 → amoOp o n m v = if signed n m < signed n v then v else m) ∧ (o = 7 → amoOp o n m v = max m v) := by
  have hmax : (if m < v then v else m) = max m v := by
    by_cases h : m < v
    · rw [if_pos h, Nat.max_eq_right (Nat.le_of_lt h)]
    · rw [if_neg h, Nat.max_eq_left (Nat.not_lt.1 h)]
  refine ⟨?_, ?_, ?_, ?_, ?_, ?_, ?_, ?_⟩ <;> rintro rfl
  case refine_8 => exact hmax
  all_goals rfl

/-! ### The instructions -/

theorem exec_ld (f : LdF) (s : State) : exec (.ld f) s = execLd f s := rfl
theorem exec_lda (f : LdaF) (s : State) : exec (.lda f) s = execLda f s := rfl
theorem exec_acq (f : AcqF) (s : State) : exec (.acq f) s = execAcq f s := rfl
theorem exec_st (f : StF) (s : State) : exec (.st f) s = execSt f s := rfl
theorem exec_strel (f : StrelF) (s : State) : exec (.strel f) s = execStrel f s := rfl
theorem exec_rel (f : AcqF) (s : State) : exec (.rel f) s = execRel f s := rfl
theorem exec_nadd (f : NaddF) (s : State) : exec (.nadd f) s = execNadd f s := rfl

/-- LD whose access goes through completes with what it makes of the bytes, and fills their line. -/
theorem execLd_of_access {f : LdF} {s : State} {l : Loc}
    (h : s.access (s.srcS f.a + sext 10 f.o * word (ldSize f.z)) (ldSize f.z) .read false = .ok l) :
    let n := ldSize f.z
    let x := s.loadNum l n
    let r := toS f.d f.w (if ldSigned f.z then BitVec.ofInt 64 (signed (8 * n) x) else word x)
    execLd f s = .next ((s.loaded l n).finish f.e (.done { r with effs := r.effs ++ s.fillOf l })) := by
  simp only [execLd, h]

/-- Settles O21: each exec is its arm under an access that goes through; a read of `n` bytes is below 2^(8n), and at the home, with
every write visible, it is that of memory. -/
theorem scalarLoads : Obligations.ScalarLoads := by
  unfold Obligations.ScalarLoads
  refine ⟨fun f s l _ => ?_, fun f s l => ?_, fun f s l => ?_⟩
  · intro n h x v
    have hv : (if ldSigned f.z then BitVec.ofInt 64 (signed (8 * n) x) else word x) = v := ld_widens f.z (s.loadNum_lt l n)
    have hexec : exec (.ld f) s =
        .next ((s.loaded l n).finish f.e (.done { toS f.d f.w v with effs := (toS f.d f.w v).effs ++ s.fillOf l })) := by
      rw [← hv]
      exact execLd_of_access h
    exact ⟨fun hh => State.loaded_of_hist_nil hh l n, _, hexec, rfl, rfl, rfl, rfl⟩
  · dsimp only
    intro h
    exact ⟨fun hh => State.loadNum_home (State.access_home h) hh 8, by simp only [exec_lda, execLda, h]⟩
  · dsimp only
    intro h
    simp only [exec_acq, execAcq, h]

/-- Settles O22: an acquire is a drop of lines of its own sector. -/
theorem acquireDropsLines : Obligations.AcquireDropsLines := by
  unfold Obligations.AcquireDropsLines
  intro s all va
  obtain ⟨p, hdrop, hall⟩ := s.acquire_eq_dropLines all va
  rw [hdrop]
  simp only [State.mem_srb_dropLines]
  refine ⟨fun h x ⟨_, hkept⟩ hs => hkept ⟨hs, by rw [hall h]⟩, fun x hx hs => ⟨hx, fun h => hs h.1⟩, fun x hx => hx.1, rfl,
    rfl, rfl, rfl, rfl, rfl⟩

/-- Settles O23: each exec is its arm under an access that goes through; what FENCE does before it drops lines changes the moving core
alone. -/
theorem scalarStores : Obligations.ScalarStores := by
  unfold Obligations.ScalarStores
  refine ⟨fun f s l => ?_, fun f s l => ?_, fun f s l => ?_, fun f s l => ?_, fun f s => ?_⟩
  · dsimp only
    intro h
    simp only [exec_st, execSt, h]
  · dsimp only
    intro h
    simp only [exec_strel, execStrel, h]
  · dsimp only
    intro h
    simp only [exec_rel, execRel, h]
  · dsimp only
    intro h
    simp only [Completes, exec_nadd, execNadd, beq_iff_eq, h]
  · obtain ⟨hcur, hmem, hsrb, -⟩ := s.coreOnly_settleAdds.trans (s.settleAdds.coreOnly_fenceAcquire (s.who s.cur.core) f.s)
    refine ⟨_, rfl, ?_, fun hs => ?_, fun hs => ?_⟩
    · rw [apply_ite State.mem, State.dropLines_mem, ite_self, hmem]
    · rw [if_pos hs, hsrb]
    · rw [if_neg (Nat.not_le.2 hs), hcur]
      intro x hx hsec
      exact ((State.mem_srb_dropLines ..).1 hx).2 ⟨hsec, rfl⟩

/-- Settles O24: `State.atomic` by whether its function gives a new value, that of CAS by its comparison, that of AMO always. -/
theorem scalarAtomics : Obligations.ScalarAtomics := by
  unfold Obligations.ScalarAtomics
  refine ⟨fun f s l => ?_, fun f s l _ => ?_⟩
  · intro n h s' m ks old r
    refine ⟨fun hh => State.atomicWord_of_hist_nil (by rw [State.afterAdds_hist, hh]) .., ?_⟩
    rw [apply_ite Host.Outcome.next]
    by_cases hm : m = old.toNat % 2 ^ (8 * n)
    · rw [if_pos hm]
      exact congrArg Host.Outcome.next (State.atomic_some h (if_pos (beq_iff_eq.2 hm)))
    · rw [if_neg hm]
      exact congrArg Host.Outcome.next (State.atomic_none h (if_neg (mt beq_iff_eq.1 hm)))
  · intro n h s' m ks v r
    obtain ⟨h0, h1, h2, h3, h4, h5, h6, h7⟩ := amoOp_spec f.o (8 * n) m v
    exact ⟨_, h0, h1, h2, h3, h4, h5, h6, h7,
      congrArg Host.Outcome.next (State.atomic_some (g := fun m => some (amoOp f.o (8 * n) m v)) h rfl)⟩

end Sys2Proof.Machine
end

section
/-! SUPPORT. BIND and UNBIND (spec/04 R119 to R121): the outcomes of the binding table, and O25. -/

namespace Sys2Proof.Machine

/-! ### The outcome of BIND -/

/-- Whether a live entry of another object overlaps the range of `len` bytes at `base` (spec/04 R119). -/
def bindClash (t : Tab (BitVec 256)) (len base obj : Nat) : Bool :=
  (t.filter fun e => bindLive e.2).any fun e => bits e.2.toNat 63 0 != obj && bits e.2.toNat 127 64 < base + len
    && base < bits e.2.toNat 127 64 + bits e.2.toNat 191 128

/-- The lowest index of the table that is not live. -/
def bindFree (t : Tab (BitVec 256)) : Option Nat := (upTo 64).find? fun i => !((t.filter fun e => bindLive e.2).any fun e => e.1 == i)

/-- The order of BIND's outcomes: the range, the overlap, the free entry. -/
theorem bindOutcome_eq (t : Tab (BitVec 256)) (len base obj : Nat) : bindOutcome t len base obj =
    if len = 0 ∨ 2 ^ 56 < base + len then (BitVec.ofInt 64 (-3), none)
    else if bindClash t len base obj = true then (BitVec.ofInt 64 (-2), none)
    else match bindFree t with
      | some i => (word i, some i)
      | none => (BitVec.ofInt 64 (-1), none) := by
  unfold bindOutcome
  simp only [Bool.or_eq_true, beq_iff_eq, decide_eq_true_eq]
  rfl

/-- An index is live where some live entry stands at it. -/
theorem any_fst_eq_true {l : Tab (BitVec 256)} {i : Nat} : (l.any fun e => e.1 == i) = true ↔ ∃ e ∈ l, e.1 = i := by
  simp only [List.any_eq_true, beq_iff_eq]

theorem bindFree_eq_none {t : Tab (BitVec 256)} (h : ∀ i, i < 64 → ∃ e ∈ t.filter fun e => bindLive e.2, e.1 = i) :
    bindFree t = none := by
  unfold bindFree
  rw [List.find?_eq_none]
  intro i hi
  rw [any_fst_eq_true.2 (h i (List.mem_range.1 hi))]
  decide

theorem bindFree_eq_some {t : Tab (BitVec 256)} {i : Nat} (hi : i < 64) (hfree : ∀ e ∈ t.filter fun e => bindLive e.2, e.1 ≠ i)
    (hlow : ∀ j, j < i → ∃ e ∈ t.filter fun e => bindLive e.2, e.1 = j) : bindFree t = some i := by
  unfold bindFree upTo
  rw [List.find?_range_eq_some]
  refine ⟨?_, List.mem_range.2 hi, fun j hj => ?_⟩
  · rw [Bool.not_eq_true', ← Bool.not_eq_true, any_fst_eq_true]
    exact fun ⟨e, he, hi⟩ => hfree e he hi
  · rw [any_fst_eq_true.2 (hlow j hj)]
    rfl

section
variable {t : Tab (BitVec 256)} {len base obj : Nat}

theorem bindOutcome_badRange (h : len = 0 ∨ 2 ^ 56 < base + len) : bindOutcome t len base obj = (BitVec.ofInt 64 (-3), none) := by
  rw [bindOutcome_eq, if_pos h]

theorem bindOutcome_overlap (h : ¬(len = 0 ∨ 2 ^ 56 < base + len)) (hc : bindClash t len base obj = true) :
    bindOutcome t len base obj = (BitVec.ofInt 64 (-2), none) := by
  rw [bindOutcome_eq, if_neg h, if_pos hc]

theorem bindOutcome_full (h : ¬(len = 0 ∨ 2 ^ 56 < base + len)) (hc : bindClash t len base obj = false) (hf : bindFree t = none) :
    bindOutcome t len base obj = (BitVec.ofInt 64 (-1), none) := by
  rw [bindOutcome_eq, if_neg h, if_neg (ne_true_of_eq_false hc), hf]

theorem bindOutcome_free {i : Nat} (h : ¬(len = 0 ∨ 2 ^ 56 < base + len)) (hc : bindClash t len base obj = false)
    (hf : bindFree t = some i) : bindOutcome t len base obj = (word i, some i) := by
  rw [bindOutcome_eq, if_neg h, if_neg (ne_true_of_eq_false hc), hf]

end

/-! ### The instructions -/

theorem exec_bind_of_misaligned {f : BindF} {s : State} (h : (s.srcS f.a).toNat % 8 ≠ 0) :
    exec (.bind f) s = .next (s.restOnBinds.finish f.e (.trap { code := 7, i0 := s.srcS f.a })) := by
  show execBind f s = _
  simp [execBind, h]

/-- BIND that answers `v` and writes no entry. -/
theorem exec_bind_of_none {f : BindF} {s : State} {v : Word} (h : (s.srcS f.a).toNat % 8 = 0)
    (ho : bindOutcome s.bindsNow (s.vw.sreg (f.b + 1)).toNat (s.vw.sreg f.b).toNat (s.srcS f.a).toNat = (v, none)) :
    exec (.bind f) s = .next (s.restOnBinds.finish f.e (.done (toS f.d f.w v))) := by
  show execBind f s = _
  simp [execBind, h, ho]

/-- BIND that answers `v` and writes entry `i`. -/
theorem exec_bind_of_some {f : BindF} {s : State} {v : Word} {i : Nat} (h : (s.srcS f.a).toNat % 8 = 0)
    (ho : bindOutcome s.bindsNow (s.vw.sreg (f.b + 1)).toNat (s.vw.sreg f.b).toNat (s.srcS f.a).toNat = (v, some i)) :
    exec (.bind f) s = .next (s.restOnBinds.finish f.e (.done { toS f.d f.w v with effs := (toS f.d f.w v).effs ++
      [.bind i (bindEntry f.s (s.vw.sreg (f.b + 1)).toNat (s.vw.sreg f.b).toNat (s.srcS f.a).toNat)] })) := by
  show execBind f s = _
  simp [execBind, h, ho]

/-- Settles O25: BIND by the order of its outcomes, UNBIND by what its effects are mapped from. -/
theorem bindings : Obligations.Bindings := by
  unfold Obligations.Bindings
  refine ⟨fun f s => ⟨exec_bind_of_misaligned, fun h => ⟨fun hbad => ?_, fun hok hclash => ?_, fun hok hclash hfull => ?_,
    fun i hok hclash hi hfree hlow => ?_⟩⟩, fun f s => ⟨_, rfl, rfl, fun e => ?_⟩⟩
  · exact exec_bind_of_none h (bindOutcome_badRange hbad)
  · exact exec_bind_of_none h (bindOutcome_overlap hok hclash)
  · exact exec_bind_of_none h (bindOutcome_full hok hclash (bindFree_eq_none hfull))
  · exact exec_bind_of_some h (bindOutcome_free hok hclash (bindFree_eq_some hi hfree hlow))
  · simp only [List.mem_append, List.mem_map, eq_comm (b := e)]

end Sys2Proof.Machine
end

section
/-! SUPPORT. The A stream's arithmetic, descriptors, tiles, vectors and stream registers (spec/05 R123 to R142): what a position that a check
may deny completes with, the validity bits of a loaded tile, and O32 and O33. -/

namespace Sys2Proof.Machine

/-! ### Address arithmetic (spec/05 R123, R124) -/

/-- The same as `Completes.value` for a position that writes an a register. -/
theorem Completes.valueA {i : Instr} {s : State} {e w : Bool} {d : Nat} {v v' : Word}
    (h : exec i s = .next (s.finish e (.done (toA d w v)))) (hv : v = v') : Completes i s e (toA d w v') := hv ▸ h

/-- Settles O32: each form's word operation is the table's value. -/
theorem addressArithmetic : Obligations.AddressArithmetic := by
  unfold Obligations.AddressArithmetic
  refine ⟨fun f s => ?_, fun f s hi => ?_, fun f s _ => ?_⟩
  · exact ⟨rfl, rfl, rfl, .valueA rfl (shiftLeft_eq_word ..), .valueA rfl (shiftRight_eq_word ..), rfl, rfl,
      .valueA rfl (minW_eq ..), .valueA rfl (maxW_eq ..)⟩
  · simp only [← sext13_eq hi]
    exact ⟨rfl, rfl, rfl, rfl, .valueA rfl (minW_eq ..), .valueA rfl (maxW_eq ..)⟩
  · exact ⟨.valueA rfl (shiftLeft_eq_word ..), .valueA rfl (shiftRight_eq_word ..)⟩

/-! ### Positions that a check may deny -/

/-- A position that a check may deny completes with what the check lets through. -/
theorem Completes.of_got {i : Instr} {s : State} {e : Bool} {x : Except Deny Res} {r : Res}
    (h : exec i s = .next (s.finish e (gotOf x))) (hx : x = .ok r) : Completes i s e r := by
  rw [hx] at h
  exact h

theorem Core.slotImg_of_some {c : Core} {n : Nat} {img : BitVec 512} (h : c.slot n = some img) : c.slotImg n = .ok img.toNat := by
  simp [Core.slotImg, h]

/-- What TDINFO gives for each selector (spec/05 R132). -/
theorem tdinfo_spec (n sel : Nat) :
    (sel = 0 → tdinfo n sel = word (dBase n)) ∧ (sel = 1 → tdinfo n sel = word (bits n 95 64)) ∧
      (∀ k, k < 5 → sel = 2 + k → tdinfo n sel = word (dSize n k)) ∧
      (∀ k, k < 5 → sel = 7 + k → tdinfo n sel = BitVec.ofInt 64 (dStride n k)) ∧
      (sel = 12 → tdinfo n sel = word (dFill n)) ∧ (sel = 13 → tdinfo n sel = word (bits n 455 448)) ∧
      (sel = 14 → tdinfo n sel = word (dSidecar n)) ∧ (sel = 15 → tdinfo n sel = word (dCount n)) ∧
      (15 < sel → tdinfo n sel = 0) := by
  refine ⟨?_, ?_, fun k hk => ?_, fun k hk => ?_, ?_, ?_, ?_, ?_, fun h => ?_⟩
  · rintro rfl; rfl
  · rintro rfl; rfl
  · rintro rfl
    obtain rfl | rfl | rfl | rfl | rfl : k = 0 ∨ k = 1 ∨ k = 2 ∨ k = 3 ∨ k = 4 := by omega
    all_goals rfl
  · rintro rfl
    obtain rfl | rfl | rfl | rfl | rfl : k = 0 ∨ k = 1 ∨ k = 2 ∨ k = 3 ∨ k = 4 := by omega
    all_goals rfl
  · rintro rfl; rfl
  · rintro rfl; rfl
  · rintro rfl; rfl
  · rintro rfl; rfl
  · have hne : sel ≠ 0 ∧ sel ≠ 1 ∧ ¬sel ≤ 6 ∧ ¬sel ≤ 11 ∧ sel ≠ 12 ∧ sel ≠ 13 ∧ sel ≠ 14 ∧ sel ≠ 15 := by omega
    simp [tdinfo, hne]

/-- The sum of the powers of two that a test keeps below `n`. -/
def rowBits (p : Nat → Bool) (n : Nat) : Nat := (upTo n).foldl (fun a r => if p r then a + 2 ^ r else a) 0

theorem rowBits_succ (p : Nat → Bool) (n : Nat) : rowBits p (n + 1) = if p n then rowBits p n + 2 ^ n else rowBits p n := by
  simp [rowBits, upTo, List.range_succ]

theorem rowBits_lt (p : Nat → Bool) (n : Nat) : rowBits p n < 2 ^ n := by
  induction n with
  | zero => simp [rowBits, upTo]
  | succ n ih =>
    rw [rowBits_succ, Nat.pow_succ]
    split <;> omega

theorem testBit_rowBits (p : Nat → Bool) (n i : Nat) : (rowBits p n).testBit i = (decide (i < n) && p i) := by
  induction n with
  | zero => simp [rowBits, upTo]
  | succ n ih =>
    have hor : rowBits p n + 2 ^ n = 2 ^ n ||| rowBits p n := by
      simpa [Nat.add_comm] using Nat.two_pow_add_eq_or_of_lt (rowBits_lt p n) 1
    rw [rowBits_succ, hor, apply_ite (Nat.testBit · i), Nat.testBit_or, Nat.testBit_two_pow, ih]
    obtain hi | rfl | hi := Nat.lt_trichotomy i n
    · simp [hi, Nat.ne_of_gt hi, Nat.lt_succ_of_lt hi]
    · simp
    · simp [Nat.not_lt.2 (Nat.le_of_lt hi), Nat.ne_of_lt hi, Nat.not_lt.2 hi]

/-- What TLD makes of a tile (spec/05 R134). -/
def Tile.load (old : Tile) (w : Word) (n : Nat) (o : Coord) (tr scales : Bool) (xs : List Nat) : Tile :=
  { old with
    data := ((tilePlaces w scales).zip xs).foldl
      (fun m p => if scales then tPutScale w m p.1.1 p.1.2 p.2 else tPut w m p.1.1 p.1.2 p.2) old.data
    valid := if scales then old.valid &&& BitVec.ofNat 256 (2 ^ tRows w - 1)
      else BitVec.ofNat 256 (rowBits (rowIn n o tr) (tRows w)) }

/-- The validity bits that TLD leaves: those of the rows inside the tensor, or, for scales, the old ones of the rows of the shape. -/
theorem Tile.getLsbD_load_valid (old : Tile) (w : Word) (n : Nat) (o : Coord) (tr scales : Bool) (xs : List Nat) {r : Nat} (hr : r < 256) :
    (old.load w n o tr scales xs).valid.getLsbD r = (decide (r < tRows w) && if scales then old.valid.getLsbD r else rowIn n o tr r) := by
  cases scales
  · simp [Tile.load, -BitVec.getLsbD_eq_getElem, BitVec.getLsbD_ofNat, hr, testBit_rowBits]
  · simp [Tile.load, -BitVec.getLsbD_eq_getElem, BitVec.getLsbD_ofNat, hr, Nat.testBit_two_pow_sub_one, Bool.and_comm]

/-- TLD whose elements read and whose blocks match completes with the tile it makes, and fills the lines it missed. -/
theorem tld_completes {f : TldF} {s : State} {n : Nat} {o : Coord} {w : Word} {xs : List Nat} {ls : List Loc}
    (hprep : s.tilePrep f.d f.a f.b f.s = .ok (n, o, w)) (hdense : dCrcchk n = true → dDense n = true ∧ dSideOk n = true)
    (hread : s.readElems (s.mode .read false) n ((tilePlaces w f.s).map fun p => tileCoord o f.t p.1 p.2) = .ok (xs, ls))
    (hcrc : s.loadCrc (s.mode .read false) n ((tilePlaces w f.s).map fun p => tileCoord o f.t p.1 p.2) = .ok ()) :
    Completes (.tld f) s f.e { effs := .tile f.d ((s.vw.tile f.d).load w n o f.t f.s xs) :: s.fillsOf ls } := by
  have hside : ¬(dCrcchk n && !(dDense n && dSideOk n)) = true := by
    simpa using hdense
  refine .of_got (show exec (.tld f) s = execTld f s from rfl) ?_
  simp only [hprep, hread, hcrc]
  rw [if_neg hside]
  rfl

/-- Settles O33: each exec is its arm under the checks that its hypotheses name. -/
theorem descriptorsAndTiles : Obligations.DescriptorsAndTiles := by
  unfold Obligations.DescriptorsAndTiles
  refine ⟨fun f s img => ?_, fun f s img h => ?_, fun f s n o w xs ls => ?_, fun f s n o w cells => ?_, fun f s n o xs ls => ?_,
    fun f s n o cells => ?_, fun f s n b => ?_, fun f s => rfl, fun f s => rfl⟩
  · intro va h0 himg
    exact .of_got (show exec (.tdmake f) s = execTdmake f s from rfl) (by rw [if_neg (Int.not_lt.2 h0), himg])
  · exact ⟨_, .of_got rfl (by rw [Core.slotImg_of_some h]), tdinfo_spec _ _⟩
  · intro m ps cs hprep hcrc hread hload
    refine ⟨_, tld_completes hprep hcrc hread hload, rfl, rfl, fun hs r hr => ?_, fun hs r hr => ?_⟩
    · simp [Tile.getLsbD_load_valid _ _ _ _ _ _ _ hr, hs]
    · simp [Tile.getLsbD_load_valid _ _ _ _ _ _ _ hr, hs]
  · intro t hprep hb hn hw
    exact .of_got rfl (by simp [hprep, State.storeElems, hb, hn, hw, t])
  · intro himg ho ht hv hread hcap
    exact .of_got rfl (by simp [himg, ho, ht, hread, Nat.not_lt.2 hv, Nat.not_lt.2 hcap])
  · intro v himg ho ht hb hn hw
    exact .of_got rfl (by simp [himg, ho, v, ht, State.storeElems, hb, hn, hw])
  · intro himg hb hbad
    exact .of_got rfl (by simp [himg, hb, hbad])

end Sys2Proof.Machine
end

section
/-! SUPPORT. Copies (spec/05 R143 to R148, R155): channels that are not suspended, the transfer that a copy queues, and O34. -/

namespace Sys2Proof.Machine

/-! ### Channels that are not suspended -/

theorem State.retryChan_of_running {s : State} {c ch : Nat} (h : ((s.core c).chan ch).susp = none) : s.retryChan c ch = .ok s := by
  simp only [State.retryChan, h]

/-- With none of its channels suspended an instruction that waits on channels goes on at once. -/
theorem State.withChans_of_running {s : State} {e late : Bool} {chs : List Nat} {go : State → State}
    (h : ∀ ch ∈ chs, (s.me.chan ch).susp = none) : s.withChans e late chs go = go s := by
  have hretry : s.retryChans chs = .ok (s, false) := by
    induction chs with
    | nil => rfl
    | cons ch r ih =>
      rw [State.retryChans, h ch (List.mem_cons_self ..)]
      exact ih fun c hc => h c (List.mem_cons_of_mem _ hc)
  simp only [State.withChans, hretry]

/-! ### Copies -/

/-- The transfer that a copy of descriptor `src` to `tgt`, a descriptor or a tile, queues on channel `ch` (spec/05 R144). -/
def State.newTransfer (s : State) (ch src : Nat) (tgt : Nat ⊕ (Nat × Tile)) (ctl : Word) (crc check : Bool) : Transfer :=
  { ident := (s.me.chan ch).next, src := BitVec.ofNat 512 src, ctl := ctl, crc := crc, check := check, sup := s.me.trap.super
    dst := tgt.elim (BitVec.ofNat 512) fun _ => 0
    tile := tgt.elim (fun _ => none) fun t => some t.1 }

/-- A copy that its checks let through completes with the channel's next identifier, and queues the transfer under it. -/
theorem State.issueCopy_of_checked {s : State} {e : Bool} {d ch slot src : Nat} {tgt : Nat ⊕ (Nat × Tile)} {crc check : Bool}
    (hsusp : (s.me.chan ch).susp = none) (hroom : (s.me.chan ch).queue.length < 16) (hnext : (s.me.chan ch).next < 2 ^ 48)
    (hsrc : s.vw.slotImg slot = .ok src) (hchk : copyCheck src (tgt.map id Prod.snd) (s.vw.areg d) crc check = none) :
    s.issueCopy e d ch slot (.ok tgt) crc check = s.finish e (.done
      { latch := .word (word (s.me.chan ch).next)
        effs := [.transfer ch (s.newTransfer ch src tgt (s.vw.areg d) crc check), .areg d (word (s.me.chan ch).next)] }) := by
  rw [State.issueCopy, State.withChans_of_running (by simpa using hsusp)]
  dsimp only
  rw [if_neg (Nat.not_le.2 hroom)]
  obtain n | t := tgt
  · simp only [Sum.map_inl, id] at hchk
    simp only [hsrc, hchk, if_neg (Nat.not_le.2 hnext)]
    rfl
  · simp only [Sum.map_inr] at hchk
    simp only [hsrc, hchk, if_neg (Nat.not_le.2 hnext)]
    rfl

/-- CWAIT whose identifier has been issued and completed is over: its stream comes after the writes of the transfers up to it. -/
theorem execCwait_of_done {f : CwaitF} {s : State} (hsusp : (s.me.chan f.h).susp = none)
    (hissued : (s.srcA f.a).toNat < (s.me.chan f.h).next) (hdone : (s.srcA f.a).toNat ≤ (s.me.chan f.h).cdone) (hpass : s.passed = false) :
    execCwait f s = .next ((s.takeCopies f.h fun n => decide (n ≤ (s.srcA f.a).toNat)).pass.finish f.e (.done {})) := by
  simp only [execCwait, hpass, Bool.false_eq_true, if_false]
  rw [State.withChans_of_running (by simpa using hsusp)]
  simp only [if_neg (Nat.not_le.2 hissued), if_neg (Nat.not_lt.2 hdone)]

/-- CSTAGE with no effect before it in its clause completes with what its release of entries comes to. -/
theorem execCstage_of_released {f : DstNum} {s : State} {ids : List Nat} {ts : List Eff} (heffs : s.cl.effs = [])
    (h : s.schedRelease (min (s.me.copy.stg + f.n) 256) s.me.copy.released [] [] (upTo s.me.copy.schedCount) = .ok ids ts) :
    execCstage f s = .next (s.finish f.e (.done (let r := toA f.d f.w (word (min (s.me.copy.stg + f.n) 256))
      { r with effs := r.effs ++ ts ++ [.stage (min (s.me.copy.stg + f.n) 256) ids] }))) := by
  simp only [execCstage, heffs, List.foldl_nil, h]

/-- Settles O34: each exec is its arm where the channels it waits on are not suspended; a retry of a channel that is not leaves the state. -/
theorem copyInstructions : Obligations.CopyInstructions := by
  unfold Obligations.CopyInstructions
  refine ⟨fun f s src dst => ?_, fun f s src => ?_, fun f s hsusp hissued hdone => ⟨fun hp => ?_, execCwait_of_done hsusp hissued hdone⟩,
    fun f s t => ⟨fun hsusp => ?_, fun h => ?_, rfl⟩, fun f s ids ts _ heffs => execCstage_of_released heffs⟩
  · intro h ctl hsusp hroom hnext hsrc hdst hchk
    refine ⟨s.newTransfer f.h src (.inl dst) ctl f.c f.k, rfl, rfl, rfl, rfl, rfl, rfl, rfl, rfl, ?_⟩
    show execTcopy f s = _
    simp only [execTcopy, hdst]
    exact congrArg Host.Outcome.next (State.issueCopy_of_checked hsusp hroom hnext hsrc hchk)
  · intro h ctl hsusp hroom hnext hsrc hchk
    exact ⟨s.newTransfer f.h src (.inr (f.b, s.vw.tile f.b)) ctl false f.k, rfl, rfl, rfl, rfl, rfl, rfl, rfl,
      congrArg Host.Outcome.next (State.issueCopy_of_checked hsusp hroom hnext hsrc hchk)⟩
  · show execCwait f s = _
    simp only [execCwait, hp, if_true]
  · show execCresume f s = _
    simp only [execCresume, State.retryChan_of_running hsusp]
  · show execCresume f s = _
    simp only [execCresume, h]

end Sys2Proof.Machine
end

section
/-! SUPPORT. Barrier objects and CRCGET (spec/05 R150 to R153): the fields of a barrier's word, what an acquire leaves alone, and O35. -/

namespace Sys2Proof.Machine

/-! ### The word of a barrier (spec/05 R151) -/

theorem bits_lt (w hi lo : Nat) : bits w hi lo < 2 ^ (hi + 1 - lo) := Nat.mod_lt _ (Nat.two_pow_pos _)

theorem bit_eq_bits (w n : Nat) : bit w n = decide (bits w n n = 1) := by
  rw [bit, bits, Nat.add_sub_cancel_left, Nat.pow_one]
  rfl

/-- A barrier's word: the reserved bits `a` and `b`, count, phase and target. -/
def barWord (a count phase b target : Nat) : Nat := a * 2 ^ 112 + count * 2 ^ 64 + phase * 2 ^ 63 + b * 2 ^ 48 + target

/-- Each field of a barrier's word reads as it was put there. -/
theorem barWord_fields (a : Nat) {count phase b target : Nat} (hc : count < 2 ^ 48) (hp : phase < 2) (hb : b < 2 ^ 15)
    (ht : target < 2 ^ 48) :
    bits (barWord a count phase b target) 47 0 = target ∧ bits (barWord a count phase b target) 63 63 = phase ∧
      bits (barWord a count phase b target) 111 64 = count := by
  simp only [bits, barWord]
  omega

theorem barInit_eq (o target : Nat) : barInit o target = barWord (bits o 127 112) 0 0 (bits o 62 48) target := by
  simp [barInit, barWord]

theorem barCredit_eq (o x : Nat) : barCredit o x = barWord (bits o 127 112)
    (if bits o 47 0 = 0 then (bits o 111 64 + x) % 2 ^ 48 else (bits o 111 64 + x) % bits o 47 0)
    ((bits o 63 63 + if bits o 47 0 = 0 then 0 else (bits o 111 64 + x) / bits o 47 0) % 2) (bits o 62 48) (bits o 47 0) := by
  simp only [barCredit, barWord, beq_iff_eq]

theorem barInit_spec (o : Nat) {target : Nat} (ht : target < 2 ^ 48) :
    bits (barInit o target) 47 0 = target ∧ bit (barInit o target) 63 = false ∧ bits (barInit o target) 111 64 = 0 := by
  obtain ⟨htgt, hphase, hcount⟩ := barWord_fields (bits o 127 112) (count := 0) (phase := 0) (by decide) (by decide) (bits_lt o 62 48) ht
  rw [barInit_eq, bit_eq_bits, hphase]
  exact ⟨htgt, rfl, hcount⟩

/-- A phase flips once per target that the count reaches. -/
theorem decide_add_mod_two (p n : Nat) (hp : p < 2) : decide ((p + n) % 2 = 1) = (decide (p = 1) != decide (n % 2 = 1)) := by
  obtain rfl | rfl : p = 0 ∨ p = 1 := by omega
  · simp
  · obtain h | h := Nat.mod_two_eq_zero_or_one n <;> simp [h, Nat.add_mod]

theorem barCredit_spec (o x : Nat) :
    bits (barCredit o x) 47 0 = bits o 47 0 ∧
      (0 < bits o 47 0 → bits (barCredit o x) 111 64 = (bits o 111 64 + x) % bits o 47 0 ∧
        bit (barCredit o x) 63 = (bit o 63 != decide ((bits o 111 64 + x) / bits o 47 0 % 2 = 1))) ∧
      (bits o 47 0 = 0 → bits (barCredit o x) 111 64 = (bits o 111 64 + x) % 2 ^ 48 ∧ bit (barCredit o x) 63 = bit o 63) := by
  have htarget : bits o 47 0 < 2 ^ 48 := bits_lt ..
  have hphase : bits o 63 63 < 2 := bits_lt ..
  have hcount : (if bits o 47 0 = 0 then (bits o 111 64 + x) % 2 ^ 48 else (bits o 111 64 + x) % bits o 47 0) < 2 ^ 48 := by
    split
    · exact Nat.mod_lt _ (by decide)
    · next h => exact Nat.lt_trans (Nat.mod_lt _ (Nat.pos_of_ne_zero h)) htarget
  obtain ⟨htgt, hphase', hcount'⟩ := barWord_fields (bits o 127 112) hcount
    (Nat.mod_lt (bits o 63 63 + if bits o 47 0 = 0 then 0 else (bits o 111 64 + x) / bits o 47 0) Nat.two_pos) (bits_lt o 62 48) htarget
  rw [bit_eq_bits, barCredit_eq, htgt, hphase', hcount', bit_eq_bits]
  refine ⟨rfl, fun h => ?_, fun h => ?_⟩
  · simp only [if_neg (Nat.ne_of_gt h), decide_add_mod_two _ _ hphase, and_self]
  · simp only [if_pos h, Nat.add_zero, Nat.mod_eq_of_lt hphase, and_self]

/-! ### What an acquire leaves alone -/

/-- Within the moving core only streams change, and no system register. -/
def State.ViewStep (s t : State) : Prop := s.CoreOnly t ∧ s.me.StreamsOnly t.me ∧ s.me.SameSys t.me

theorem State.ViewStep.refl (s : State) : s.ViewStep s := ⟨.refl s, rfl, Core.RegsOnly.sameSys rfl⟩

/-- A change of the moving stream that keeps its FLAGS and RMODE. -/
theorem State.viewStep_onSt (s : State) {f : StreamSt → StreamSt}
    (hf : ∀ t, (f t).flags = t.flags ∧ (f t).ctl = t.ctl ∧ (f t).seed = t.seed) : s.ViewStep (s.onSt f) := by
  have hme : (s.onSt f).me = s.me.onStrm s.cur.strm f := s.onMe_me _
  refine ⟨s.coreOnly_onMe _, hme ▸ s.me.streamsOnly_onStrm _ f, hme ▸ (s.me.streamsOnly_onStrm _ f).sameSys fun k => ?_⟩
  rw [Core.onStrm_strm]
  split
  · next hk => exact hk ▸ hf _
  · exact ⟨rfl, rfl, rfl⟩

theorem State.viewStep_takeRels (s : State) (w : Who) (agent : Nat) (cover : Cover) (rels : List Rel) :
    s.ViewStep (s.takeRels w agent cover rels) := by
  unfold State.takeRels
  dsimp only
  split
  · exact .refl s
  · exact s.viewStep_onSt fun _ => ⟨rfl, rfl, rfl⟩

theorem State.viewStep_barAcquire (s : State) (scope : Nat) (a : Word) : s.ViewStep (s.barAcquire scope a) := by
  unfold State.barAcquire
  split
  · exact .refl s
  split
  · exact .refl s
  split
  · exact .refl s
  · exact s.viewStep_takeRels ..

theorem State.viewStep_pass (s : State) : s.ViewStep s.pass := s.viewStep_onSt fun _ => ⟨rfl, rfl, rfl⟩

/-! ### The instructions -/

/-- BARWAIT on the other phase is over: it acquires what the flip released and drops the lines of its sector. -/
theorem execBarwait_of_flipped {f : BarwaitF} {s : State} (hpass : s.passed = false) (hsusp : ∀ ch, (s.me.chan ch).susp = none)
    (hphase : s.phaseAt (s.srcA f.a) = .ok (!wbit (s.srcA f.b) 0)) :
    execBarwait f s = .next (((s.barAcquire f.s (s.srcA f.a)).dropLines (sectorOf s.cur.core) fun _ => true).pass.finish f.e (.done {})) := by
  simp only [execBarwait, hpass, Bool.false_eq_true, if_false]
  rw [State.withChans_of_running fun ch _ => hsusp ch]
  simp only [hphase, Bool.not_beq_self, Bool.false_eq_true, if_false]

/-- Settles O35: BARINIT and BARARRIVE by the fields of the barrier's word, BARWAIT by what its acquire leaves alone. -/
theorem barriersAndCrc : Obligations.BarriersAndCrc := by
  unfold Obligations.BarriersAndCrc
  refine ⟨fun f s l => ?_, fun f s l => ?_, fun f s hpass hsusp hphase => ?_, fun f s ls hlen hread => ?_⟩
  · intro b hacc h0 hlt
    refine ⟨_, .of_got (show exec (.barinit f) s = execBarinit f s from rfl) ?_, barInit_spec (s.homeAfter l.key 16) hlt⟩
    simp only [State.barAccess, hacc]
    rw [if_neg]
    simp only [Bool.or_eq_true, beq_iff_eq, decide_eq_true_eq, not_or, Nat.not_le]
    exact ⟨h0, hlt⟩
  · intro b hacc hlt old target r
    refine ⟨_, .of_got (show exec (.bararrive f) s = execBararrive f s from rfl) ?_, barCredit_spec old b⟩
    simp only [State.barAccess, hacc]
    rw [if_neg (Nat.not_le.2 hlt)]
    rfl
  · refine ⟨_, execBarwait_of_flipped hpass hsusp hphase, ?_⟩
    obtain ⟨⟨hcur, hmem, -⟩, hregs, hsys⟩ := s.viewStep_barAcquire f.s (s.srcA f.a)
    generalize s.barAcquire f.s (s.srcA f.a) = u at hcur hmem hregs hsys ⊢
    obtain ⟨-, hregs', hsys'⟩ := (u.dropLines (sectorOf s.cur.core) fun _ => true).viewStep_pass
    refine ⟨hmem, .of_regs (hregs.trans hregs').regs .., hsys.trans hsys', fun x hx hsec => ?_⟩
    exact ((u.mem_srb_dropLines _ (fun _ => true) x).1 hx).2 ⟨hsec, rfl⟩
  · exact .of_got rfl (by simp [Nat.not_lt.2 hlen, hread])

end Sys2Proof.Machine
end

section
/-! SUPPORT. What the bank groups do by themselves (spec/09 R254, R255, R271; spec/12 R320 to R324): writes, adds, requests and windows leave every
engine where it stands in its program, and the mover and the input as they are. -/

namespace Sys2Proof.Machine

/-! ### Engines whose place in their program stays -/

/-- `f` stands where `e` does in its program. -/
def Engine.SamePlace (e f : Engine) : Prop := f.mpc = e.mpc ∧ f.loops = e.loops

theorem Engine.SamePlace.trans {e f g : Engine} (h : e.SamePlace f) (h' : f.SamePlace g) : e.SamePlace g :=
  ⟨h'.1.trans h.1, h'.2.trans h.2⟩

theorem Engine.samePlace_winTouch (e : Engine) (key : Nat) (w : Bool) : e.SamePlace (e.winTouch key w) := by
  unfold Engine.winTouch
  split <;> exact ⟨rfl, rfl⟩

theorem Engine.samePlace_openWin (e : Engine) (t : Nat) : e.SamePlace (e.openWin t) := by
  unfold Engine.openWin
  split <;> exact ⟨rfl, rfl⟩

theorem Engine.samePlace_refreshLate (e : Engine) : e.SamePlace e.refreshLate := by
  unfold Engine.refreshLate
  split
  · exact ⟨rfl, rfl⟩
  · refine List.foldlRecOn (motive := e.SamePlace) _ _ ⟨rfl, rfl⟩ fun f hf k _ => hf.trans ?_
    dsimp only
    split <;> exact ⟨rfl, rfl⟩

theorem Engine.samePlace_stopWin (e : Engine) : e.SamePlace e.stopWin := ⟨rfl, rfl⟩

theorem Engine.samePlace_boundary (e : Engine) (i t : Nat) :
    e.SamePlace { (e.landTo t) with atBound := true, lastBound := i, boundAt := t, now := max (i + 1) t } := ⟨rfl, rfl⟩

/-! ### Banks and queues that are served -/

/-- What the bank groups do by themselves: no engine moves in its program, and the mover and the input stay. -/
def State.BankStep (s t : State) : Prop := t.inp = s.inp ∧ t.cur = s.cur ∧ ∀ n, (s.engine n).SamePlace (t.engine n)

theorem State.BankStep.trans {s t u : State} (h : s.BankStep t) (h' : t.BankStep u) : s.BankStep u :=
  ⟨h'.1.trans h.1, h'.2.1.trans h.2.1, fun n => (h.2.2 n).trans (h'.2.2 n)⟩

theorem State.BankStep.of_engines {s t : State} (hinp : t.inp = s.inp) (hcur : t.cur = s.cur) (heng : t.engines = s.engines) :
    s.BankStep t :=
  ⟨hinp, hcur, fun n => by unfold State.engine; rw [heng]; exact ⟨rfl, rfl⟩⟩

theorem State.BankStep.refl (s : State) : s.BankStep s := .of_engines rfl rfl rfl

theorem State.bankStep_onEngine (s : State) (n : Nat) {f : Engine → Engine} (hf : (s.engine n).SamePlace (f (s.engine n))) :
    s.BankStep (s.onEngine n f) := by
  refine ⟨rfl, rfl, fun m => ?_⟩
  rw [State.onEngine_engine]
  split
  · next h => exact h ▸ hf
  · exact ⟨rfl, rfl⟩

theorem State.BankStep.foldl {α : Type} {f : State → α → State} (hf : ∀ (s : State) (a : α), s.BankStep (f s a)) (l : List α) (s : State) :
    s.BankStep (l.foldl f s) :=
  List.foldlRecOn (motive := s.BankStep) l f (.refl s) fun t ht a _ => ht.trans (hf t a)

/-! ### Writes -/

theorem State.bankStep_placeLate (s : State) (g : Sight) (w : Wr) (cells : List Host.Cell) : s.BankStep (s.placeLate g w cells) := by
  unfold State.placeLate
  split <;> exact .of_engines rfl rfl rfl

theorem State.bankStep_placeNewest (s : State) (w : Wr) (cells : List Host.Cell) : s.BankStep (s.placeNewest w cells) :=
  .of_engines rfl rfl rfl

theorem State.bankStep_placeWrite (s : State) (agent : Nat) (how : How) (w : Wr) (cells : List Host.Cell) :
    s.BankStep (s.placeWrite agent how w cells) := by
  unfold State.placeWrite
  split
  · exact s.bankStep_placeNewest ..
  split
  · exact s.bankStep_placeNewest ..
  dsimp only
  split
  · exact s.bankStep_placeLate ..
  · exact (s.bankStep_placeLate ..).trans (State.bankStep_placeNewest ..)

theorem State.bankStep_ownWrites (s : State) (agent lo hi : Nat) : s.BankStep (s.ownWrites agent lo hi) := by
  unfold State.ownWrites
  dsimp only
  split
  · split <;> exact .of_engines rfl rfl rfl
  split
  · exact .refl s
  · exact s.bankStep_onEngine _ ⟨rfl, rfl⟩

theorem State.bankStep_engineSees (s : State) (keys : List Nat) (lo hi : Nat) : s.BankStep (s.engineSees keys lo hi) :=
  .foldl (fun t n => t.bankStep_onEngine n ⟨rfl, rfl⟩) _ s

theorem State.bankStep_deviceWide (s : State) (rels : List Rel) : s.BankStep (s.deviceWide rels) := by
  unfold State.deviceWide
  split <;> exact .of_engines rfl rfl rfl

theorem State.bankStep_performRels (s : State) (agent : Nat) (how : How) (own : List Rel) (bar : Option (Nat × Bool)) (now : Bool)
    (cells : List Host.Cell) : s.BankStep (s.performRels agent how own bar now cells) := by
  have hprune (t : State) : t.BankStep t.pruneWrites := .of_engines rfl rfl rfl
  exact ((((s.bankStep_placeWrite ..).trans (State.bankStep_ownWrites ..)).trans (State.bankStep_engineSees ..)).trans
    (State.bankStep_deviceWide ..)).trans (hprune _)

theorem State.bankStep_performBy (s : State) (agent : Nat) (how : How) (own : List Rel) (bar : Option (Nat × Bool)) (now : Bool)
    (cells : List Host.Cell) : s.BankStep (s.performBy agent how own bar now cells) := s.bankStep_performRels ..

theorem State.bankStep_performFor (s : State) (rels : List Rel) (cells : List Host.Cell) : s.BankStep (s.performFor rels cells) := by
  unfold State.performFor
  split
  · exact .of_engines rfl rfl rfl
  · exact s.bankStep_performBy ..

theorem State.bankStep_flushWr (s : State) (n : Nat) : s.BankStep (s.flushWr n) := by
  unfold State.flushWr
  dsimp only
  split
  · exact .refl s
  · exact (s.bankStep_onEngine n ⟨rfl, rfl⟩).trans (State.bankStep_performBy ..)

/-! ### Records and adds -/

theorem State.bankStep_recWrite (s : State) (off : Nat) (bs : List Byte) : s.BankStep (s.recWrite off bs) := by
  unfold State.recWrite
  split
  · exact .refl s
  · exact s.bankStep_performFor ..

theorem State.bankStep_recNext (s : State) : s.BankStep s.recNext :=
  (s.bankStep_recWrite ..).trans (.of_engines rfl rfl rfl)

theorem State.bankStep_recStop (s : State) (err : Nat) : s.BankStep (s.recStop err) :=
  ((s.bankStep_recWrite ..).trans (State.bankStep_recWrite ..)).trans (.of_engines rfl rfl rfl)

theorem State.bankStep_recEvent (s : State) (w0 w1 w2 w3 : Nat) : s.BankStep (s.recEvent w0 w1 w2 w3) := by
  unfold State.recEvent
  split
  · exact (s.bankStep_recWrite ..).trans (State.bankStep_recNext _)
  split
  · dsimp only
    split
    · exact s.bankStep_recNext.trans (State.bankStep_recStop ..)
    · exact s.bankStep_recNext
  · exact .refl s

theorem State.bankStep_applyAdd (s : State) (a : Add) : s.BankStep (s.applyAdd a) := by
  have hrec : s.BankStep (if a.det then s else s.recEvent (recAdd (engineOf a.key)) a.wid a.source a.seqNo) := by
    split
    · exact .refl s
    · exact s.bankStep_recEvent ..
  unfold State.applyAdd
  dsimp only
  generalize (if a.det then s else s.recEvent (recAdd (engineOf a.key)) a.wid a.source a.seqNo) = t at hrec ⊢
  split
  · exact hrec
  split
  · exact hrec.trans (.of_engines rfl rfl rfl)
  · exact hrec.trans (State.bankStep_performBy ..)

theorem State.bankStep_takeAdds (s : State) (n : Nat) (p : Add → Bool) (m : Nat) : s.BankStep (s.takeAdds n p m) := by
  induction m generalizing s with
  | zero => exact .refl s
  | succ m ih =>
    unfold State.takeAdds
    split
    · exact .refl s
    · refine ((s.bankStep_onEngine n ?_).trans (State.bankStep_applyAdd ..)).trans (ih _)
      refine .trans (.trans ?_ (Engine.samePlace_winTouch ..)) (Engine.samePlace_winTouch ..)
      exact ⟨rfl, rfl⟩

/-! ### Requests -/

theorem State.bankStep_drainPort (s : State) (c fuel : Nat) : s.BankStep (s.drainPort c fuel) := by
  induction fuel generalizing s with
  | zero => exact .refl s
  | succ fuel ih =>
    unfold State.drainPort
    split
    · exact .refl s
    split
    · exact ((s.bankStep_onEngine c ⟨rfl, rfl⟩).trans (State.bankStep_onEngine _ _ ⟨rfl, rfl⟩)).trans (ih _)
    · exact .refl s

theorem State.bankStep_leave (s : State) (n : Nat) (r : Req) : s.BankStep (s.leave n r) :=
  (s.bankStep_onEngine n ⟨rfl, rfl⟩).trans (State.bankStep_drainPort ..)

theorem State.bankStep_dropGone (s : State) (n : Nat) : s.BankStep (s.dropGone n) :=
  .foldl (fun t r => t.bankStep_leave n r) _ s

theorem State.bankStep_rowsMoved (s : State) : s.BankStep s.rowsMoved := by
  unfold State.rowsMoved
  dsimp only
  split
  · split
    · exact .of_engines rfl rfl rfl
    split <;> exact .of_engines rfl rfl rfl
  · exact .of_engines rfl rfl rfl

theorem State.bankStep_doReq (s : State) (r : Req) : s.BankStep (s.doReq r) := by
  unfold State.doReq
  split
  · exact .refl s
  split
  · exact s.bankStep_rowsMoved
  split
  · dsimp only
    generalize (s.ueAt r.key 8 || s.refuses (s.engine r.owner).asid r.key) = bad
    have hposted : s.BankStep (s.onEngine r.owner fun e => if e.running && e.inst == r.inst then
        { e with posted := e.posted - 1, semBad := if bad then some r.slot else e.semBad } else e) :=
      s.bankStep_onEngine _ (by split <;> exact ⟨rfl, rfl⟩)
    generalize (s.onEngine r.owner fun e => if e.running && e.inst == r.inst then
        { e with posted := e.posted - 1, semBad := if bad then some r.slot else e.semBad } else e) = t at hposted ⊢
    split
    · exact hposted
    · exact hposted.trans (State.bankStep_performBy ..)
  · dsimp only
    split
    · split
      · exact .of_engines rfl rfl rfl
      · exact s.bankStep_performFor ..
    · exact s.bankStep_performBy ..

theorem State.bankStep_serveOne (s : State) (k : Nat) (r : Req) : s.BankStep (s.serveOne k r) := by
  refine (((s.bankStep_takeAdds k _ _).trans (State.bankStep_onEngine _ k ?_)).trans (State.bankStep_leave ..)).trans
    (State.bankStep_doReq ..)
  split
  · exact (Engine.samePlace_winTouch ..).trans (Engine.samePlace_winTouch ..)
  · exact Engine.samePlace_winTouch ..

theorem State.bankStep_serve (s : State) (k n : Nat) : s.BankStep (s.serve k n) := by
  induction n generalizing s with
  | zero => exact .refl s
  | succ n ih =>
    unfold State.serve
    split
    · exact .refl s
    split
    · exact .refl s
    · exact (s.bankStep_serveOne ..).trans (ih _)

theorem State.bankStep_serveIdle (s : State) (c : Nat) : s.BankStep (s.serveIdle c) := by
  refine .foldl (fun t i => ?_) _ s
  split
  · exact .refl t
  · exact t.bankStep_serve ..

theorem State.bankStep_winReqs (s : State) (k n : Nat) : s.BankStep (s.winReqs k n) := by
  induction n generalizing s with
  | zero => exact .refl s
  | succ n ih =>
    unfold State.winReqs
    split
    · exact .refl s
    split
    · exact .refl s
    · exact (((s.bankStep_serveOne ..).trans (State.bankStep_onEngine _ k ⟨rfl, rfl⟩)).trans (State.bankStep_serveIdle ..)).trans (ih _)

theorem State.bankStep_winAdds (s : State) (k n : Nat) : s.BankStep (s.winAdds k n) := by
  induction n generalizing s with
  | zero => exact .refl s
  | succ n ih =>
    unfold State.winAdds
    dsimp only
    split
    · exact .refl s
    · exact ((s.bankStep_takeAdds ..).trans (State.bankStep_onEngine _ k ⟨rfl, rfl⟩)).trans (ih _)

theorem State.bankStep_window (s : State) (k : Nat) : s.BankStep (s.window k) := by
  have hreqs : s.BankStep ((s.dropGone k).winReqs k 16) := (s.bankStep_dropGone k).trans (State.bankStep_winReqs ..)
  unfold State.window
  dsimp only
  split
  · exact hreqs.trans (.foldl (fun t r => t.bankStep_takeAdds ..) _ _)
  · refine (hreqs.trans (State.bankStep_winAdds ..)).trans (State.bankStep_onEngine _ k ?_)
    exact (Engine.samePlace_refreshLate _).trans (Engine.samePlace_stopWin _)

/-- A row boundary serves what waits at the bank group: its engine stays where it stands in its program. -/
theorem State.bankStep_engBoundary (s : State) (n i t : Nat) : s.BankStep (s.engBoundary n i t) := by
  have hbound : s.BankStep ((s.flushWr n).onEngine n fun e =>
      { (e.landTo t) with atBound := true, lastBound := i, boundAt := t, now := max (i + 1) t }) :=
    (s.bankStep_flushWr n).trans (State.bankStep_onEngine _ n (Engine.samePlace_boundary ..))
  unfold State.engBoundary
  dsimp only
  generalize ((s.flushWr n).onEngine n fun e =>
      { (e.landTo t) with atBound := true, lastBound := i, boundAt := t, now := max (i + 1) t }) = u at hbound ⊢
  split
  · exact (hbound.trans (State.bankStep_onEngine _ n (Engine.samePlace_openWin ..))).trans (State.bankStep_window ..)
  · exact hbound

theorem State.bankStep_flushNode (s : State) (p : Add) (n : Nat) : s.BankStep (s.flushNode p n) := by
  unfold State.flushNode
  dsimp only
  split
  · exact .refl s
  · exact (s.bankStep_onEngine n ⟨rfl, rfl⟩).trans (.foldl State.bankStep_applyAdd _ _)

end Sys2Proof.Machine
end

section
/-! SUPPORT. Events of cores, engines and pseudo-channels (spec/05 R145, R148; spec/08 R224, R225; spec/09 R252 to R255, R283; spec/12 R333), and
O52. -/

namespace Sys2Proof.Machine

/-! ### Bits of numbers and words -/

theorem bit_eq_testBit (w n : Nat) : bit w n = w.testBit n := (Nat.testBit_eq_decide_div_mod_eq ..).symm

theorem wbit_eq_getLsbD (w : Word) (n : Nat) : wbit w n = w.getLsbD n := bit_eq_testBit ..

/-! ### Events of a core -/

/-- STREAM_FETCH of a register that may fetch keeps the unit it reads. -/
theorem execStreamFetch_of_fetched {s : State} {x : QUnit} (hrun : s.me.running = true) (hbound : (s.me.qreg s.inp.ident).bound = true)
    (hleft : (s.me.qreg s.inp.ident).popped + (s.me.qreg s.inp.ident).units.length < (s.me.qreg s.inp.ident).total)
    (hsound : ∀ y ∈ (s.me.qreg s.inp.ident).units, y.fault = none)
    (hfetch : s.fetchUnit { s.who s.cur.core with super := (s.me.qreg s.inp.ident).sup, agent := fetchAgent s.cur.core s.inp.ident }
      (s.me.qreg s.inp.ident) ((s.me.qreg s.inp.ident).popped + (s.me.qreg s.inp.ident).units.length) = .ok x) :
    execStreamFetch s = .next (s.onMe fun c => c.setQ s.inp.ident
      { s.me.qreg s.inp.ident with units := (s.me.qreg s.inp.ident).units ++ [x] }) := by
  have hno : ((s.me.qreg s.inp.ident).units.any fun x => x.fault.isSome) = false := by
    simpa using hsound
  simp only [execStreamFetch, hrun, hbound, hno, Nat.not_le.2 hleft, hfetch, Bool.not_true, Bool.or_false, decide_false, Bool.false_eq_true, if_false]

/-- TRANSFER_COMPLETE of a transfer that does not wait drives it, and suspends its channel only where it fails. -/
theorem execTransferComplete_of_moved {s t : State} {x : Transfer} (hrun : s.me.running = true)
    (hgo : (s.me.chan s.inp.chan).behind s.inp.ident = false)
    (hfind : ((s.me.chan s.inp.chan).queue.find? fun t => t.ident == s.inp.ident) = some x)
    (hdrive : s.drive s.cur.core s.inp.chan s.inp.ident (if s.inp.value = 0 then x.steps - x.prog + 1 else s.inp.value) = .moved t) :
    execTransferComplete s = .next t := by
  simp [execTransferComplete, hrun, hgo, hfind, hdrive]

theorem execCopyFault_of_failed {s : State} {x : Transfer} {e : Cause} (hrun : s.me.running = true)
    (hgo : (s.me.chan s.inp.chan).behind s.inp.ident = false)
    (hfind : ((s.me.chan s.inp.chan).queue.find? fun t => t.ident == s.inp.ident) = some x)
    (hstep : s.copyStep s.cur.core x = .error (.cause e)) (howned : s.copiesOwned s.cur.core = none) :
    execCopyFault s = .next (s.suspendChan s.cur.core s.inp.chan x.ident (copyCause e s.inp.chan x.ident)) := by
  simp [execCopyFault, hrun, hgo, hfind, hstep, howned]

/-- COURSE_SELF_TEST fences the course that it finds failing between instructions of the M stream. -/
theorem execCourseSelfTest_of_failing {s : State} (hid : s.inp.ident < 4) (hfail : s.inp.value.testBit s.inp.ident = true)
    (hidle : s.me.running = false ∨ (s.me.sm.clause.live = false ∧ s.me.sm.prog.active = false)) :
    execCourseSelfTest s = .next ((s.onMe fun c =>
      { c with mat := { c.mat with failing := s.inp.value % 16, glitch := glitchesOf s.inp.nums } }).fenceCourses s.cur.core (2 ^ s.inp.ident)) := by
  have hbit : bit (s.inp.value % 16) s.inp.ident = true := by
    rw [bit_eq_testBit, show (16 : Nat) = 2 ^ 4 from rfl, Nat.testBit_mod_two_pow, hfail]
    simp [hid]
  have hbusy : (s.me.running && (s.me.sm.clause.live || s.me.sm.prog.active)) = false := by
    obtain h | ⟨h, h'⟩ := hidle <;> simp [*]
  simp [execCourseSelfTest, hid, hbit, hbusy]

/-- The pending cause that is taken first: one of lowest code. -/
def lowestCause (a : Cause) (r : List Cause) : Cause := r.foldl (fun m y => if y.code < m.code then y else m) a

theorem lowestCause_spec (a : Cause) (r : List Cause) :
    lowestCause a r ∈ a :: r ∧ ∀ b ∈ a :: r, (lowestCause a r).code ≤ b.code := by
  induction r generalizing a with
  | nil => simp [lowestCause]
  | cons y r ih =>
    have hstep : lowestCause a (y :: r) = lowestCause (if y.code < a.code then y else a) r := rfl
    rw [hstep]
    split
    · next h =>
      obtain ⟨hmem, hle⟩ := ih y
      refine ⟨List.mem_cons_of_mem _ hmem, List.forall_mem_cons.2 ⟨?_, hle⟩⟩
      exact Nat.le_trans (hle y (List.mem_cons_self ..)) (Nat.le_of_lt h)
    · next h =>
      obtain ⟨hmem, hle⟩ := ih a
      obtain ⟨ha, hr⟩ := List.forall_mem_cons.1 hle
      refine ⟨?_, List.forall_mem_cons.2 ⟨ha, List.forall_mem_cons.2 ⟨Nat.le_trans ha (Nat.not_lt.1 h), hr⟩⟩⟩
      rw [List.mem_cons] at hmem ⊢
      exact hmem.imp_right (List.mem_cons_of_mem _)

/-- A pending cause of lowest code is taken on a core at user level where no synchronous one waits. -/
theorem execTrapEntry_of_pending {s : State} (hrun : s.me.running = true) (hsuper : s.me.trap.super = false) (hsync : s.me.trap.faults = [])
    (hpend : s.me.trap.pending ≠ []) : ∃ a ∈ s.me.trap.pending, (∀ b ∈ s.me.trap.pending, a.code ≤ b.code) ∧
      ∃ k, execTrapEntry s = .next (((({ s with free := s.free + 1 } : State).onMe fun c =>
        { c with trap := { c.trap with pending := c.trap.pending.erase a } }).trapEnter s.cur.core k a true 0 0).keep false) := by
  obtain ⟨a, r, har⟩ := List.exists_cons_of_ne_nil hpend
  rw [har]
  obtain ⟨hmem, hle⟩ := lowestCause_spec a r
  refine ⟨_, hmem, hle, ([Strm.s, .a, .v, .m][Config.freeCycles s.free % 4]?).getD .s, ?_⟩
  have hme : s.core s.cur.core = s.me := rfl
  have hgo : ¬(s.me.trap.super || !s.me.running || !s.me.trap.faults.isEmpty) = true := by
    simp [hsuper, hrun, hsync]
  unfold execTrapEntry State.takeAsync
  rw [hme, if_neg hgo, har]
  rfl

/-! ### Engines -/

/-- What an idle engine starts next, where dispatch goes on and its stack is not hot: refused with a stopped node or a
pseudo-channel out of service, left in a context that is not OPEN, and else started. -/
theorem execEngineInstanceStart_of_next {s : State} {x : EngInst} {g : Graph} (hrun : s.eng.running = false) (hhalt : s.ks.halted = false)
    (hcool : s.dev.dieHold.testBit (s.cur.eng / 256) = false) (hnext : s.nextInst s.cur.eng = some x)
    (hgraph : s.graph x.asid x.lrec = some g) :
    execEngineInstanceStart s = .next (if (g.nst x.node).stopped || !s.engLive s.cur.eng then s.refuseInst x
      else if (s.ctx x.asid).held != 0 then s
      else
        let v : State := { s with ks := { s.ks with engQ := s.ks.engQ.filter (· != x) } }
        (v.onEng fun e => { (e.start x s.cur.eng (g.node x.node) (g.code.getD x.node []) (g.sems.getD x.node [])).margin 8 with
          sight := Sight.after v v.floor }).engAcquire s.cur.eng 7 ((g.into x.node).flatMap fun d => (g.nst (edgeSrc d.entry)).rels)) := by
  simp only [execEngineInstanceStart, hrun, hhalt, bit_eq_testBit, hcool, hnext, hgraph, Bool.or_false, Bool.false_eq_true, if_false]

/-- ENGINE_STOP of a running engine by its cause. -/
theorem execEngineStop_of_running {s : State} (hrun : s.eng.running = true) :
    (s.inp.flag = true → execEngineStop s = .next (s.engEnd s.cur.eng 6 0xFFFF 0xFF 0)) ∧
    (∀ l, s.inp.flag = false → s.eng.semBad = some l → execEngineStop s = .next (s.engEnd s.cur.eng 6 0xFFFF 0xFE l)) ∧
    (∀ g, s.inp.flag = false → s.eng.semBad = none → s.graph s.eng.asid s.eng.lrec = some g → (g.nst s.eng.node).stopped = true →
      execEngineStop s = .next (s.engEnd s.cur.eng 8 0 0 0)) := by
  refine ⟨fun hf => ?_, fun l hf hb => ?_, fun g hf hb hg hs => ?_⟩
  · simp [execEngineStop, hrun, hf, State.engStop]
  · simp [execEngineStop, hrun, hf, hb, State.engStop]
  · simp [execEngineStop, hrun, hf, hb, hg, hs, State.engStop]

theorem execRdLanding_of_running {s : State} (hrun : s.eng.running = true) :
    (s.eng.badLanding s.eng.now = none →
      execRdLanding s = .next (s.onEng fun e => { (e.landTo s.eng.now) with now := s.eng.now })) ∧
    (∀ r c b, s.eng.badLanding s.eng.now = some (r, c, b) → execRdLanding s = .next (s.engEnd s.cur.eng 6 r c b)) := by
  refine ⟨fun h => ?_, fun r c b h => ?_⟩
  · simp [execRdLanding, hrun, h]
    rfl
  · simp [execRdLanding, hrun, h, State.engStop]

theorem execRefreshDeadline_of_stalled {s : State} (hrun : s.eng.running = true) (hstall : s.eng.stalled = true) (hbank : s.inp.ident < 4) :
    let u := s.onEng Engine.resume
    let t := max u.eng.now ((u.eng.bank s.inp.ident).lastRef + 4681)
    execRefreshDeadline s = .next ((u.onEng fun e => { e with now := t, boundAt := t }.openWin t).window s.cur.eng) := by
  simp only [execRefreshDeadline, hrun, hstall, Bool.and_self, if_true, State.onEng_inp, State.onEng_cur, Nat.mod_eq_of_lt hbank]

/-- ROW_INTERVAL_EXPIRY forces a boundary where the interval has passed with something waiting, or ends the run at a row that fails. -/
theorem execRowIntervalExpiry_spec (s : State) :
    let i := max s.eng.now (s.eng.lastBound + s.eng.interval)
    let t := max i s.eng.quiet
    (s.eng.overdue s.eng.now = false → execRowIntervalExpiry s = .next s) ∧
    (s.eng.overdue s.eng.now = true → s.eng.badLanding t = none →
      execRowIntervalExpiry s = .next ((s.onEng fun e => { e with rowOvr := true }).engBoundary s.cur.eng (i - 1) t)) ∧
    (∀ r c b, s.eng.overdue s.eng.now = true → s.eng.badLanding t = some (r, c, b) →
      execRowIntervalExpiry s = .next (s.engEnd s.cur.eng 6 r c b)) := by
  refine ⟨fun h => ?_, fun h hland => ?_, fun r c b h hland => ?_⟩
  · simp only [execRowIntervalExpiry, h, Bool.false_eq_true, if_false]
  · simp only [execRowIntervalExpiry, h, if_true, State.engForce, hland]
  · simp only [execRowIntervalExpiry, h, if_true, State.engForce, hland, State.engStop]

theorem execArbitrationWindow_of_waiting {s : State} (hrun : s.eng.running = true) (hbound : s.eng.atBound = true)
    (hwait : (∃ x, s.eng.win = some x ∧ x.stopped = false) ∨ s.eng.waits s.eng.boundAt = true) :
    execArbitrationWindow s = .next ((s.onEng Engine.reopen).window s.cur.eng) := by
  have hopen : (s.eng.win.any (fun x => !x.stopped) || s.eng.waits s.eng.boundAt) = true := by
    obtain ⟨x, hx, hgo⟩ | h := hwait
    · simp [hx, hgo]
    · simp [h]
  simp only [execArbitrationWindow, hrun, hbound, hopen, Bool.and_self, if_true]

theorem execMainDieRequest_at_boundary {s : State} (hrun : s.eng.running = true) (hbound : s.eng.atBound = true) (hreqs : s.eng.reqs ≠ []) :
    execMainDieRequest s = .next ((s.onEng Engine.reopen).winReqs s.cur.eng 1) := by
  simp [execMainDieRequest, hrun, hbound, hreqs]

/-! ### A stalled WAITS -/

/-- Where nothing uncorrectable lands by some cycle, nothing does by an earlier one. -/
theorem Engine.badLanding_none_mono {e : Engine} {i t : Nat} (hit : i ≤ t) (h : e.badLanding t = none) : e.badLanding i = none := by
  rw [Engine.badLanding, Option.map_eq_none_iff, List.find?_eq_none] at h ⊢
  intro l hl hbad
  refine h l hl ?_
  simp only [Bool.and_eq_true, decide_eq_true_eq] at hbad ⊢
  exact ⟨hbad.1, Nat.le_trans hbad.2 hit⟩

/-- A row boundary that issues with every row in flight correct serves what waits, and goes on. -/
theorem State.engAtBound_of_bounds {s : State} {ready : Nat} {past : Bool} {go : State → Nat → Out} (h : s.Bounds ready) :
    s.engAtBound ready past go = go (s.bounded ready) (max s.eng.now ready) := by
  obtain ⟨hdue, hland⟩ := h
  simp only [State.engAtBound, hdue, hland, Engine.badLanding_none_mono (Nat.le_max_left ..) hland, Bool.false_eq_true, if_false]
  rfl

/-- Where an engine stands in its program decides whether a word follows. -/
theorem State.follows_of_samePlace {s t : State} (h : s.eng.SamePlace t.eng) (hs : s.follows) : t.follows := by
  unfold State.follows
  rw [h.1, h.2]
  exact hs

theorem State.engNext_of_follows {s : State} (h : s.follows) : s.engNext = .next s.engAfter := by
  unfold State.engNext
  dsimp only
  rw [if_neg (Nat.not_lt.2 h)]
  rfl

theorem State.bankStep_engAcquire (s : State) (n scope : Nat) (rels : List Rel) : s.BankStep (s.engAcquire n scope rels) := by
  unfold State.engAcquire
  dsimp only
  split
  · exact .refl s
  · exact s.bankStep_onEngine n ⟨rfl, rfl⟩

theorem State.BankStep.eng {s t : State} (h : s.BankStep t) : s.eng.SamePlace t.eng := by
  have hn := h.2.2 s.cur.eng
  unfold State.eng
  rwa [h.2.1]

/-- One read of a semaphore that can be read, at a row boundary: the engine stalls while the word is not reachable or too low, and else
acquires what the word's writes release and goes on. -/
theorem State.waitsRead_of_bounds {r : State} {l c v key : Nat} (hbounds : r.Bounds (r.eng.free (useE v)))
    (hsem : vget r.eng.sems l none = some key) (hfollows : r.follows) (hue : (r.bounded (r.eng.free (useE v))).ueAt key 8 = false)
    (hlink : (r.bounded (r.eng.free (useE v))).refuses (r.bounded (r.eng.free (useE v))).eng.asid key = false) :
    let u := r.bounded (r.eng.free (useE v))
    r.waitsRead l c v = .next (if u.owned key || u.addBefore key 8 then (u.want key).onEng fun e => { e with stalled := true }
      else if ofBytes (u.mem.bytes key 8) < (u.eng.ereg v).toNat then u.onEng fun e => { e with stalled := true }
      else ((u.engAcquire r.cur.eng c (relsIn u.hist ((upTo 8).map (key + ·)))).onEng fun e => { e with stalled := false }).engAfter) := by
  have hstep : r.BankStep (r.bounded (r.eng.free (useE v))) := r.bankStep_engBoundary ..
  simp only [State.waitsRead, hsem]
  rw [State.engAtBound_of_bounds hbounds]
  generalize r.bounded (r.eng.free (useE v)) = u at hue hlink hstep ⊢
  have hafter : ((u.engAcquire u.cur.eng c (relsIn u.hist ((upTo 8).map (key + ·)))).onEng fun e => { e with stalled := false }).follows :=
    State.follows_of_samePlace ((hstep.trans (u.bankStep_engAcquire ..)).trans (State.bankStep_onEngine _ _ ⟨rfl, rfl⟩)).eng hfollows
  simp only [hue, hlink, Bool.or_false, Bool.false_eq_true, if_false, State.engNext_of_follows hafter, State.engStall, ← hstep.2.1,
    apply_ite Host.Outcome.next]

theorem execWaitsReread_of_stalled {s : State} {l c v : Nat} (hrun : s.eng.running = true) (hstall : s.eng.stalled = true)
    (hword : decode .engine (Tab.get s.eng.store s.eng.mpc 0) = .ok (.waits l c v)) :
    execWaitsReread s = (s.onEng Engine.resume).waitsRead l c v := by
  simp only [execWaitsReread, hrun, hstall, hword, Bool.and_self, if_true]

/-! ### Flushes of near-memory adds -/

/-- The held adds of a node at a bank group that the engine does not own are applied in key order, and wait at one that it owns. -/
theorem State.flushNode_spec (p : Add) (n : Nat) (t : State) :
    ((t.engine n).running = false ∨ (t.engine n).atBound = true → t.flushNode p n =
      (sortAdds ((t.engine n).held.filter p.sameNode)).foldl State.applyAdd
        (t.onEngine n fun e => { e with held := e.held.filter fun a => !p.sameNode a })) ∧
    (¬((t.engine n).running = false ∨ (t.engine n).atBound = true) → t.flushNode p n = t) := by
  have howned : ((t.engine n).running && !(t.engine n).atBound) = true ↔
      ¬((t.engine n).running = false ∨ (t.engine n).atBound = true) := by simp
  exact ⟨fun h => if_neg fun hbad => howned.1 hbad h, fun h => if_pos (howned.2 h)⟩

/-- The node whose flush point DET_FLUSH names, as its adds name it. -/
def State.flushAdd (s : State) : Add :=
  { asid := s.inp.asid, lrec := s.inp.ident, node := s.inp.code, source := if s.inp.flag then 256 else 0 }

/-- The state in which the end of a node of another package is announced. -/
def State.flushTold (s : State) : State :=
  let p := s.flushAdd
  if s.inp.flag then
    { s with dev := { s.dev with farEnds := (p.asid, p.lrec, p.node) :: s.dev.farEnds.erase (p.asid, p.lrec, p.node) } }
  else s

/-- The state in which every bank group has flushed a node. -/
def State.flushAll (s : State) (p : Add) : State := ((s.engines.map (·.1)).foldl (fun t n => t.flushNode p n) s).forgetEnds

theorem State.flushTold_inp (s : State) : s.flushTold.inp = s.inp := by
  unfold State.flushTold
  dsimp only
  split <;> rfl

theorem State.flushAll_inp (s : State) (p : Add) : (s.flushAll p).inp = s.inp :=
  (State.BankStep.foldl (fun t n => t.bankStep_flushNode p n) (s.engines.map Prod.fst) s).1

/-- DET_FLUSH flushes the node once its flush point is reached, and ends it where none of its adds is held any more. -/
theorem execDetFlush_eq (s : State) : execDetFlush s = .next (
    if s.flushTold.flushReached s.flushAdd then
      let u := s.flushTold.flushAll s.flushAdd
      if s.inp.flag || (u.engines.any fun e => e.2.held.any s.flushAdd.sameNode) then u
      else (u.onGraph s.flushAdd.asid s.flushAdd.lrec fun g =>
        g.setNst s.flushAdd.node { g.nst s.flushAdd.node with flushed := true }).endGraph s.flushAdd.asid s.flushAdd.lrec
    else s.flushTold) := by
  have hinp : (s.flushTold.flushAll s.flushAdd).inp = s.inp := (State.flushAll_inp ..).trans s.flushTold_inp
  dsimp only
  rw [show s.inp.flag = (s.flushTold.flushAll s.flushAdd).inp.flag by rw [hinp]]
  rfl

/-- What DET_FLUSH comes to: before the flush point, with adds of the node still held, and else. -/
theorem execDetFlush_spec (s : State) :
    (s.flushTold.flushReached s.flushAdd = false → execDetFlush s = .next s.flushTold) ∧
    (s.flushTold.flushReached s.flushAdd = true →
      let u := s.flushTold.flushAll s.flushAdd
      ((s.inp.flag = true ∨ ∃ e ∈ u.engines, ∃ a ∈ e.2.held, s.flushAdd.sameNode a = true) → execDetFlush s = .next u) ∧
      (s.inp.flag = false → (∀ e ∈ u.engines, ∀ a ∈ e.2.held, s.flushAdd.sameNode a = false) →
        execDetFlush s = .next ((u.onGraph s.flushAdd.asid s.flushAdd.lrec fun g =>
          g.setNst s.flushAdd.node { g.nst s.flushAdd.node with flushed := true }).endGraph s.flushAdd.asid s.flushAdd.lrec))) := by
  rw [execDetFlush_eq]
  refine ⟨fun h => ?_, fun h => ⟨fun hheld => ?_, fun hflag hnone => ?_⟩⟩
  · rw [if_neg (ne_true_of_eq_false h)]
  · rw [if_pos h]
    exact congrArg _ (if_pos (by simpa using hheld))
  · rw [if_pos h]
    exact congrArg _ (if_neg (by simpa [hflag] using hnone))

theorem Engine.accept_running (e : Engine) (k : Nat) : (e.accept k).running = e.running := by
  unfold Engine.accept
  split
  · rfl
  dsimp only
  split
  · rfl
  split <;> rfl

theorem execNearMemoryAddAccept_eq (s : State) : execNearMemoryAddAccept s = .next (
    if s.eng.running then s.onEng fun e => e.accept s.inp.ident else (s.onEng fun e => e.accept s.inp.ident).drainAdds s.cur.eng 256) := by
  unfold execNearMemoryAddAccept
  dsimp only
  rw [State.onEng_eng, Engine.accept_running]
  rfl

/-! ### Pseudo-channels -/

theorem State.owned_of_rowMoves {s : State} {a : Nat} (hbm : isHbm a = true) (h : s.rowMoves a = true) : s.owned a = true := by
  simp [State.owned, hbm, h]

/-- Pseudo-channel `i` leaves service, and no other. -/
theorem State.pcLive_clearLive (s : State) {i : Nat} (hi : i < 512) (j : Nat) :
    (s.clearLive i).pcLive j = (s.pcLive j && decide (j ≠ i)) := by
  have hword : ((vget s.live (i / 64) 0 &&& ~~~word (2 ^ (i % 64))).getLsbD (j % 64)) =
      ((vget s.live (i / 64) 0).getLsbD (j % 64) && !decide (i % 64 = j % 64)) := by
    have hj : j % 64 < 64 := Nat.mod_lt _ (by decide)
    rw [BitVec.getLsbD_and, BitVec.getLsbD_not, getLsbD_word _ hj, Nat.testBit_two_pow]
    simp [hj]
  simp only [State.pcLive, State.clearLive, wbit_eq_getLsbD]
  rw [vget_vset _ _ _ _ _ (show i / 64 < 8 by omega)]
  by_cases hstack : j / 64 = i / 64
  · rw [if_pos hstack, hword, hstack]
    congr 1
    simp only [← decide_not, decide_eq_decide]
    omega
  · rw [if_neg hstack]
    have hne : j ≠ i := fun h => hstack (h ▸ rfl)
    simp [hne]

theorem State.pcLive_clearLive_of_ne (s : State) {i j : Nat} (hne : j ≠ i) : (s.clearLive i).pcLive j = s.pcLive j := by
  by_cases hi : i < 512
  · simp [s.pcLive_clearLive hi, hne]
  · simp only [State.pcLive, State.clearLive, vset_ge _ _ _ (show 8 ≤ i / 64 by omega)]

/-- A pseudo-channel in service is retired, or, where four of its stack are, lost. -/
theorem State.retirePc_of_live {s : State} {i : Nat} (hi : i < 512) (hlive : s.pcLive i = true) (hnew : ∀ x ∈ s.dev.retiring, x.1 ≠ i) :
    s.retirePc i = if 4 ≤ s.retired (i / 64) then s.losePc i else
      { s.stopEngines i with
        migrating := true, dev := { (s.stopEngines i).dev with retiring := (s.stopEngines i).dev.retiring ++ [(i, 0)] } } := by
  have hgo : ¬(decide (512 ≤ i) || !s.pcLive i || s.dev.retiring.any fun x => x.1 == i) = true := by
    simpa [hlive, Nat.not_le.2 hi] using fun x hx => hnew (i, x) hx rfl
  exact if_neg hgo

/-- The rows being copied of the oldest migration move: it goes on with the rows after them, and after the last its pseudo-channel
leaves service with a new interleave generation. -/
theorem State.rowsMoved_spec {s : State} {i k n : Nat} {r : List (Nat × Nat)} (hret : s.dev.retiring = (i, k) :: r)
    (hcopy : s.dev.copying = some (i, k, n)) :
    (k + n < 2 ^ 20 → s.rowsMoved = { s with dev := { s.dev with copying := none, retiring := (i, k + n) :: r } }) ∧
    (2 ^ 20 ≤ k + n → s.rowsMoved = { s.clearLive i with
      igen := nextIgen s.igen, migrating := !r.isEmpty, dev := { s.dev with copying := none, retiring := r } }) := by
  refine ⟨fun h => ?_, fun h => ?_⟩
  · simp only [State.rowsMoved, hcopy, hret, bne_self_eq_false, pcRows, if_neg (Nat.not_le.2 h)]
    rfl
  · simp only [State.rowsMoved, hcopy, hret, bne_self_eq_false, pcRows, if_pos h]
    rfl

/-! ### The obligation -/

/-- Settles O52: each event is its arm under its condition; a stalled WAITS goes on where a boundary leaves its engine in its program, and
a migration's rows move in one request. -/
theorem coreAndEngineEvents : Obligations.CoreAndEngineEvents := by
  unfold Obligations.CoreAndEngineEvents
  refine ⟨fun s => rfl, fun s x => ?fetch, fun s t x => ?copy, fun s tb tm r hpend => ?mlds, fun s => execCourseSelfTest_of_failing,
    fun s hrun => ?core, fun s => rfl, fun s pos c hbad => ?bad, fun s x g hrun hhalt hcool hnext hgraph => ?start,
    fun s hrun => ?engine, fun s hrun => ?idle, fun s => ?flush, fun s hpc => ?pc, fun s i k r hret => ?migrate⟩
  case fetch =>
    intro n q u hrun hbound hleft hsound hfetch
    exact execStreamFetch_of_fetched hrun hbound hleft hsound hfetch
  case copy =>
    intro h hrun hgo hfind
    exact ⟨execTransferComplete_of_moved hrun hgo hfind, fun e => execCopyFault_of_failed hrun hgo hfind⟩
  case mlds =>
    refine ⟨s.flaws.filter fun f => f != { core := s.cur.core, store := .plane 1 }, ?_⟩
    show execMldsReadDone s = _
    simp only [execMldsReadDone, hpend]
    rfl
  case core =>
    refine ⟨fun hs ha hv hm => ?_, fun hnp hsuper => ?_, fun hsuper => ?_, fun hsuper hsync hpend => ?_⟩
    · show execToken s = _
      simp only [execToken, hrun, hs, ha, hv, hm, Bool.and_self, if_true]
    · show execNprOverrun s = _
      simp only [execNprOverrun, hrun, hnp, hsuper, Bool.not_false, Bool.and_self, if_true]
      rfl
    · show execHandlerLimitExpiry s = _
      simp only [execHandlerLimitExpiry, hrun, hsuper, Bool.and_self, if_true]
    · exact execTrapEntry_of_pending hrun hsuper hsync hpend
  case bad =>
    have hraise : s.raiseBad = s.faultAt pos c := by
      simp only [State.raiseBad, hbad]
    exact ⟨congrArg _ hraise, congrArg _ hraise⟩
  case start =>
    have heq : exec .engineInstanceStart s = _ := execEngineInstanceStart_of_next hrun hhalt hcool hnext hgraph
    refine ⟨fun h => ?_, fun hn hl hheld => ?_, fun hn hl hheld => ?_⟩
    · rw [heq, if_pos (by simpa using h)]
    · rw [heq, if_neg (by simp [hn, hl]), if_pos (by simpa using hheld)]
    · rw [heq, if_neg (by simp [hn, hl]), if_neg (by simpa using hheld)]
  case engine =>
    obtain ⟨hue, hsem, hnode⟩ := execEngineStop_of_running hrun
    obtain ⟨hland, hbad⟩ := execRdLanding_of_running hrun
    refine ⟨hue, hsem, hnode, hland, hbad, execRefreshDeadline_of_stalled hrun, execRowIntervalExpiry_spec s,
      execArbitrationWindow_of_waiting hrun, ?_, execMainDieRequest_at_boundary hrun, ?_⟩
    · intro l c v key hstall hword r ready u hbounds hsem hfollows hue hlink
      exact (execWaitsReread_of_stalled hrun hstall hword).trans (State.waitsRead_of_bounds hbounds hsem hfollows hue hlink)
    · show execNearMemoryAddAccept s = _
      rw [execNearMemoryAddAccept_eq, if_pos hrun]
  case idle =>
    refine ⟨?_, ?_⟩
    · show execMainDieRequest s = _
      simp [execMainDieRequest, hrun]
    · show execNearMemoryAddAccept s = _
      rw [execNearMemoryAddAccept_eq, if_neg (by simp [hrun])]
  case flush =>
    exact ⟨fun n t => (State.flushNode_spec s.flushAdd n t).1, fun n t => (State.flushNode_spec s.flushAdd n t).2,
      execDetFlush_spec s⟩
  case pc =>
    refine ⟨fun hlive hnew hroom => ?_, fun hlive hnew hfull => ?_, fun hlost => ?_⟩
    · show execPseudoChannelRetire s = _
      rw [execPseudoChannelRetire, State.retirePc_of_live hpc hlive hnew, if_neg (Nat.not_le.2 hroom)]
    · show execPseudoChannelRetire s = _
      rw [execPseudoChannelRetire, State.retirePc_of_live hpc hlive hnew, if_pos hfull]
    · show execPseudoChannelLoss s = _
      simp only [execPseudoChannelLoss, Nat.not_le.2 hpc, hlost, decide_false, Bool.or_self, Bool.false_eq_true, if_false]
  case migrate =>
    refine ⟨fun hcopy => ?_, fun n hcopy => ⟨fun a hbm hpc hlo hhi => ?_, ?_⟩⟩
    · show execMigrationRowCopy s = _
      simp only [execMigrationRowCopy, hret, hcopy]
      rfl
    · exact State.owned_of_rowMoves hbm (by simp [State.rowMoves, hcopy, hpc, hlo, hhi])
    · obtain ⟨hgo, hlast⟩ := State.rowsMoved_spec hret hcopy
      intro t
      have ht : t = s.rowsMoved := rfl
      rw [ht]
      refine ⟨hgo, fun h => ?_⟩
      rw [hlast h]
      refine ⟨rfl, rfl, rfl, by simp, fun hi => ?_, fun j hj hne => ?_⟩
      · exact (s.pcLive_clearLive hi i).trans (by simp)
      · exact s.pcLive_clearLive_of_ne hne

end Sys2Proof.Machine
end

section
/-! SUPPORT. The M stream's instructions of one step (spec/07 R196 to R219): positions whose checks come one after another, the bits of
MTEST's word, and O44 and O48. -/

namespace Sys2Proof.Machine

/-! ### Positions whose checks come one after another -/

/-- A check that does not refuse leaves the answer to what follows it. -/
theorem exec_of_passed {i : Instr} {s : State} {e b : Bool} {c : Cause} {g : Got}
    (h : exec i s = .next (s.finish e (if b then .trap c else g))) (hb : b = false) : exec i s = .next (s.finish e g) := by
  rw [h, hb]
  rfl

/-- A check that refuses faults with its cause, whatever follows it. -/
theorem Faults.of_refused {i : Instr} {s : State} {e b : Bool} {c : Cause} {g : Got}
    (h : exec i s = .next (s.finish e (if b then .trap c else g))) (hb : b = true) : Faults i s c := by
  rw [Faults, h, hb]
  rfl

/-! ### Shapes, planes and modes -/

theorem execMldsSp_of_passed {f : MldsSpF} {s : State} (hfmt : mmaTag (tFmt (s.vw.tile f.a).shape) = true)
    (hmeta : tFmt (s.vw.tile f.b).shape = 2) (hrows : tRows (s.vw.tile f.b).shape = tRows (s.vw.tile f.a).shape)
    (heven : tElems (s.vw.tile f.a).shape % 2 = 0) (hfit : tElems (s.vw.tile f.a).shape ≤ 4 * tRowb (s.vw.tile f.b).shape) :
    Completes (.mldsSp f) s f.e { effs := [.mlds f.a (some f.b)] } :=
  exec_of_passed (exec_of_passed rfl (by rw [hfmt]; rfl)) (by simp [hmeta, hrows, heven, hfit])

/-- Outside record mode MMODE reads the mode as it stands and writes both bits. -/
theorem execMmode_of_free {f : R1} {s : State} (h : s.xi.recMode ≠ 1) : Completes (.mmode f) s f.e
    { toX f.d f.w s.me.mat.mode with effs := (toX f.d f.w s.me.mat.mode).effs ++ [.mmode (s.srcX f.a &&& 3)] } := by
  show execMmode f s = _
  simp [execMmode, h]

/-- In record mode FIXED reads 1 and stays as it was written before. -/
theorem execMmode_of_record {f : R1} {s : State} (h : s.xi.recMode = 1) : Completes (.mmode f) s f.e
    { toX f.d f.w (s.me.mat.mode ||| 1) with
      effs := (toX f.d f.w (s.me.mat.mode ||| 1)).effs ++ [.mmode (s.srcX f.a &&& 3 ||| s.me.mat.mode &&& 1)] } := by
  show execMmode f s = _
  simp [execMmode, h]

/-! ### The word of MTEST (spec/07 R214) -/

/-- The bits of a word made of three nibbles. -/
theorem getLsbD_word_nibbles {a b : Nat} (ha : a < 16) (hb : b < 16) (c i : Nat) : (word (a + b * 16 + c * 256)).getLsbD i =
    (decide (i < 64) && if i < 4 then a.testBit i else if i - 4 < 4 then b.testBit (i - 4) else c.testBit (i - 4 - 4)) := by
  have hsum : a + b * 16 + c * 256 = 2 ^ 4 * (2 ^ 4 * c + b) + a := by omega
  rw [BitVec.getLsbD_ofNat, hsum, Nat.testBit_two_pow_mul_add _ ha, Nat.testBit_two_pow_mul_add _ hb]

/-- MTEST's word: the failing courses, those failing or fenced, and those in heat skip. -/
def MatSt.testWord (m : MatSt) : Word :=
  word (m.failing % 16 + rowBits (fun c => bit m.failing c || bit m.fenced c) 4 * 16 + m.heat % 16 * 256)

theorem execMtest_completes (f : DstF) (s : State) : Completes (.mtest f) s f.e
    { toX f.d f.w s.me.mat.testWord with effs := (toX f.d f.w s.me.mat.testWord).effs ++ [.fence4 (s.me.mat.failing % 16)] } := rfl

theorem MatSt.getLsbD_testWord (m : MatSt) (i : Nat) : m.testWord.getLsbD i =
    (decide (i < 64) && if i < 4 then (m.failing % 16).testBit i
      else if i - 4 < 4 then (rowBits (fun c => bit m.failing c || bit m.fenced c) 4).testBit (i - 4)
      else (m.heat % 16).testBit (i - 4 - 4)) :=
  getLsbD_word_nibbles (Nat.mod_lt _ (by decide)) (rowBits_lt _ 4) _ i

theorem testBit_mod_sixteen (n i : Nat) : (n % 16).testBit i = (decide (i < 4) && n.testBit i) := Nat.testBit_mod_two_pow n 4 i

theorem MatSt.testWord_course (m : MatSt) {c : Nat} (hc : c < 4) :
    m.testWord.getLsbD c = m.failing.testBit c ∧ m.testWord.getLsbD (4 + c) = (m.failing.testBit c || m.fenced.testBit c) ∧
      m.testWord.getLsbD (8 + c) = m.heat.testBit c := by
  have h4 : 4 + c - 4 = c := by omega
  have h8 : 8 + c - 4 - 4 = c := by omega
  refine ⟨?_, ?_, ?_⟩
  · rw [m.getLsbD_testWord, if_pos hc, testBit_mod_sixteen, decide_eq_true (by omega), decide_eq_true hc]
    rfl
  · rw [m.getLsbD_testWord, if_neg (by omega), h4, if_pos hc, testBit_rowBits, decide_eq_true (by omega), decide_eq_true hc,
      bit_eq_testBit, bit_eq_testBit]
    rfl
  · rw [m.getLsbD_testWord, if_neg (by omega), if_neg (by omega), h8, testBit_mod_sixteen, decide_eq_true (by omega), decide_eq_true hc]
    rfl

theorem MatSt.testWord_high (m : MatSt) {i : Nat} (hi : 12 ≤ i) : m.testWord.getLsbD i = false := by
  rw [m.getLsbD_testWord, if_neg (by omega), if_neg (by omega), testBit_mod_sixteen, decide_eq_false (by omega : ¬ i - 4 - 4 < 4),
    Bool.false_and, Bool.and_false]

/-- Settles O44: each instruction passes the checks that its hypotheses name; MTEST's word is read bit by bit. -/
theorem matrixStateInstructions : Obligations.MatrixStateInstructions := by
  unfold Obligations.MatrixStateInstructions
  refine ⟨fun f s => ?shapes, fun f s => ?zeros, fun f s h => ?background, fun f s => execMldsSp_of_passed, fun f s => ⟨rfl, rfl⟩,
    fun f s => rfl, fun f s => rfl, fun f s h => execMmode_of_free h, fun f s h => execMmode_of_record h, fun f s => ?test⟩
  case shapes =>
    exact ⟨exec_of_passed rfl, Faults.of_refused rfl, exec_of_passed rfl, Faults.of_refused rfl⟩
  case zeros =>
    exact ⟨fun h => exec_of_passed rfl (beq_eq_false_iff_ne.2 h), fun h => exec_of_passed rfl (beq_eq_false_iff_ne.2 h)⟩
  case background =>
    exact exec_of_passed rfl (by rw [h]; rfl)
  case test =>
    refine ⟨_, execMtest_completes f s, fun c hc => ?_⟩
    obtain ⟨hfail, hfence, hheat⟩ := s.me.mat.testWord_course hc
    exact ⟨hfail, hfence, hheat, fun i => s.me.mat.testWord_high⟩

/-! ### Epilogues (spec/07 R218) -/

/-- The elements that MACC.cvt and MACC.relu write into a tile of format `t`. -/
def Acc.converted (c : Acc) (t : Nat) (relu : Bool) (r : Rnd) : Wrote :=
  ({ rnd := r } : Wrote).map (!(c.tag == 4)) (fun m ftz x _ =>
    if c.tag == 4 then satInt (tagBits t) (if relu then max 0 (signed 32 x) else signed 32 x) else cvtAcc relu t m ftz x)
    (c.vals.map fun x => (x, 0))

/-- What MACC.cvt and MACC.relu complete with once their elements are converted. -/
def Tile.filled (t : Tile) (d : Nat) (c : Acc) (o : Wrote) : Res :=
  { effs := [.tile d { t with valid := BitVec.ofNat 256 (2 ^ c.rows - 1),
                              data := (o.vals.zipIdx).foldl (fun m x => tPut t.shape m (x.2 / c.cols) (x.2 % c.cols) x.1) t.data }]
    flags := o.flags, seed := if c.tag == 4 then none else o.rnd.out }

theorem maccTile_of_otherShape {i : Instr} {f : MaccF} {s : State} {relu : Bool} (hi : exec i s = s.maccTile f relu)
    (htag : (s.vw.acc f.a).tag ≠ 0) (hshape : tRows (s.vw.tile f.d).shape ≠ (s.vw.acc f.a).rows ∨
      tElems (s.vw.tile f.d).shape ≠ (s.vw.acc f.a).cols ∨ tBlk (s.vw.tile f.d).shape ≠ 0) :
    Faults i s { code := 3, i0 := word s.cl.pos, i1 := word 8 } :=
  Faults.of_refused (exec_of_passed hi (beq_eq_false_iff_ne.2 htag)) (by simpa [or_assoc] using hshape)

theorem maccTile_completes {i : Instr} {f : MaccF} {s : State} {relu : Bool} (hi : exec i s = s.maccTile f relu)
    (htag : (s.vw.acc f.a).tag ≠ 0) (hrows : tRows (s.vw.tile f.d).shape = (s.vw.acc f.a).rows)
    (hcols : tElems (s.vw.tile f.d).shape = (s.vw.acc f.a).cols) (hblk : tBlk (s.vw.tile f.d).shape = 0)
    (hkind : isIntTag (tFmt (s.vw.tile f.d).shape) = ((s.vw.acc f.a).tag == 4)) :
    Completes i s f.e ((s.vw.tile f.d).filled f.d (s.vw.acc f.a)
      ((s.vw.acc f.a).converted (tFmt (s.vw.tile f.d).shape) relu s.rnd)) :=
  exec_of_passed (exec_of_passed (exec_of_passed hi (beq_eq_false_iff_ne.2 htag)) (by simp [hrows, hcols, hblk])) (by simp [hkind])

theorem Acc.converted_int {c : Acc} (h : c.tag = 4) (t : Nat) (relu : Bool) (r : Rnd) : c.converted t relu r =
    Wrote.map { rnd := r } false (fun _ _ x _ => satInt (tagBits t) (if relu then max 0 (signed 32 x) else signed 32 x))
      (c.vals.map fun x => (x, 0)) := by
  simp only [Acc.converted, h, beq_self_eq_true, if_true, Bool.not_true]

theorem Acc.converted_float {c : Acc} (h : c.tag ≠ 4) (t : Nat) (relu : Bool) (r : Rnd) : c.converted t relu r =
    Wrote.map { rnd := r } true (fun m ftz x _ => cvtAcc relu t m ftz x) (c.vals.map fun x => (x, 0)) := by
  simp only [Acc.converted, beq_eq_false_iff_ne.2 h, Bool.false_eq_true, if_false, Bool.not_false]

/-- The element-wise sums of two accumulators, saturated where ISAT is on. -/
def Acc.sums (c a : Acc) (isat : Bool) (r : Rnd) : Wrote :=
  ({ rnd := r } : Wrote).map (!(c.tag == 4)) (fun m ftz x y =>
    if c.tag == 4 then if isat then satInt 32 (signed 32 x + signed 32 y) else (toCode 32 (signed 32 x + signed 32 y), 0)
    else roundTo 10 m ftz ((fmtFP32.decode x).add (m == .down) (fmtFP32.decode y))) (c.vals.zip a.vals)

theorem Acc.sums_int {c : Acc} (h : c.tag = 4) (a : Acc) (isat : Bool) (r : Rnd) : c.sums a isat r =
    Wrote.map { rnd := r } false (fun _ _ x y =>
      if isat then satInt 32 (signed 32 x + signed 32 y) else (toCode 32 (signed 32 x + signed 32 y), 0)) (c.vals.zip a.vals) := by
  simp only [Acc.sums, h, beq_self_eq_true, if_true, Bool.not_true]

theorem Acc.sums_float {c : Acc} (h : c.tag ≠ 4) (a : Acc) (isat : Bool) (r : Rnd) : c.sums a isat r =
    Wrote.map { rnd := r } true (fun m ftz x y =>
      roundTo 10 m ftz ((fmtFP32.decode x).add (m == .down) (fmtFP32.decode y))) (c.vals.zip a.vals) := by
  simp only [Acc.sums, beq_eq_false_iff_ne.2 h, Bool.false_eq_true, if_false, Bool.not_false]

/-- What MACC.add completes with once its sums are formed. -/
def Acc.filled (c : Acc) (d : Nat) (o : Wrote) : Res :=
  { effs := [.acc d { c with vals := o.vals }], flags := o.flags, seed := if c.tag == 4 then none else o.rnd.out }

theorem execMaccAdd_completes {f : MaccF} {s : State} (htag : (s.vw.acc f.d).tag ≠ 0) (hrows : (s.vw.acc f.d).rows = (s.vw.acc f.a).rows)
    (hcols : (s.vw.acc f.d).cols = (s.vw.acc f.a).cols) (hsame : (s.vw.acc f.d).tag = (s.vw.acc f.a).tag) :
    Completes (.maccAdd f) s f.e
      ((s.vw.acc f.d).filled f.d ((s.vw.acc f.d).sums (s.vw.acc f.a) (wbit s.me.mat.mode 1) s.rnd)) :=
  exec_of_passed (exec_of_passed (exec_of_passed rfl (by simp [← hsame, htag])) (by simp [hrows, hcols])) (by simp [hsame])

theorem execMaccScl_completes {f : SlotSrc} {s : State} (hc : (s.vw.acc f.d).tag = 10) (ha : (s.vw.acc f.a).tag = 10)
    (hrows : (s.vw.acc f.d).rows = (s.vw.acc f.a).rows) (hcols : (s.vw.acc f.d).cols = (s.vw.acc f.a).cols)
    (hk : (s.srcX f.b).toNat < 2 ^ 32) :
    let o := Wrote.map { rnd := s.rnd } true (fun m ftz x _ =>
      roundTo 10 m ftz ((fmtFP32.decode x).mul (fmtFP32.decode (s.srcX f.b).toNat))) ((s.vw.acc f.a).vals.map fun x => (x, 0))
    Completes (.maccScl f) s f.e
      { effs := [.acc f.d { s.vw.acc f.d with vals := o.vals }], flags := o.flags, seed := o.rnd.out } := by
  have hfield : field (s.srcX f.b) 63 32 = 0 := by
    rw [field, bits, Nat.div_eq_of_lt hk, Nat.zero_mod]
  exact exec_of_passed (exec_of_passed (exec_of_passed (exec_of_passed rfl (by simp [ha])) (by simp [hrows, hcols])) (by simp [hc, ha]))
    (by simp [hfield])

theorem execMaccLd_completes {f : MaccF} {s : State} (hfmt : tFmt (s.vw.tile f.a).shape ≠ 0)
    (hrows : tRows (s.vw.tile f.a).shape = (s.vw.acc f.d).rows) (hcols : tElems (s.vw.tile f.a).shape = (s.vw.acc f.d).cols)
    (hkind : isIntTag (tFmt (s.vw.tile f.a).shape) = ((s.vw.acc f.d).tag == 4)) :
    let c := s.vw.acc f.d
    let t := s.vw.tile f.a
    let qs := ((List.range c.rows).flatMap fun r => tRow t.shape t.data r).map (widen (tFmt t.shape))
    Completes (.maccLd f) s f.e
      { effs := [.acc f.d { c with vals := qs.map (·.1) }], flags := qs.foldl (fun a q => a ||| q.2) 0 } :=
  exec_of_passed (exec_of_passed (exec_of_passed rfl (beq_eq_false_iff_ne.2 hfmt)) (by simp [hrows, hcols])) (by simp [hkind])

/-- Settles O48: each epilogue passes the checks that its hypotheses name, and integer and float elements part by the accumulator's
format. -/
theorem accumulatorEpilogues : Obligations.AccumulatorEpilogues := by
  unfold Obligations.AccumulatorEpilogues
  refine ⟨fun f s => ⟨fun htag hshape i hi => ?otherShape, fun htag hrows hcols hblk hkind => ?converted⟩,
    fun f s htag hrows hcols hsame => ?sums, fun f s => execMaccScl_completes, fun f s hfmt _ => execMaccLd_completes hfmt⟩
  case otherShape =>
    obtain rfl | rfl : i = .maccCvt f ∨ i = .maccRelu f := by simpa using hi
    · exact maccTile_of_otherShape (relu := false) rfl htag hshape
    · exact maccTile_of_otherShape (relu := true) rfl htag hshape
  case converted =>
    have hcvt := maccTile_completes (i := .maccCvt f) (relu := false) rfl htag hrows hcols hblk hkind
    have hrelu := maccTile_completes (i := .maccRelu f) (relu := true) rfl htag hrows hcols hblk hkind
    refine ⟨fun hint => ?_, fun hfloat => ?_⟩
    · rw [Acc.converted_int hint] at hcvt hrelu
      exact ⟨hcvt, hrelu⟩
    · rw [Acc.converted_float hfloat] at hcvt hrelu
      exact ⟨hcvt, hrelu⟩
  case sums =>
    have hadd := execMaccAdd_completes htag hrows hcols hsame
    refine ⟨fun hint => ?_, fun hfloat => ?_⟩
    · rw [Acc.sums_int hint, wbit_eq_getLsbD] at hadd
      exact hadd
    · rw [Acc.sums_float hfloat] at hadd
      exact hadd

end Sys2Proof.Machine
end

section
/-! SUPPORT. The fold order (spec/07 R207): members sorted into bins by one and by two keys, the order as the blocks on their home
courses before the homeless ones, and O45. -/

namespace Sys2Proof.Machine

/-! ### Members sorted into bins -/

/-- A list's members sorted by their key, bin after bin, are those whose key has a bin. -/
theorem flatMap_filter_perm {α β : Type} [BEq β] [LawfulBEq β] (key : α → β) (l : List α) {ks : List β} (hks : ks.Nodup) :
    (ks.flatMap fun k => l.filter fun x => key x == k).Perm (l.filter fun x => ks.contains (key x)) := by
  induction ks with
  | nil => simp
  | cons k ks ih =>
    obtain ⟨hnew, hks⟩ := List.nodup_cons.1 hks
    have hfirst : (l.filter fun x => (k :: ks).contains (key x)).filter (fun x => key x == k) = l.filter fun x => key x == k := by
      rw [List.filter_filter]
      exact List.filter_congr fun x _ => by grind
    have hlater : (l.filter fun x => (k :: ks).contains (key x)).filter (fun x => !(key x == k)) =
        l.filter fun x => ks.contains (key x) := by
      rw [List.filter_filter]
      exact List.filter_congr fun x _ => by grind
    have hsplit := List.filter_append_perm (fun x => key x == k) (l.filter fun x => (k :: ks).contains (key x))
    rw [hfirst, hlater] at hsplit
    exact ((ih hks).append_left _).trans hsplit

/-- Bins that hold the same members each hold the same members together. -/
theorem flatMap_perm_flatMap {α β : Type} {f g : β → List α} (h : ∀ k, (f k).Perm (g k)) (ks : List β) :
    (ks.flatMap f).Perm (ks.flatMap g) := by
  induction ks with
  | nil => exact .refl _
  | cons k ks ih =>
    rw [List.flatMap_cons, List.flatMap_cons]
    exact (h k).append ih

/-- The same for two keys, the bins of the second inside those of the first. -/
theorem flatMap_flatMap_filter_perm {α β γ : Type} [BEq β] [LawfulBEq β] [BEq γ] [LawfulBEq γ] (key : α → β) (sub : α → γ)
    (l : List α) {ks : List β} {cs : List γ} (hks : ks.Nodup) (hcs : cs.Nodup) (hkey : ∀ x ∈ l, key x ∈ ks) :
    (ks.flatMap fun k => cs.flatMap fun c => l.filter fun x => sub x == c && key x == k).Perm
      (l.filter fun x => cs.contains (sub x)) := by
  have hinner : ∀ k, (cs.flatMap fun c => l.filter fun x => sub x == c && key x == k).Perm
      ((l.filter fun x => cs.contains (sub x)).filter fun x => key x == k) := fun k => by
    have h := flatMap_filter_perm sub (l.filter fun x => key x == k) hcs
    simp only [List.filter_filter] at h ⊢
    simpa only [Bool.and_comm] using h
  have hall : ((l.filter fun x => cs.contains (sub x)).filter fun x => ks.contains (key x)) = l.filter fun x => cs.contains (sub x) :=
    List.filter_eq_self.2 fun x hx => List.contains_iff_mem.2 (hkey x (List.mem_filter.1 hx).1)
  have houter := flatMap_filter_perm key (l.filter fun x => cs.contains (sub x)) hks
  rw [hall] at houter
  exact (flatMap_perm_flatMap hinner ks).trans houter

/-! ### The blocks of a fold -/

/-- A number below `n` is in one of the ⌈n / k⌉ groups of `k`. -/
theorem div_mem_upTo_ceilDiv {i n k : Nat} (hk : 0 < k) (hi : i < n) : i / k ∈ upTo (ceilDiv n k) :=
  List.mem_range.2 (Nat.div_lt_of_lt_mul (Nat.lt_of_lt_of_le hi (le_mul_ceilDiv hk n)))

theorem map_getD_upTo (l : List Nat) : (upTo l.length).map (fun j => l.getD j 0) = l := by
  apply List.ext_getElem <;> simp +contextual [upTo]

theorem coursesOf_nodup (mask : Nat) : (coursesOf mask).Nodup := List.nodup_range.filter _

/-- The courses that blocks have as home: all four in fixed-order mode, else those of P. -/
def homeCourses (p : List Nat) (fixed : Bool) : List Nat := if fixed then [0, 1, 2, 3] else p

theorem homeCourses_nodup {p : List Nat} (hp : p.Nodup) (fixed : Bool) : (homeCourses p fixed).Nodup := by
  cases fixed
  · exact hp
  · exact (by decide : [0, 1, 2, 3].Nodup)

/-- The blocks on their home courses, pass by pass and course by course. -/
def homeBlocks (nb q : Nat) (p : List Nat) : List Nat :=
  (upTo (ceilDiv nb (4 * q))).flatMap fun pass => p.flatMap fun c => (upTo nb).filter fun i => i % 4 == c && i / (4 * q) == pass

/-- The blocks of `d` dealt out among `n` courses, `q` to a course and pass. -/
def dealt (d : List Nat) (n q : Nat) : List Nat :=
  (upTo (ceilDiv d.length (n * q))).flatMap fun x => (upTo n).flatMap fun k =>
    ((upTo d.length).filter fun j => j / (n * q) == x && j % n == k).map fun j => d.getD j 0

theorem foldOrder_eq (nb q : Nat) (p : List Nat) (fixed : Bool) : foldOrder nb q p fixed =
    homeBlocks nb q (homeCourses p fixed) ++ dealt (homeless nb (homeCourses p fixed)) p.length q := rfl

theorem homeBlocks_perm (nb : Nat) {q : Nat} {p : List Nat} (hq : 0 < q) (hp : p.Nodup) :
    (homeBlocks nb q p).Perm ((upTo nb).filter fun i => p.contains (i % 4)) :=
  flatMap_flatMap_filter_perm (· / (4 * q)) (· % 4) (upTo nb) List.nodup_range hp fun _ hi =>
    div_mem_upTo_ceilDiv (by omega) (List.mem_range.1 hi)

/-- Dealing blocks out to at least one course, at least one at a time, leaves none behind. -/
theorem dealt_perm (d : List Nat) {n q : Nat} (hn : 0 < n) (hq : 0 < q) : (dealt d n q).Perm d := by
  have hpos := flatMap_flatMap_filter_perm (· / (n * q)) (· % n) (upTo d.length) List.nodup_range (List.nodup_range (n := n)) fun _ hj =>
    div_mem_upTo_ceilDiv (Nat.mul_pos hn hq) (List.mem_range.1 hj)
  have hall : ((upTo d.length).filter fun j => (List.range n).contains (j % n)) = upTo d.length :=
    List.filter_eq_self.2 fun j _ => by simp [Nat.mod_lt _ hn]
  rw [hall] at hpos
  have h := hpos.map fun j => d.getD j 0
  rw [map_getD_upTo] at h
  simpa only [dealt, upTo, List.map_flatMap, Bool.and_comm] using h

theorem dealt_nil (n q : Nat) : dealt [] n q = [] := by simp [dealt, upTo]

theorem homeless_fixed (nb : Nat) : homeless nb [0, 1, 2, 3] = [] :=
  List.filter_eq_nil_iff.2 fun i _ => by
    have := Nat.mod_lt i (show 0 < 4 by decide)
    simp
    omega

theorem foldOrder_fixed (nb q : Nat) (p : List Nat) : foldOrder nb q p true = homeBlocks nb q [0, 1, 2, 3] := by
  rw [foldOrder_eq, show homeCourses p true = [0, 1, 2, 3] from rfl, homeless_fixed, dealt_nil, List.append_nil]

/-- The blocks on their home courses and the homeless ones, which are dealt out, are all the blocks. -/
theorem foldOrder_perm (nb : Nat) {q : Nat} {p : List Nat} (fixed : Bool) (hq : 0 < q) (hnodup : p.Nodup) (hne : p ≠ []) :
    (foldOrder nb q p fixed).Perm (List.range nb) := by
  rw [foldOrder_eq]
  have hhome := homeBlocks_perm nb hq (homeCourses_nodup hnodup fixed)
  have hextra := dealt_perm (homeless nb (homeCourses p fixed)) (List.length_pos_iff.2 hne) hq
  exact (hhome.append hextra).trans (List.filter_append_perm _ _)

/-- Settles O45. In fixed-order mode every block has a home, so that the courses do not matter. -/
theorem foldOrderIsAPermutation : Obligations.FoldOrderIsAPermutation := by
  unfold Obligations.FoldOrderIsAPermutation
  intro nb q mask fixed hq hne
  exact ⟨foldOrder_perm nb fixed hq (coursesOf_nodup mask) hne, fun other _ => by rw [foldOrder_fixed, foldOrder_fixed]⟩

end Sys2Proof.Machine
end

section
/-! SUPPORT. MMA and MGO (spec/07 R205 to R217): how one step of a job ends, the operands and the progress with which a step is taken, the
ends of an iteration and of a nest, and O47. -/

namespace Sys2Proof.Machine

/-! ### One step of a job -/

/-- What follows a step of a job of `steps` steps: a boundary before the last, then MRESIDUE where an element has failed, else `done`. -/
def State.afterStep (s : State) (e : Bool) (steps : Nat) (p : Progress) (done : State) : State :=
  if p.step < steps then s.boundary p
  else match p.bad with
    | some x => s.residueTrap e x
    | none => done

/-- The three outcomes of a step. -/
theorem State.afterStep_outcomes {out : Out} {s : State} {e : Bool} {steps : Nat} {p : Progress} {done : State}
    (h : out = .next (s.afterStep e steps p done)) :
    (p.step < steps → out = .next (s.boundary p)) ∧
    (steps ≤ p.step → ∀ b, p.bad = some b → out = .next (s.residueTrap e b)) ∧
    (steps ≤ p.step → p.bad = none → out = .next done) := by
  subst h
  refine ⟨fun hstep => ?_, fun hlast b hbad => ?_, fun hlast hgood => ?_⟩
  · rw [State.afterStep, if_pos hstep]
  · rw [State.afterStep, if_neg (Nat.not_lt.2 hlast), hbad]
  · rw [State.afterStep, if_neg (Nat.not_lt.2 hlast), hgood]

/-- A list with a member is not taken for empty. -/
theorem if_isEmpty_of_ne_nil {α β : Type} {l : List α} (h : l ≠ []) (x y : β) : (if l.isEmpty then x else y) = y := by
  simp [h]

/-! ### MMA (spec/07 R205, R206) -/

/-- An MMA's operand A: a tile or the unit at the head of a stream register, with the pop that it makes and its flags. -/
def State.mmaOperand (s : State) (f : MmaF) (a : OpA) (pop : List Eff) (fl : Word) : Prop :=
  (∃ n, f.a = .reg n ∧ a = opTile (s.vw.tile n).shape (s.vw.tile n).valid (s.vw.tile n).data ∧ pop = [] ∧ fl = 0) ∨
    ∃ n u, f.a = .queue n ∧ s.popUnit n (s.poppedHere n) = .ok (some u) ∧ a = opUnit u ∧ pop = [.qpop n] ∧ fl = u.flags

/-- An MMA whose operands pass its checks takes a step. -/
theorem exec_mma_of_checked {f : MmaF} {s : State} {a : OpA} {pop : List Eff} {fl : Word} (hop : s.mmaOperand f a pop fl)
    (hcheck : s.mmaCheck a (s.vw.acc f.d) (s.srcX f.b) f.s f.p = none) :
    exec (.mma f) s = .next (s.mmaStep f (jobOf a s.me.mat.active f.s (s.srcX f.b)) pop fl) := by
  show execMma f s = _
  obtain ⟨n, hfa, rfl, rfl, rfl⟩ | ⟨n, u, hfa, hpop, rfl, rfl, rfl⟩ := hop
  · simp only [execMma, hfa, hcheck]
  · simp only [execMma, hfa, hpop, hcheck]

/-- The progress with which an MMA takes a step: its first keeps the live rows as they stand. -/
def Progress.keepRows (p : Progress) (live : List Bool) : Progress := if p.step == 0 then { p with mask := rowMask live } else p

/-- The job with the rows of a mask live. -/
def MatJob.masked (j : MatJob) (mask : BitVec 256) : MatJob := { j with live := (upTo j.rows).map fun r => mask.getLsbD r }

/-- The end of an MMA after its last step: the write-back, the fold report and the pops. -/
def State.mmaEnd (s : State) (f : MmaF) (j : MatJob) (cs order : List Nat) (fixed : Bool) (pop : List Eff) (fl : Word)
    (p : Progress) : State :=
  let c := s.vw.acc f.d
  let w := j.writeBack (wbit s.me.mat.mode 1) p.staged c.cols 0 0 c.vals s.rnd
  (s.setProg p).finish f.e (.done {
    effs := [.acc f.d { c with vals := w.vals }, .fold (foldReport order j.nb (foldPasses j.nb j.q cs) p.courses fixed p.mixed f.p)] ++ pop
    flags := p.flags ||| w.flags ||| fl, seed := w.rnd.out })

/-- With a course to run on, an MMA takes the step of its masked job and goes on as `afterStep` says. -/
theorem State.mmaStep_of_courses {s st : State} {f : MmaF} {j : MatJob} {pop : List Eff} {fl : Word} {p0 : Progress}
    (hstart : s.courseStart false = (p0, st)) (hcs : coursesOf p0.courses ≠ []) :
    let cs := coursesOf p0.courses
    let p := p0.keepRows j.live
    let k := j.masked p.mask
    let order := foldOrder k.nb k.q cs st.foldFixed
    let x := st.arrayStep k p cs order
    s.mmaStep f j pop fl = x.2.afterStep f.e k.steps x.1 (x.2.mmaEnd f k cs order st.foldFixed pop fl x.1) := by
  unfold State.mmaStep
  rw [hstart]
  exact if_isEmpty_of_ne_nil hcs _ _

/-! ### MGO (spec/07 R216, R217) -/

/-- An MGO that has begun, or whose checks pass, takes a step. -/
theorem exec_mgo_of_checked {f : MgoF} {s : State} (h : s.prog.active = false → s.mgoCheck f s.me.mat.nestShadow.toList = none) :
    exec (.mgo f) s = .next (s.mgoStep f s.me.mat.nestShadow.toList) := by
  show execMgo f s = _
  cases hact : s.prog.active
  · simp only [execMgo, hact, h hact, Bool.false_eq_true, if_false]
  · simp only [execMgo, hact, if_true]

/-- The progress with which an MGO takes a step: the first keeps the base words, the accumulator, the seed and the live rows. -/
def State.mgoBegun (s : State) (f : MgoF) (p : Progress) : Progress :=
  if p.iter == 0 && p.step == 0 then
    { p with words := [s.vw.xreg f.b, s.vw.xreg (f.b + 1)], accs := (s.vw.acc f.d).vals, seed := s.rnd.seed, mask := (s.vw.tile f.a).valid }
  else p

/-- The offset of A's image in the present iteration. -/
def Progress.offA (p : Progress) (t : List Word) : Int := (baseA (p.words.getD 0 0) : Int) + 64 * nestSum t (nestIdx t p.iter) lvA

/-- The offset of B's image in the present iteration. -/
def Progress.offB (p : Progress) (t : List Word) : Int := (baseB (p.words.getD 0 0) : Int) + 64 * nestSum t (nestIdx t p.iter) lvB

/-- Whether the step reads B's image: the first of an iteration that finds it at another offset. -/
def Progress.loadsB (p : Progress) (t : List Word) : Bool := p.step == 0 && (p.iter == 0 || p.boff != p.offB t)

/-- The progress with B's image of the present iteration in the working plane. -/
def State.mgoLoaded (s : State) (t : List Word) (p : Progress) : Progress :=
  if p.loadsB t then { p with boff := p.offB t, work := s.loadB s.me.mat.active (p.offB t).toNat } else p

theorem State.mgoLoaded_words (s : State) (t : List Word) (p : Progress) : (s.mgoLoaded t p).words = p.words := by
  unfold State.mgoLoaded
  split <;> rfl

/-- The MMA of the present iteration: A's image at its offset, the working plane, and the tensor-scale word. -/
def State.mgoJob (s : State) (f : MgoF) (off : Nat) (p : Progress) : MatJob :=
  jobOf (opTile (s.vw.tile f.a).shape p.mask (s.scrUnit off (tBytes (s.vw.tile f.a).shape))) p.work f.s (p.words.getD 1 0)

/-- The progress after an iteration whose elements have been written back as `w`. -/
def Progress.iterated (p : Progress) (w : Wrote) : Progress :=
  { p with step := 0, iter := p.iter + 1, staged := [], flags := p.flags ||| w.flags, seed := w.rnd.seed, accs := w.vals }

/-- The write-back of an iteration `i` into the accumulator values so far, at the row and column of its indices. -/
def State.mgoWrote (s : State) (c : Acc) (t : List Word) (i : Nat) (j : MatJob) (p : Progress) : Wrote :=
  j.writeBack (wbit s.me.mat.mode 1) p.staged c.cols (nestSum t (nestIdx t i) fun w => lvCr w).toNat
    (nestSum t (nestIdx t i) fun w => lvCc w).toNat p.accs { s.rnd with seed := p.seed }

/-- The end of a nest: the accumulator, the fold report and the nest made active. -/
def State.mgoEnd (s : State) (f : MgoF) (c : Acc) (j : MatJob) (cs order : List Nat) (fixed : Bool) (seed : Option Word)
    (p : Progress) : State :=
  (s.setProg p).finish f.e (.done {
    effs := [.nestGo, .acc f.d { c with vals := p.accs },
             .fold (foldReport order j.nb (foldPasses j.nb j.q cs) p.courses fixed p.mixed f.p)]
    flags := p.flags, seed := seed })

/-- With a course to run on and images without an error, an MGO takes the step of its iteration's MMA and goes on as `afterStep` says: an
iteration that is not the last ends at a boundary. -/
theorem State.mgoStep_of_courses {s st : State} {f : MgoF} {t : List Word} {p0 p1 : Progress}
    (hstart : s.courseStart (s.prog.step == 0) = (p0, st)) (hcs : coursesOf p0.courses ≠ []) (hbegun : st.mgoBegun f p0 = p1)
    (ha : st.scratchFlaw (p1.offA t).toNat (tBytes (st.vw.tile f.a).shape) = none)
    (hb : p1.loadsB t = true → st.scratchFlaw (p1.offB t).toNat st.me.mat.active.bytes = none) :
    let cs := coursesOf p0.courses
    let c := st.vw.acc f.d
    let p := st.mgoLoaded t p1
    let j := st.mgoJob f (p1.offA t).toNat p
    let order := foldOrder j.nb j.q cs st.foldFixed
    let x := st.arrayStep j p cs order
    let w := x.2.mgoWrote c t p1.iter j x.1
    let u := x.1.iterated w
    s.mgoStep f t = x.2.afterStep f.e j.steps x.1
      (if u.iter < nestRuns t then x.2.boundary u else x.2.mgoEnd f c j cs order st.foldFixed w.rnd.out u) := by
  unfold State.mgoStep
  rw [hstart]
  dsimp -zeta only
  extract_lets cs c p j order x w u a p2 base ix offA offB p3 loads p4 j4 fixed order4 row col rnd w4 u4
  have hp2 : p2.words = p1.words ∧ p2.iter = p1.iter ∧ p3 = p1 := by
    rw [← hbegun, State.mgoBegun]
    simp only [p3, p2]
    by_cases hfirst : (p0.iter == 0 && p0.step == 0) = true
    · simp only [if_pos hfirst, a, c, and_self]
    · simp only [if_neg hfirst, and_self]
  obtain ⟨hwords, hiter, hp3⟩ := hp2
  have hbase : base = p1.words.getD 0 0 := by rw [← hwords]
  have hix : ix = nestIdx t p1.iter := by rw [← hiter]
  clear_value base ix p3
  subst hbase hix hp3
  have hflawA : st.scratchFlaw offA.toNat (tBytes a.shape) = none := ha
  have hflawB : (if loads = true then st.scratchFlaw offB.toNat st.me.mat.active.bytes else none) = none := by
    split
    · exact hb ‹_›
    · rfl
  rw [if_isEmpty_of_ne_nil hcs, hflawA, hflawB]
  rfl

theorem State.mgoJob_mgoLoaded (s : State) (f : MgoF) (t : List Word) (off : Nat) (p : Progress) :
    s.mgoJob f off (s.mgoLoaded t p) = jobOf (opTile (s.vw.tile f.a).shape (s.mgoLoaded t p).mask
      (s.scrUnit off (tBytes (s.vw.tile f.a).shape))) (s.mgoLoaded t p).work f.s (p.words.getD 1 0) := by
  rw [State.mgoJob, s.mgoLoaded_words]

/-- Settles O47: MMA and MGO take a step of their job and go on as `afterStep` says; the progress with which MGO takes it is `mgoBegun`,
which keeps the base words of the nest's first step. -/
theorem matrixProducts : Obligations.MatrixProducts := by
  unfold Obligations.MatrixProducts
  refine ⟨fun f s a pop fl hop hcheck => ?mma, fun f s => ?mgo⟩
  case mma =>
    intro st p0 cs p j order x q u hcs
    have hexec := exec_mma_of_checked hop hcheck
    rw [State.mmaStep_of_courses rfl hcs] at hexec
    exact State.afterStep_outcomes hexec
  case mgo =>
    intro t hcheck st p0 cs a c first words base ix aoff boff p1 loads p j order y q z hcs hflawA hflawB
    have hp1 : st.mgoBegun f p0 = p1 ∧ words = p1.words ∧ p0.iter = p1.iter := by
      rw [State.mgoBegun]
      by_cases hfirst : (p0.iter == 0 && p0.step == 0) = true
      · simp only [p1, words, first, a, c, if_pos hfirst, and_self]
      · simp only [p1, words, first, if_neg hfirst, and_self]
    obtain ⟨hbegun, hwords, hiter⟩ := hp1
    have hix : ix = nestIdx t p1.iter := by rw [← hiter]
    clear_value words ix p1
    subst hwords hix
    have hexec := exec_mgo_of_checked hcheck
    rw [State.mgoStep_of_courses rfl hcs hbegun hflawA hflawB, State.mgoJob_mgoLoaded] at hexec
    obtain ⟨hmore, hfail, hend⟩ := State.afterStep_outcomes hexec
    refine ⟨hmore, hfail, fun hlast hgood => ⟨fun hruns => ?_, fun hruns => ?_⟩⟩
    · exact (hend hlast hgood).trans (congrArg _ (if_pos hruns))
    · exact (hend hlast hgood).trans (congrArg _ (if_neg (Nat.not_lt.2 hruns)))

end Sys2Proof.Machine
end

section
/-! SUPPORT. Suspension points, launch records and edges (spec/08 R236 to R241): what each completes with where no channel is suspended, O26 and
O27. -/

namespace Sys2Proof.Machine

/-! ### Suspension points (spec/08 R236 to R238) -/

/-- With no suspended channel a suspension point goes on at once, the adds of lower positions performed. -/
theorem State.suspPoint_of_running {s : State} {e : Bool} {go : State → State} (h : ∀ ch, (s.me.chan ch).susp = none) :
    s.suspPoint e go = go s.settleAdds :=
  State.withChans_of_running fun ch _ => h ch

section
variable {s : State} (hrun : ∀ ch, (s.me.chan ch).susp = none)
include hrun

theorem exec_susp_of_readable {f : SrcPair} {l : Loc} (h : s.srcS f.a = 0 ∨ s.settleAdds.access (s.srcS f.a) 8 .read true = .ok l) :
    exec (.susp f) s = .next (s.settleAdds.finish f.e (.done { post := .suspend 1 (s.srcS f.a) (s.srcS f.b) })) := by
  show execSusp f s = _
  simp only [execSusp, State.suspPoint_of_running hrun]
  by_cases hzero : s.srcS f.a = 0
  · simp only [hzero, beq_self_eq_true, if_true]
  · simp only [beq_eq_false_iff_ne.2 hzero, h.resolve_left hzero, Bool.false_eq_true, if_false]

theorem exec_suspBar_of_readable {f : SrcPair} {l : Loc} (h : s.settleAdds.access (s.srcS f.a) 16 .read true = .ok l) :
    exec (.suspBar f) s = .next (s.settleAdds.finish f.e (.done { post := .suspend 3 (s.srcS f.a) (s.srcS f.b &&& 1) })) := by
  show execSuspBar f s = _
  simp only [execSuspBar, State.suspPoint_of_running hrun, h]

theorem exec_suspEnd_of_running (f : EndF) :
    exec (.suspEnd f) s = .next (s.settleAdds.finish f.e (.done { post := .finish })) :=
  congrArg Host.Outcome.next (State.suspPoint_of_running hrun)

theorem exec_yield_of_running (f : DstF) : exec (.yield f) s = .next (s.settleAdds.finish f.e (.done (
    if s.settleAdds.readyWaits || s.settleAdds.inGang then { post := .yielded } else { toS f.d f.w 0 with post := .noSuspend }))) :=
  congrArg Host.Outcome.next (State.suspPoint_of_running hrun)

end

/-- Settles O27: with no suspended channel each instruction is its row in the state where the adds of lower positions are performed. -/
theorem suspensionPoints : Obligations.SuspensionPoints := by
  unfold Obligations.SuspensionPoints
  refine fun s hrun => ⟨fun f l => exec_susp_of_readable hrun, fun f l => exec_suspBar_of_readable hrun, exec_suspEnd_of_running hrun,
    fun f => ⟨fun hgive => ?_, fun hready hgang => ?_⟩⟩
  · rw [exec_yield_of_running hrun, if_pos (Bool.or_eq_true_iff.2 hgive)]
  · rw [exec_yield_of_running hrun, hready, hgang]
    rfl

/-! ### Launch records (spec/08 R240, R241) -/

section
variable {s : State} {a : Word} {r : Nat}

/-- LPATCH of a record that is armed changes nothing. -/
theorem State.lpatch_of_armed {v : Nat} (hfield : field a 63 15 = 0) (hindex : field a 11 0 < s.lrCount)
    (hread : s.lrNow (field a 11 0) = .ok r) (harmed : s.armedNow (field a 11 0) = true) : s.lpatch a v = .ok none := by
  simp [State.lpatch, hfield, Nat.not_le.2 hindex, hread, harmed]

/-- LPATCH of a record that is not armed puts a value that fits into the declared slot. -/
theorem State.lpatch_of_fits {v : Nat} {t : State} (hfield : field a 63 15 = 0) (hindex : field a 11 0 < s.lrCount)
    (hread : s.lrNow (field a 11 0) = .ok r) (harmed : s.armedNow (field a 11 0) = false) :
    let slot := bits r (704 + 16 * field a 14 12 + 15) (704 + 16 * field a 14 12)
    slotDeclared r slot = true → v < 2 ^ (bits slot 15 10 + 1) →
    s.kWrite s.me.cont.asid (s.lrAddr s.me.cont.asid (field a 11 0) + 8 * bits slot 3 0) (bytesOf 8 0) = .ok t →
    s.lpatch a v = .ok (some (.patch (field a 11 0) (bits slot 3 0) (bits slot 9 4) (bits slot 15 10 + 1) v)) := by
  intro slot hslot hfits hwrite
  simp [State.lpatch, hfield, Nat.not_le.2 hindex, hread, harmed, slot, hslot, Nat.not_le.2 hfits, hwrite]

/-- An arm of a record that is armed finds code 2. -/
theorem State.armOutcome_of_armed (hfield : field a 63 12 = 0) (hindex : field a 11 0 < s.lrCount)
    (hread : s.lrNow (field a 11 0) = .ok r) (harmed : s.armedNow (field a 11 0) = true) : s.armOutcome a = .ok (2, r) := by
  simp [State.armOutcome, hfield, Nat.not_le.2 hindex, hread, harmed]

/-- An arm of a sound record that is not armed finds room in the next tier, or none. -/
theorem State.armOutcome_of_sound (hfield : field a 63 12 = 0) (hindex : field a 11 0 < s.lrCount)
    (hread : s.lrNow (field a 11 0) = .ok r) (harmed : s.armedNow (field a 11 0) = false) (hsound : headerBad r = false) :
    s.armOutcome a = .ok (if s.tierFullNow (s.me.cont.tier + 1) then 1 else 0, r) := by
  cases hfull : s.tierFullNow (s.me.cont.tier + 1) <;>
    simp [State.armOutcome, hfield, Nat.not_le.2 hindex, hread, harmed, hsound, hfull]

end

/-- The result of an arm with code `n`, where it does not suspend: with code 0 it arms record `i` for `tier` as it was read. -/
def armRes (d : Nat) (w : Bool) (n i tier copy : Nat) : Res :=
  { toS d w (word n) with effs := (toS d w (word n)).effs ++ if n = 0 then [.arm i tier copy] else [] }

theorem exec_lpatch_of_none {f : RR} {s : State} (h : s.lpatch (s.srcS f.a) (s.srcS f.b).toNat = .ok none) :
    Completes (.lpatch f) s f.e (toS f.d f.w 2) := by
  show execLpatch f s = _
  simp only [execLpatch, h]

theorem exec_lpatch_of_some {f : RR} {s : State} {x : Eff} (h : s.lpatch (s.srcS f.a) (s.srcS f.b).toNat = .ok (some x)) :
    Completes (.lpatch f) s f.e { toS f.d f.w 0 with effs := (toS f.d f.w 0).effs ++ [x] } := by
  show execLpatch f s = _
  simp only [execLpatch, h]

theorem exec_larm_of_topTier {f : R1} {s : State} (h : s.settleAdds.me.cont.tier = 3) :
    exec (.larm f) s = .next (s.settleAdds.finish f.e (.done (toS f.d f.w 3))) := by
  show execLarm f s = _
  simp only [execLarm, h, beq_self_eq_true, if_true]

theorem exec_larm_of_outcome {f : R1} {s : State} {n copy : Nat} (htier : s.settleAdds.me.cont.tier ≠ 3)
    (h : s.settleAdds.armOutcome (s.srcS f.a) = .ok (n, copy)) : exec (.larm f) s = .next (s.settleAdds.finish f.e (.done
      (armRes f.d f.w n (field (s.srcS f.a) 11 0) (s.settleAdds.me.cont.tier + 1) copy))) := by
  show execLarm f s = _
  by_cases hn : n = 0 <;> simp [execLarm, htier, h, hn, armRes]

theorem exec_larmw_of_outcome {f : R1} {s : State} {n copy : Nat} (hrun : ∀ ch, (s.me.chan ch).susp = none)
    (htier : s.settleAdds.me.cont.tier ≠ 3) (h : s.settleAdds.armOutcome (s.srcS f.a) = .ok (n, copy)) :
    exec (.larmw f) s = .next (s.settleAdds.finish f.e (.done (
      if n = 1 ∨ s.settleAdds.inGang = true then { post := .armWait (field (s.srcS f.a) 11 0) copy }
      else { armRes f.d f.w n (field (s.srcS f.a) 11 0) (s.settleAdds.me.cont.tier + 1) copy with post := .noSuspend }))) := by
  show execLarmw f s = _
  simp only [execLarmw, State.suspPoint_of_running hrun, beq_iff_eq, if_neg htier, h, Bool.or_eq_true, apply_ite Got.done]
  by_cases hn : n = 0 <;> simp [hn, armRes]

/-! ### Edges (spec/08 R239) -/

theorem exec_eput_of_room {f : RR} {s : State} {room : Bool} (h : s.settleAdds.edgeRoom (s.srcS f.a) = .ok room) :
    exec (.eput f) s = .next (s.settleAdds.finish f.e (.done { toS f.d f.w (if room then 0 else 1) with
      effs := (toS f.d f.w (if room then 0 else 1)).effs ++
        if room then [.edgePut (s.srcS f.a).toNat (s.settleAdds.srcS f.b)] else [] })) := by
  show execEput f s = _
  cases room <;> simp [execEput, h, ofBool]

theorem exec_eputW_of_room {f : SrcPair} {s : State} {room : Bool} (hrun : ∀ ch, (s.me.chan ch).susp = none)
    (h : s.settleAdds.edgeRoom (s.srcS f.a) = .ok room) :
    exec (.eputW f) s = .next (s.settleAdds.finish f.e (.done (
      if room = true ∧ s.settleAdds.inGang = false then { effs := [.edgePut (s.srcS f.a).toNat (s.srcS f.b)], post := .noSuspend }
      else { post := .putWait (s.srcS f.a).toNat (s.srcS f.b) }))) := by
  show execEputW f s = _
  simp only [execEputW, State.suspPoint_of_running hrun, h, Bool.and_eq_true, Bool.not_eq_true']

/-- Settles O26: the first outcome that applies of an LPATCH and of an arm, then each instruction by the outcome it finds. -/
theorem launchAndEdgeInstructions : Obligations.LaunchAndEdgeInstructions := by
  unfold Obligations.LaunchAndEdgeInstructions
  refine ⟨fun f s r => ?patch, fun s a r => ?outcome, fun f s n c => ?arm, fun f s room => exec_eput_of_room,
    fun f s room => exec_eputW_of_room⟩
  case patch =>
    intro a v i slot hfield hindex hread
    refine ⟨fun harmed => ?_, fun harmed hslot hfits hwrite => ?_⟩
    · exact exec_lpatch_of_none (State.lpatch_of_armed hfield hindex hread harmed)
    · obtain ⟨t, hwrite⟩ := hwrite
      exact exec_lpatch_of_some (State.lpatch_of_fits hfield hindex hread harmed hslot hfits hwrite)
  case outcome =>
    exact fun hfield hindex hread =>
      ⟨State.armOutcome_of_armed hfield hindex hread, State.armOutcome_of_sound hfield hindex hread⟩
  case arm => exact ⟨exec_larm_of_topTier, exec_larm_of_outcome, exec_larmw_of_outcome⟩

end Sys2Proof.Machine
end

section
/-! SUPPORT. Traps, returns, work identifiers and regions (spec/08 R228 to R230, R234, R242, R243): ERET.run by what it finds, and O28. -/

namespace Sys2Proof.Machine

/-! ### ERET.run (spec/08 R229) -/

/-- A wait at a position changes the moving stream's clause alone. -/
theorem State.finish_stay_me (s : State) (e : Bool) :
    (s.finish e .stay).me = s.me.onStrm s.cur.strm fun t => { t with clause := t.clause.hold } := by
  simp [State.finish, State.onCl, State.onSt]

theorem exec_eretRun_of_user {f : EretRunF} {s : State} (h : s.me.trap.super = false) :
    Faults (.eretRun f) s { code := 2, i0 := 0x1000 } := by
  show execEretRun f s = _
  simp only [execEretRun, h]
  rfl

theorem exec_eretRun_of_result {f : EretRunF} {s : State} {v : Word} (hsuper : s.me.trap.super = true)
    (h : s.me.trap.erun.result = some v) : Completes (.eretRun f) s f.e (toS f.d f.w v) := by
  show execEretRun f s = _
  simp only [execEretRun, hsuper, h]
  rfl

/-- ERET.run where no run is in progress and none has ended: its operands, then the stream it names. -/
theorem exec_eretRun_of_idle {f : EretRunF} {s : State} (hsuper : s.me.trap.super = true) (hres : s.me.trap.erun.result = none)
    (hidle : s.me.trap.erun.active = false) :
    let b := (s.srcS f.b).toNat
    exec (.eretRun f) s = .next (
      if b = 0 ∨ 64 < b ∨ (s.srcS f.a).toNat % 4 ≠ 0 then s.finish f.e (.done (toS f.d f.w 1))
      else if (s.me.strm (strmOf f.x)).prog.active then s.finish f.e (.done (toS f.d f.w 3))
      else (s.onMe fun c => c.erunStart (strmOf f.x) (s.srcS f.a) b).finish f.e .stay) := by
  show execEretRun f s = _
  simp [execEretRun, hsuper, hres, hidle, or_assoc]

/-- A run that starts is recorded in the core, with where its stream stood. -/
theorem Core.erunStart_erun (c : Core) (k : Strm) (a : Word) (b : Nat) : (c.erunStart k a b).trap.erun =
    { active := true, strm := k, want := b, did := 0, base := a, savedPc := (c.strm k).pc } := by
  simp [Core.erunStart]

/-- Its stream runs from the address. -/
theorem Core.erunStart_strm (c : Core) (k : Strm) (a : Word) (b : Nat) :
    ((c.erunStart k a b).strm k).pc = a ∧ ((c.erunStart k a b).strm k).stopped = false := by
  simp [Core.erunStart]

/-! ### Positions that a level or a region decides -/

/-- A position that completes where a test passes, and faults where it does not. -/
theorem completes_or_faults_of_test {i : Instr} {s : State} {e b : Bool} {r : Res} {c : Cause}
    (h : exec i s = .next (s.finish e (if b then .done r else .trap c))) : (b = true → Completes i s e r) ∧ (b = false → Faults i s c) := by
  refine ⟨fun hb => ?_, fun hb => ?_⟩
  · rw [Completes, h, if_pos hb]
  · rw [Faults, h, if_neg (ne_true_of_eq_false hb), State.finish_trap]

theorem exec_eret_by_level (f : EndF) (s : State) : (s.me.trap.super = true → Completes (.eret f) s f.e { post := .eret }) ∧
    (s.me.trap.super = false → Faults (.eret f) s { code := 2, i0 := 0x1000 }) := completes_or_faults_of_test rfl

theorem exec_eretFail_by_level (f : EndF) (s : State) :
    (s.me.trap.super = true → Completes (.eretFail f) s f.e { post := .eretFail }) ∧
    (s.me.trap.super = false → Faults (.eretFail f) s { code := 2, i0 := 0x1000 }) := completes_or_faults_of_test rfl

theorem exec_npbegin_by_region (f : EndF) (s : State) : (s.me.np = false → Completes (.npbegin f) s f.e { effs := [.npBegin] }) ∧
    (s.me.np = true → Faults (.npbegin f) s { code := 1, i0 := 6 }) := ⟨exec_of_passed rfl, .of_refused rfl⟩

theorem exec_npend_by_region (f : EndF) (s : State) : (s.me.np = true → Completes (.npend f) s f.e { effs := [.npEnd] }) ∧
    (s.me.np = false → Faults (.npend f) s { code := 1, i0 := 7 }) := completes_or_faults_of_test rfl

/-! ### WID (spec/08 R242) -/

theorem exec_wid_whole {f : DstNum} {s : State} (h : f.n = 0) : Completes (.wid f) s f.e (toS f.d f.w s.me.cont.wid) := by
  show execWid f s = _
  simp only [execWid, h, beq_self_eq_true, if_true]

theorem exec_wid_field {f : DstNum} {s : State} {g : Graph} (h : f.n ≠ 0) (hgraph : s.graph s.me.cont.asid s.me.cont.lrec = some g) :
    Completes (.wid f) s f.e (toS f.d f.w (word (widField g.copy s.me.cont.wid.toNat f.n))) := by
  show execWid f s = _
  simp only [execWid, beq_eq_false_iff_ne.2 h, hgraph, Bool.false_eq_true, if_false]

/-- Settles O28: each exec is its arm under the level or the region; ERET.run that starts a run leaves it in the core. -/
theorem trapInstructions : Obligations.TrapInstructions := by
  unfold Obligations.TrapInstructions
  refine ⟨fun f s => ⟨rfl, rfl⟩, fun f s => ?byLevel, fun f s => ⟨exec_eretRun_of_user, fun hsuper => ⟨fun v => exec_eretRun_of_result hsuper,
    fun hres hidle => ⟨fun hbad => ?bad, fun hlo hhi halign => ?good⟩⟩⟩, fun f s => ⟨exec_wid_whole, fun hn g => exec_wid_field hn⟩⟩
  case byLevel =>
    obtain ⟨hret, hretUser⟩ := exec_eret_by_level f s
    obtain ⟨hfail, hfailUser⟩ := exec_eretFail_by_level f s
    obtain ⟨hbegin, hbeginIn⟩ := exec_npbegin_by_region f s
    obtain ⟨hend, hendOut⟩ := exec_npend_by_region f s
    exact ⟨fun h => ⟨hret h, hfail h⟩, fun h => ⟨hretUser h, hfailUser h⟩, fun h => ⟨hbegin h, hendOut h⟩, fun h => ⟨hend h, hbeginIn h⟩⟩
  case bad => exact (exec_eretRun_of_idle hsuper hres hidle).trans (congrArg _ (if_pos hbad))
  case good =>
    have hrun := (exec_eretRun_of_idle (f := f) hsuper hres hidle).trans (congrArg _ (if_neg (by omega)))
    refine ⟨fun hprog => hrun.trans (congrArg _ (if_pos hprog)), fun hprog =>
      ⟨_, hrun.trans (congrArg _ (if_neg (ne_true_of_eq_false hprog))), ?_, fun hother => ?_⟩⟩
    · rw [State.finish_stay_me, State.onMe_me, Core.onStrm_trap, Core.erunStart_erun]
    · rw [State.finish_stay_me, State.onMe_me, State.onMe_cur, Core.onStrm_strm, if_neg hother]
      exact Core.erunStart_strm ..

end Sys2Proof.Machine
end

section
/-! SUPPORT. What stops the machine (spec/08 R222; spec/09 R280; spec/17 R432, R442): every instruction and event answers a next state, a turn stops
only without supplies or clocks, and O7. -/

namespace Sys2Proof.Machine

/-! ### Operations that answer a next state -/

/-- The operation answers a next state: it neither stops the machine nor is refused. -/
def Answers (o : Out) : Prop := ∃ t, o = .next t

theorem answers_next (s : State) : Answers (.next s) := ⟨s, rfl⟩

theorem Answers.ite {p : Prop} [Decidable p] {a b : Out} (ha : Answers a) (hb : Answers b) : Answers (if p then a else b) := by
  split
  · exact ha
  · exact hb

/-! ### What the engine's words are made of (spec/09 R249, R255, R280) -/

theorem State.answers_engStop (s : State) (status row column bank : Nat) : Answers (s.engStop status row column bank) := answers_next _

theorem State.answers_engStall (s : State) : Answers s.engStall := answers_next _

theorem State.answers_engJump (s : State) (t : Nat) : Answers (s.engJump t) := answers_next _

theorem State.answers_engForce (s : State) : Answers s.engForce := by
  unfold State.engForce
  dsimp only
  split
  · exact State.answers_engStop ..
  · exact answers_next _

theorem State.answers_engNext (s : State) : Answers s.engNext := .ite (State.answers_engStop ..) (answers_next _)

theorem State.answers_engProt (s : State) (row : Word) (bank : Nat) : Answers (s.engProt row bank) :=
  .ite (s.answers_engStop ..) (s.answers_engStop ..)

theorem State.answers_engLoop (s : State) (n count len : Nat) : Answers (s.engLoop n count len) :=
  .ite (.ite (State.answers_engStop ..) (answers_next _)) (.ite (s.answers_engStop ..) (answers_next _))

section
variable {go : State → Nat → Out} (hgo : ∀ s t, Answers (go s t))
include hgo

theorem State.answers_engIssue (s : State) (ready : Nat) : Answers (s.engIssue ready go) := by
  unfold State.engIssue
  refine .ite s.answers_engForce ?_
  split
  · exact s.answers_engStop ..
  · exact hgo ..

theorem State.answers_engAtBound (s : State) (ready : Nat) (past : Bool) : Answers (s.engAtBound ready past go) := by
  unfold State.engAtBound
  refine .ite s.answers_engForce ?_
  split
  · exact s.answers_engStop ..
  split
  · exact hgo ..
  refine .ite ?_ (s.answers_engStop ..)
  obtain ⟨t, ht⟩ := s.answers_engNext
  rw [ht]
  exact .ite (t.answers_engStop ..) (answers_next _)

end

theorem State.answers_engOne (s : State) (uses : Nat) (f : Engine → Engine) : Answers (s.engOne uses f) :=
  State.answers_engIssue (fun t _ => (t.onEng f).answers_engNext) ..

theorem State.answers_engData (s : State) (occ dest : Nat) (f : Engine → Engine × Word) : Answers (s.engData occ dest f) :=
  State.answers_engIssue (fun _ _ => State.answers_engNext _) ..

theorem State.answers_engPre (s : State) (k : Nat) : Answers (s.engPre k) :=
  .ite s.answers_engForce (State.answers_engAtBound (fun t _ => t.answers_engNext) ..)

theorem State.answers_waitsRead (s : State) (l c v : Nat) : Answers (s.waitsRead l c v) := by
  unfold State.waitsRead
  split
  · exact State.answers_engIssue (fun t _ => t.answers_engStop ..) ..
  · exact State.answers_engAtBound (fun t _ => .ite (t.answers_engStop ..) (.ite (State.answers_engStall _)
      (.ite t.answers_engStall (State.answers_engNext _)))) ..

/-! ### The engine's words whose outcome branches (spec/09 R251 to R279) -/

theorem answers_execAct (k r : Nat) (i : Bool) (s : State) : Answers (execAct k r i s) :=
  State.answers_engIssue (fun t _ => .ite (t.answers_engStop ..) (.ite (t.answers_engProt ..) (State.answers_engNext _))) ..

theorem answers_execRef (k : Nat) (s : State) : Answers (execRef k s) :=
  State.answers_engIssue (fun t _ => .ite (t.answers_engStop ..) (State.answers_engNext _)) ..

theorem answers_execRd (k : Nat) (s : State) : Answers (execRd k s) := by
  unfold execRd
  refine State.answers_engIssue (fun t _ => ?_) ..
  split
  · exact t.answers_engStop ..
  · exact State.answers_engNext _

theorem answers_execWr (k src : Nat) (s : State) : Answers (execWr k src s) := by
  unfold execWr
  refine State.answers_engIssue (fun t _ => ?_) ..
  split
  · exact t.answers_engStop ..
  · exact .ite (t.answers_engStop ..) (State.answers_engNext _)

/-- MCAST stalls at a row boundary until its rows are written, and goes on there. -/
theorem answers_execMcast (k src r : Nat) (s : State) : Answers (execMcast k src r s) :=
  have hwait (u : State) : Answers (u.engAtBound 0 false fun t _ =>
      if t.casting s.cur.eng then t.engStall else (t.onEng fun e => { e with stalled := false }).engNext) :=
    State.answers_engAtBound (fun t _ => .ite t.answers_engStall (State.answers_engNext _)) ..
  .ite (hwait s) (State.answers_engIssue (fun t _ => .ite (t.answers_engProt ..) (.ite (t.answers_engStop ..) (hwait _))) ..)

theorem answers_execBgcopy (sb re db rd : Nat) (s : State) : Answers (execBgcopy sb re db rd s) := by
  refine .ite (State.answers_engIssue (fun t _ => t.answers_engStop ..) ..) (State.answers_engIssue (fun t _ => ?_) ..)
  refine .ite (t.answers_engStop ..) (.ite (t.answers_engStop ..) (.ite (t.answers_engProt ..) (.ite (t.answers_engProt ..) ?_)))
  dsimp only
  split
  · exact t.answers_engStop ..
  · exact State.answers_engNext _

theorem answers_execNaddx (d : Nat) (s : State) : Answers (execNaddx d s) := by
  unfold execNaddx
  refine State.answers_engAtBound (fun t _ => ?_) ..
  split
  exact State.answers_engNext _

theorem answers_execSig (l c v : Nat) (s : State) : Answers (execSig l c v s) := by
  refine State.answers_engIssue (fun t _ => ?_) ..
  split
  · exact t.answers_engStop ..
  · exact State.answers_engNext _

theorem answers_execBnz (e : Nat) (d : Bool) (t : Nat) (s : State) : Answers (execBnz e d t s) :=
  State.answers_engIssue (fun _ _ => .ite (State.answers_engJump ..) (State.answers_engNext _)) ..

theorem answers_execHalt (c : Nat) (s : State) : Answers (execHalt c s) := by
  unfold execHalt
  refine State.answers_engAtBound (fun t _ => ?_) ..
  split
  · exact t.answers_engStop ..
  · exact .ite t.answers_engStall (.ite (t.answers_engStop ..) (t.answers_engStop ..))

/-! ### Events of the engines -/

theorem answers_execEngineStop (s : State) : Answers (execEngineStop s) := by
  refine .ite (answers_next s) (.ite (s.answers_engStop ..) ?_)
  split
  · exact s.answers_engStop ..
  · exact .ite (s.answers_engStop ..) (answers_next s)

theorem answers_execRdLanding (s : State) : Answers (execRdLanding s) := by
  refine .ite (answers_next s) ?_
  split
  · exact s.answers_engStop ..
  · exact answers_next _

theorem answers_execRowIntervalExpiry (s : State) : Answers (execRowIntervalExpiry s) := .ite s.answers_engForce (answers_next s)

theorem answers_execWaitsReread (s : State) : Answers (execWaitsReread s) := by
  refine .ite ?_ (answers_next s)
  split
  · exact State.answers_waitsRead ..
  · exact answers_next s

/-! ### Every instruction and event -/

/-- An instruction of a stream or an event outside the engines is a next state by its definition; an engine's word by what it is made of. -/
theorem answers_exec (i : Instr) (s : State) : Answers (exec i s) := by
  cases i with
  | act k r imd => exact answers_execAct k r imd s
  | pre k => exact s.answers_engPre k
  | preAll => exact s.answers_engPre 4
  | ref k => exact answers_execRef k s
  | rd k => exact answers_execRd k s
  | wr k src => exact answers_execWr k src s
  | rowend => exact State.answers_engAtBound (fun t _ => t.answers_engNext) ..
  | tand | tor | tnot | tcnt | setk | setm | movi | moviAdd | moviSh => exact s.answers_engOne ..
  | cmp | awr | ttp | ttpT | vlde | mv | sadd | redAdd | redMax | redSum | accz | acczW | accst => exact s.answers_engData ..
  | mcast k src r => exact answers_execMcast k src r s
  | bgcopy sb re db rd => exact answers_execBgcopy sb re db rd s
  | naddx d => exact answers_execNaddx d s
  | sig l c v => exact answers_execSig l c v s
  | waits l c v => exact s.answers_waitsRead l c v
  | idmasJmp t => exact State.answers_engIssue (fun u _ => u.answers_engJump t) ..
  | bnz e d t => exact answers_execBnz e d t s
  | idmasLoop => exact State.answers_engIssue (fun u _ => u.answers_engLoop ..) ..
  | idmasLoopReg => exact State.answers_engIssue (fun u _ => u.answers_engLoop ..) ..
  | halt c => exact answers_execHalt c s
  | unassignedEngineWord => exact State.answers_engIssue (fun u _ => u.answers_engStop ..) ..
  | engineStop => exact answers_execEngineStop s
  | rdLanding => exact answers_execRdLanding s
  | rowIntervalExpiry => exact answers_execRowIntervalExpiry s
  | waitsReread => exact answers_execWaitsReread s
  | _ => exact answers_next _

/-! ### Turns that go on -/

/-- What a turn finds to do does not stop the machine. -/
def Ready.Goes (r : Ready) : Prop := ∀ f, r ≠ .stop f

theorem Ready.goes_run (i : Instr) (s : State) : (Ready.run i s).Goes := nofun
theorem Ready.goes_idle (s : State) : (Ready.idle s).Goes := nofun

theorem Ready.Goes.ite {p : Prop} [Decidable p] {a b : Ready} (ha : a.Goes) (hb : b.Goes) : (if p then a else b).Goes := by
  split
  · exact ha
  · exact hb

theorem State.goes_runSlot (s : State) (x : Slot) : (s.runSlot x).Goes := by
  unfold State.runSlot
  split
  · exact Ready.goes_idle _
  · exact Ready.goes_run _ _

theorem State.goes_early (s : State) (p : Nat × Cause) (viaFetch illegal : Bool) : (s.early p viaFetch illegal).Goes :=
  .ite (Ready.goes_run _ _) (.ite (Ready.goes_run _ _) (Ready.goes_idle _))

theorem State.goes_issue (s : State) : s.issue.Goes := by
  unfold State.issue
  refine .ite (Ready.goes_idle s) (.ite (Ready.goes_idle _) (.ite (Ready.goes_idle _) ?_))
  split
  · exact Ready.goes_idle _
  · exact s.goes_early _ _ _
  split
  · exact s.goes_early _ _ _
  dsimp only
  split
  · exact Ready.goes_idle _
  refine .ite (Ready.goes_idle _) (.ite (Ready.goes_idle _) ?_)
  split
  · exact Ready.goes_idle _
  · exact State.goes_runSlot _ _

theorem State.goes_streamTurn (s : State) : s.streamTurn.Goes := by
  unfold State.streamTurn
  refine .ite (Ready.goes_idle _) (.ite (Ready.goes_idle _) (.ite (Ready.goes_idle _) (.ite (Ready.goes_run _ _)
    (.ite (Ready.goes_idle _) (.ite ?_ s.goes_issue)))))
  split
  · exact s.goes_runSlot _
  · exact Ready.goes_idle _

theorem State.goes_engineTurn (s : State) : s.engineTurn.Goes := by
  unfold State.engineTurn
  refine .ite (Ready.goes_idle s) (.ite (Ready.goes_run _ _) (.ite (Ready.goes_run _ _) (.ite (Ready.goes_run _ _) ?_)))
  split
  · exact Ready.goes_run _ _
  · exact Ready.goes_run _ _

/-! ### The end of the last turn -/

/-- `t` is `s` but for its engines. -/
def State.EnginesOnly (s t : State) : Prop := t = { s with engines := t.engines }

theorem State.EnginesOnly.refl (s : State) : s.EnginesOnly s := rfl

theorem State.EnginesOnly.trans {s t u : State} (h : s.EnginesOnly t) (h' : t.EnginesOnly u) : s.EnginesOnly u := by
  unfold State.EnginesOnly at *
  rw [h', h]

theorem State.enginesOnly_onEngine (s : State) (n : Nat) (f : Engine → Engine) : s.EnginesOnly (s.onEngine n f) := rfl

theorem State.enginesOnly_drainPort (s : State) (c fuel : Nat) : s.EnginesOnly (s.drainPort c fuel) := by
  induction fuel generalizing s with
  | zero => exact .refl s
  | succ fuel ih =>
    unfold State.drainPort
    split
    · exact .refl s
    split
    · exact ((s.enginesOnly_onEngine ..).trans (State.enginesOnly_onEngine ..)).trans (ih _)
    · exact .refl s

theorem State.enginesOnly_leave (s : State) (n : Nat) (r : Req) : s.EnginesOnly (s.leave n r) :=
  (s.enginesOnly_onEngine ..).trans (State.enginesOnly_drainPort ..)

/-- Giving up an asker's places changes the queues and windows of bank groups alone. -/
theorem State.enginesOnly_leaveAll (s : State) (a : Asker) : s.EnginesOnly (s.leaveAll a) := by
  refine List.foldlRecOn (motive := s.EnginesOnly) _ _ (.refl s) fun t ht e _ => ht.trans ?_
  dsimp only
  split
  · exact t.enginesOnly_onEngine ..
  · exact ((t.enginesOnly_onEngine ..).trans (State.enginesOnly_onEngine ..)).trans (State.enginesOnly_leave ..)

theorem State.enginesOnly_settle (s : State) : s.EnginesOnly s.settle := by
  unfold State.settle
  split
  · exact .refl s
  · exact s.enginesOnly_leaveAll _

theorem State.settle_dev (s : State) : s.settle.dev = s.dev := by rw [s.enginesOnly_settle]
theorem State.settle_turns (s : State) : s.settle.turns = s.turns := by rw [s.enginesOnly_settle]

theorem State.takeTurn_dev (s : State) : s.takeTurn.2.dev = s.dev := by
  unfold State.takeTurn
  split <;> rfl

/-! ### What stops a step (spec/17 R432, R442) -/

/-- The fault that stops a machine of this device state, where one does: no supplies come before stopped clocks. -/
def Dev.stopCause (d : Dev) : Option Fault := if !d.supply then some .noSupply else if d.halted then some .clocksStopped else none

theorem Dev.stopCause_eq_some {d : Dev} {f : Fault} : d.stopCause = some f ↔
    (d.supply = false ∧ f = .noSupply) ∨ (d.supply = true ∧ d.halted = true ∧ f = .clocksStopped) := by
  unfold Dev.stopCause
  cases d.supply <;> cases d.halted <;> simp [eq_comm]

/-- A turn of a stream or an engine that does not stop by itself stops for the device's cause alone. -/
theorem Dev.turn_stops_iff {d : Dev} {r : Ready} {f : Fault} (hr : r.Goes) :
    (if d.supply && !d.halted then r else if d.supply then .stop .clocksStopped else .stop .noSupply) = .stop f ↔ d.stopCause = some f := by
  unfold Dev.stopCause
  cases d.supply <;> cases d.halted <;> simp [hr f]

/-- So does an event that needs the supplies and the clocks. -/
theorem Dev.event_stops_iff {d : Dev} {r : Ready} {f : Fault} (hr : r.Goes) :
    (if !d.supply then .stop .noSupply else if d.halted then .stop .clocksStopped else r) = .stop f ↔ d.stopCause = some f := by
  unfold Dev.stopCause
  cases d.supply <;> cases d.halted <;> simp [hr f]

/-- Where a step stops, the device's supplies or clocks are why. -/
theorem State.stopCause_of_prepare_stop {s : State} {f : Fault} (h : s.prepare = .stop f) : s.dev.stopCause = some f := by
  unfold State.prepare at h
  dsimp only at h
  split at h
  · exact absurd h (State.goes_streamTurn _ f)
  have hdev : s.tickFree.settle.takeTurn.2.dev = s.dev := by rw [State.takeTurn_dev, State.settle_dev]; rfl
  rw [← hdev]
  generalize s.tickFree.settle.takeTurn = x at h
  obtain ⟨t, u⟩ := x
  cases t with
  | event i x =>
    dsimp only at h
    split at h
    · exact absurd h (Ready.goes_run _ _ f)
    · exact (Dev.event_stops_iff (.ite (Ready.goes_idle u) (.ite (Ready.goes_run _ _) (Ready.goes_idle u)))).1 h
  | cache a va => exact absurd h (Ready.goes_idle _ f)
  | overlap c m => exact absurd h (Ready.goes_idle _ f)
  | stream c k => exact (Dev.turn_stops_iff (State.goes_streamTurn _)).1 h
  | engine n => exact (Dev.turn_stops_iff (State.goes_engineTurn _)).1 h

/-- A turn of a stream or an engine in a machine without supplies or clocks does stop. -/
theorem State.prepare_stop_of_stopCause {s : State} {rest : List Turn} {c n : Nat} {k : Strm} {f : Fault}
    (hturn : s.turns = .stream c k :: rest ∨ s.turns = .engine n :: rest) (h : s.dev.stopCause = some f) : s.prepare = .stop f := by
  have hmoving : ¬(s.tickFree.moving && s.tickFree.dev.supply && !s.tickFree.dev.halted) = true := by
    obtain ⟨hsup, -⟩ | ⟨-, hhalt, -⟩ := Dev.stopCause_eq_some.1 h
    · simp [State.tickFree, hsup]
    · simp [State.tickFree, hhalt]
  have hdev : s.tickFree.settle.dev.stopCause = some f := by rw [State.settle_dev]; exact h
  have hturns : s.tickFree.settle.turns = s.turns := State.settle_turns _
  unfold State.prepare
  dsimp only
  rw [if_neg hmoving, State.takeTurn, hturns]
  obtain hturn | hturn := hturn
  · rw [hturn]
    exact (Dev.turn_stops_iff (State.goes_streamTurn _)).2 hdev
  · rw [hturn]
    exact (Dev.turn_stops_iff (State.goes_engineTurn _)).2 hdev

/-- A step is what its turn finds to do: an instruction or event, which answers a next state, nothing, or the device's stop. -/
theorem step_eq_of_prepare (s : State) : (∃ f, s.prepare = .stop f ∧ step s = .fault f) ∨ Answers (step s) := by
  unfold step
  split
  · exact .inr (answers_exec ..)
  · exact .inr (answers_next _)
  · next f h => exact .inl ⟨f, h, rfl⟩

/-- Settles O7: exec always answers, and of what a turn can find to do only the device's stop is a fault. -/
theorem whatStopsTheMachine : Obligations.WhatStopsTheMachine := by
  unfold Obligations.WhatStopsTheMachine
  refine ⟨answers_exec, fun s => ?_, fun s rest c k n hturn => ?_⟩
  · obtain ⟨g, hstop, hg⟩ | ⟨t, ht⟩ := step_eq_of_prepare s
    · rw [hg]
      refine ⟨nofun, fun f hf => ?_⟩
      obtain rfl : g = f := by injection hf
      exact Dev.stopCause_eq_some.1 (State.stopCause_of_prepare_stop hstop)
    · rw [ht]
      exact ⟨nofun, nofun⟩
  · have hstep (f : Fault) (h : s.dev.stopCause = some f) : step s = .fault f := by
      rw [step, State.prepare_stop_of_stopCause hturn h]
    exact ⟨fun hsup hhalt => hstep _ (Dev.stopCause_eq_some.2 (.inr ⟨hsup, hhalt, rfl⟩)),
      fun hsup => hstep _ (Dev.stopCause_eq_some.2 (.inl ⟨hsup, rfl⟩))⟩

end Sys2Proof.Machine
end

section
/-! SUPPORT. How an engine's word issues (spec/09 R248, R249, R255, R278): the engine at an issue, the outcomes of an issue, the word that
follows, a turn of an engine, and O6. -/

namespace Sys2Proof.Machine

/-! ### The engine at an issue -/

theorem State.landed_eng (s : State) (t : Nat) :
    (s.landed t).eng = { s.eng.landTo t with atBound := false, stalled := false } := State.onEng_eng ..

@[simp] theorem State.landed_cur (s : State) (t : Nat) : (s.landed t).cur = s.cur := rfl
@[simp] theorem State.landed_mpc (s : State) (t : Nat) : (s.landed t).eng.mpc = s.eng.mpc := by rw [State.landed_eng]; rfl
@[simp] theorem State.landed_loops (s : State) (t : Nat) : (s.landed t).eng.loops = s.eng.loops := by rw [State.landed_eng]; rfl
@[simp] theorem State.landed_inst (s : State) (t : Nat) : (s.landed t).eng.inst = s.eng.inst := by rw [State.landed_eng]; rfl
@[simp] theorem State.landed_sems (s : State) (t : Nat) : (s.landed t).eng.sems = s.eng.sems := by rw [State.landed_eng]; rfl
@[simp] theorem State.landed_bank (s : State) (t k : Nat) : (s.landed t).eng.bank k = s.eng.bank k := by rw [State.landed_eng]; rfl
@[simp] theorem State.landed_ereg (s : State) (t r : Nat) : (s.landed t).eng.ereg r = s.eng.ereg r := by rw [State.landed_eng]; rfl
@[simp] theorem State.landed_window (s : State) (t b r : Nat) (write vg : Bool) :
    (s.landed t).eng.window b r write vg = s.eng.window b r write vg := by rw [State.landed_eng]; rfl

/-- What lands changes no row that the engine has written. -/
@[simp] theorem State.landed_rowUe (s : State) (t loc : Nat) : (s.landed t).rowUe s.cur.eng loc = s.rowUe s.cur.eng loc := by
  have hwbuf : ((s.landed t).engine s.cur.eng).wbuf = (s.engine s.cur.eng).wbuf := by
    show (s.landed t).eng.wbuf = _
    rw [State.landed_eng]
    rfl
  unfold State.rowUe
  rw [hwbuf]
  rfl

/-! ### The outcomes of an issue -/

section
variable {s : State} {ready : Nat} {go : State → Nat → Out}

/-- Nothing in the way, what has landed is in W and the word runs. -/
theorem State.engIssue_of_issues (h : s.Issues (max s.eng.now ready)) :
    s.engIssue ready go = go (s.landed (max s.eng.now ready)) (max s.eng.now ready) := by
  obtain ⟨hdue, hland⟩ := h
  simp only [State.engIssue, hdue, hland, Bool.false_eq_true, if_false]
  rfl

theorem State.engIssue_of_badLanding {r c b : Nat} (hdue : s.eng.overdue (max s.eng.now ready) = false)
    (hland : s.eng.badLanding (max s.eng.now ready) = some (r, c, b)) :
    s.engIssue ready go = .next (s.engEnd s.cur.eng 6 r c b) := by
  simp only [State.engIssue, hdue, hland, Bool.false_eq_true, if_false, State.engStop]

theorem State.engIssue_of_overdue (h : s.eng.overdue (max s.eng.now ready) = true) : s.engIssue ready go = s.engForce :=
  if_pos h

/-- A word that waits for no register issues at once. -/
theorem State.engIssue_now (h : s.Issues s.eng.now) : s.engIssue 0 go = go (s.landed s.eng.now) s.eng.now := by
  rw [← Nat.max_zero s.eng.now] at h
  rw [State.engIssue_of_issues h, Nat.max_zero]

end

/-! ### The word that follows -/

theorem State.follows_onEng {s : State} {f : Engine → Engine} (hs : s.follows) (hf : s.eng.SamePlace (f s.eng)) : (s.onEng f).follows :=
  State.follows_of_samePlace (by rwa [State.onEng_eng]) hs

theorem State.follows_landed {s : State} (t : Nat) (hs : s.follows) : (s.landed t).follows := State.follows_onEng hs ⟨rfl, rfl⟩

theorem State.BankStep.follows {s t : State} (h : s.BankStep t) (hs : s.follows) : t.follows := State.follows_of_samePlace h.eng hs

/-- A row boundary keeps the engine in its program. -/
theorem State.bankStep_bounded (s : State) (ready : Nat) : s.BankStep (s.bounded ready) := s.bankStep_engBoundary ..

/-- After a change that keeps the engine in its program, it goes on to the word that follows. -/
theorem State.engNext_onEng {s : State} {f : Engine → Engine} (hs : s.follows) (hf : ∀ e : Engine, e.SamePlace (f e)) :
    (s.onEng f).engNext = .next (s.onEng f).engAfter := State.engNext_of_follows (State.follows_onEng hs (hf _))

/-! ### A turn of an engine -/

theorem State.readyEngine_cur (s : State) (n : Nat) : (s.readyEngine n).cur = s.cur := by
  unfold State.readyEngine
  dsimp only
  split <;> rfl

/-- An engine with a word to run, that nothing stops or holds, runs it. -/
theorem State.engineTurn_of_word {m : State} {i : Instr} (hrun : m.eng.running = true) (hsem : m.eng.semBad = none)
    (hwin : (m.eng.win.any fun x => !x.stopped) = false)
    (hdue : ((m.readyEngine m.cur.eng).engine m.cur.eng).overdue ((m.readyEngine m.cur.eng).engine m.cur.eng).now = false)
    (hheld : m.dev.ckStatus = 0 ∨ (m.eng.atBound = false ∧ m.eng.stalled = false))
    (hnode : ∀ g, m.graph m.eng.asid m.eng.lrec = some g → (g.nst m.eng.node).stopped = false)
    (hword : decode .engine (Tab.get m.eng.store m.eng.mpc 0) = .ok i) :
    m.engineTurn = .run i (m.readyEngine m.cur.eng) := by
  have hgo : ((m.dev.ckStatus == 1 || m.dev.ckStatus == 2) && !m.dev.ckLater && (m.eng.atBound || m.eng.stalled)) = false := by
    obtain h | ⟨hbound, hstall⟩ := hheld
    · simp [h]
    · simp [hbound, hstall]
  unfold State.eng at *
  unfold State.engineTurn
  dsimp only
  rw [if_neg (by simp [hrun, hgo]), if_neg ?stopped, if_neg (ne_true_of_eq_false hwin), if_neg (by simp [State.readyEngine_cur, hdue]), hword]
  case stopped =>
    split
    · next g hg => simp [hnode g hg, hsem]
    · simp [hsem]

/-- In a powered machine that is not within a clause, a listed turn of an engine is that engine's turn. -/
theorem State.prepare_engine {s : State} {rest : List Turn} {n : Nat} (hpow : s.Powered) (hmove : s.moving = false)
    (hturn : s.turns = .engine n :: rest) : s.prepare = (s.engineOfTurn rest n).engineTurn := by
  obtain ⟨hsup, hhalt⟩ := hpow
  have hturns : s.tickFree.settle.turns = .engine n :: rest := (State.settle_turns _).trans hturn
  have hdev : s.tickFree.settle.dev = s.dev := State.settle_dev _
  have hcur : s.tickFree.settle.cur = s.cur := by rw [State.enginesOnly_settle]; rfl
  have hlive : (s.tickFree.settle.dev.supply && !s.tickFree.settle.dev.halted) = true := by simp [hdev, hsup, hhalt]
  unfold State.prepare
  dsimp only
  rw [if_neg (by simp [State.tickFree, hmove]), State.takeTurn, hturns]
  dsimp only
  rw [if_pos hlive, hcur]
  rfl

/-- Settles O6: what a powered machine's listed turn of an engine runs is the word that `engineTurn` decodes. -/
theorem stepRunsEngineWord : Obligations.StepRunsEngineWord := by
  unfold Obligations.StepRunsEngineWord
  intro s rest n i hpow hmove hturn m e t hrun hsem hwin hdue hheld hnode hword
  have hdev : m.dev = s.dev := State.settle_dev _
  have hready : s.prepare = .run i t := (State.prepare_engine hpow hmove hturn).trans
    (State.engineTurn_of_word hrun hsem hwin hdue (by rwa [hdev]) hnode hword)
  simp only [step, hready]

end Sys2Proof.Machine
end

section
/-! SUPPORT. The engine's associative, scalar and arithmetic words (spec/09 R249, R256 to R268), and O50. -/

namespace Sys2Proof.Machine

/-! ### One-cycle words and datapath words -/

/-- A one-cycle word that keeps the engine in its program: it issues, or a row that fails or an overdue boundary comes first. -/
theorem engineOne_of_engOne {i : Instr} {s : State} {uses : Nat} {f : Engine → Engine} (hexec : exec i s = s.engOne uses f)
    (hf : ∀ e : Engine, e.SamePlace (f e)) : EngineOne i s uses f := by
  refine ⟨fun hissue hnext => ?_, fun r c b hdue hland => ?_, fun hdue => ?_⟩ <;> rw [hexec, State.engOne]
  · rw [State.engIssue_of_issues hissue]
    exact State.engNext_onEng (State.follows_landed _ hnext) hf
  · exact State.engIssue_of_badLanding hdue hland
  · exact State.engIssue_of_overdue hdue

/-- A datapath word that keeps the engine in its program. -/
theorem engineData_of_engData {i : Instr} {s : State} {occ dest : Nat} {f : Engine → Engine × Word} (hexec : exec i s = s.engData occ dest f)
    (hf : ∀ e : Engine, e.SamePlace (f e).1) : EngineData i s occ dest f := by
  intro hissue hnext
  rw [hexec, State.engData, State.engIssue_of_issues hissue]
  exact State.engNext_onEng (State.follows_landed _ hnext) hf

/-! ### Registers -/

theorem Engine.samePlace_setE (e : Engine) (n : Nat) (v : Word) : e.SamePlace (e.setE n v) := ⟨rfl, rfl⟩

theorem Engine.samePlace_setSrc (e : Engine) (k : Nat) (l : List Nat) : e.SamePlace (e.setSrc k l) := by
  unfold Engine.setSrc
  split <;> exact ⟨rfl, rfl⟩

theorem Engine.samePlace_setBank (e : Engine) (k : Nat) (b : Bank) : e.SamePlace (e.setBank k b) := ⟨rfl, rfl⟩

/-- The tags that are set, counted. -/
theorem popCount_tags (t : BitVec 256) : popCount 256 t.toNat = (List.range 256).countP fun j => t.getLsbD j := by
  rw [popCount_eq, List.countP_eq_length_filter]
  rfl

theorem toNat_mod_eq_field (v : Word) {m hi : Nat} (hm : m = 2 ^ (hi + 1)) : v.toNat % m = field v hi 0 := by
  rw [field, bits, Nat.pow_zero, Nat.div_one, Nat.sub_zero, hm]

/-- MOVI.sh's word: the register's times 2^21, and the immediate (spec/09 R260). -/
theorem shiftLeft_add_word (v : Word) (n i : Nat) : (v <<< n) + word i = word (v.toNat * 2 ^ n + i) := by
  apply BitVec.eq_of_toNat_eq
  simp [Nat.shiftLeft_eq]

/-! ### The words -/

theorem engineOne_tags (s : State) (x d : Nat) (n : Bool) :
    EngineOne (.tand x n) s (useW + useT) (fun e => { e with tags := tagsOf fun j => e.tags.getLsbD j && ((col e.w j).testBit x != n) }) ∧
    EngineOne (.tor x n) s (useW + useT) (fun e => { e with tags := tagsOf fun j => e.tags.getLsbD j || ((col e.w j).testBit x != n) }) ∧
    EngineOne .tnot s useT (fun e => { e with tags := ~~~e.tags }) ∧
    EngineOne (.tcnt d) s (useT + useE d) (fun e => e.setE d (word ((List.range 256).countP fun j => e.tags.getLsbD j))) := by
  simp only [← bit_eq_testBit, ← popCount_tags]
  exact ⟨engineOne_of_engOne rfl fun _ => ⟨rfl, rfl⟩, engineOne_of_engOne rfl fun _ => ⟨rfl, rfl⟩,
    engineOne_of_engOne rfl fun _ => ⟨rfl, rfl⟩, engineOne_of_engOne rfl fun e => e.samePlace_setE ..⟩

theorem engineOne_scalars (s : State) (d r : Nat) {i : Nat} :
    EngineOne (.setk r) s (useE r) (fun e => { e with key := (e.ereg r).toNat % 2 ^ 32 }) ∧
    EngineOne (.setm r) s (useE r) (fun e => { e with mask := (e.ereg r).toNat % 2 ^ 32 }) ∧
    (i < 2 ^ 21 →
      let v : Word := BitVec.ofInt 64 (if i < 2 ^ 20 then (i : Int) else (i : Int) - 2 ^ 21)
      EngineOne (.movi d i) s (useE d) (fun e => e.setE d v) ∧
      EngineOne (.moviAdd d i) s (useE d) (fun e => e.setE d (e.ereg d + v)) ∧
      EngineOne (.moviSh d i) s (useE d) (fun e => e.setE d (word ((e.ereg d).toNat * 2 ^ 21 + i)))) := by
  simp only [fun v => toNat_mod_eq_field v (m := 2 ^ 32) (hi := 31) rfl, ← shiftLeft_add_word]
  refine ⟨engineOne_of_engOne rfl fun _ => ⟨rfl, rfl⟩, engineOne_of_engOne rfl fun _ => ⟨rfl, rfl⟩, fun hi => ?_⟩
  rw [← sext_eq hi]
  exact ⟨engineOne_of_engOne rfl fun e => e.samePlace_setE .., engineOne_of_engOne rfl fun e => e.samePlace_setE ..,
    engineOne_of_engOne rfl fun e => e.samePlace_setE ..⟩

/-- CMP's three ways to set the tags, by its code. -/
theorem engineData_cmp (s : State) {o : Nat} (src : Nat) (n : Bool) (ho : o < 3) :
    EngineData (.cmp o src n) s 16 useT (fun e =>
      let hit := fun i => (((col (e.src src) i ^^^ e.key) &&& e.mask) == 0) != n
      ({ e with tags := tagsOf fun i =>
          if o = 0 then hit i else if o = 1 then e.tags.getLsbD i && hit i else e.tags.getLsbD i || hit i }, 0)) := by
  match o, ho with
  | 0, _ => exact engineData_of_engData rfl fun _ => ⟨rfl, rfl⟩
  | 1, _ => exact engineData_of_engData rfl fun _ => ⟨rfl, rfl⟩
  | 2, _ => exact engineData_of_engData rfl fun _ => ⟨rfl, rfl⟩

theorem engineData_columns (s : State) (x y z t d : Nat) :
    EngineData (.awr d) s 16 (useSrc d) (fun e =>
      (e.setSrc d ((e.src d).zipIdx.map fun x =>
        if e.tags.getLsbD x.2 then (x.1 &&& (2 ^ 32 - 1 - e.mask % 2 ^ 32)) ||| (e.key &&& e.mask) else x.1), 0)) ∧
    EngineData (.ttp x y z t) s 16 useW (fun e =>
      ({ e with w := (List.range 256).map fun i => putBit (col e.w i) z (ttBit e x y t i) }, 0)) ∧
    EngineData (.ttpT x y t) s 16 useT (fun e => ({ e with tags := tagsOf fun i => ttBit e x y t i }, 0)) :=
  ⟨engineData_of_engData rfl fun e => e.samePlace_setSrc .., engineData_of_engData rfl fun _ => ⟨rfl, rfl⟩,
    engineData_of_engData rfl fun _ => ⟨rfl, rfl⟩⟩

/-- SADD's scalar is the lane of VV that an e register names, and its register may count on. -/
theorem engineData_sadd (s : State) (a j : Nat) (i : Bool) :
    EngineData (.sadd a j i) s 16 (useBa a + if i then useE j else 0) (fun e =>
      let k := fmtFP32.decode (col e.vv ((e.ereg j).toNat % 256))
      let q := lanes ((List.range 256).map fun i =>
        lane (k.fma false (fmtFP32.decode (col e.w i)) (fmtFP32.decode (col (e.src (a + 1)) i))))
      let u := e.setSrc (a + 1) q.1
      (if i then u.setE j (u.ereg j + 1) else u, q.2)) := by
  simp only [fun v => toNat_mod_eq_field v (m := 256) (hi := 7) rfl]
  refine engineData_of_engData rfl fun e => ?_
  dsimp only
  split
  · exact (e.samePlace_setSrc ..).trans (Engine.samePlace_setE ..)
  · exact e.samePlace_setSrc ..

/-- ACCST's conversion of the lanes of an accumulator, and the FP32 lanes as they are. -/
theorem engineData_accst (s : State) (a f : Nat) :
    EngineData (.accst a 0) s 16 useW (fun e => ({ e with w := e.src (a + 1) }, 0)) ∧
    (0 < f → EngineData (.accst a f) s 16 useW (fun e =>
      let q := lanes ((e.src (a + 1)).map fun x =>
        let r := (tagFmt (accTag f)).round .nearest false (fmtFP32.decode x)
        (r.1, r.2 ||| if (fmtFP32.decode x).isSig then fINV else 0))
      let w := colsOf (q.1.flatMap (bytesOf (tagBits (accTag f) / 8)))
      ({ e with w := w ++ List.replicate (256 - w.length) 0 }, q.2))) := by
  refine ⟨engineData_of_engData rfl fun _ => ⟨rfl, rfl⟩, fun hf => engineData_of_engData ?_ fun _ => ⟨rfl, rfl⟩⟩
  refine congrArg (s.engData 16 useW) (funext fun e => if_neg ?_)
  simpa using Nat.ne_of_gt hf

/-- Settles O50: each word is a one-cycle word or a datapath word that keeps the engine in its program, with its row's registers. -/
theorem engineDatapath : Obligations.EngineDatapath := by
  unfold Obligations.EngineDatapath
  refine ⟨fun s x d r i n => ?_, fun s o src x y z t d n => ⟨engineData_cmp s src n, engineData_columns s x y z t d⟩,
    fun s a f l o j r d i => ⟨?vlde, ?mv, engineData_sadd s a j i, ?redAdd, ?redMax, ?redSum, ?accz, ?acczW, engineData_accst s a f⟩⟩
  · obtain ⟨htand, htor, htnot, htcnt⟩ := engineOne_tags s x d n
    exact ⟨htand, htor, htnot, htcnt, engineOne_scalars s d r⟩
  case vlde => exact engineData_of_engData rfl fun _ => ⟨rfl, rfl⟩
  case mv =>
    have hocc : (if f = 0 then 32 else 16) = if f == 0 then 32 else 16 := by simp only [beq_iff_eq]
    rw [hocc]
    exact engineData_of_engData rfl fun e => e.samePlace_setSrc ..
  case redAdd => exact engineData_of_engData rfl fun e => e.samePlace_setSrc ..
  case redMax => exact engineData_of_engData rfl fun e => e.samePlace_setSrc ..
  case redSum => exact engineData_of_engData rfl fun e => e.samePlace_setE ..
  case accz => exact engineData_of_engData rfl fun e => e.samePlace_setSrc ..
  case acczW => exact engineData_of_engData rfl fun e => e.samePlace_setSrc ..

end Sys2Proof.Machine
end

section
/-! SUPPORT. The engine's DRAM commands (spec/09 R251 to R255, R280): rows, banks that close, and O49. -/

namespace Sys2Proof.Machine

/-! ### Rows -/

theorem field_high_of_lt {row : Word} (h : row.toNat < 2 ^ 16) : field row 63 16 = 0 := by
  rw [field, bits, Nat.div_eq_of_lt h, Nat.zero_mod]

/-- A row outside every window that fits in 16 bits is named with its bank. -/
theorem State.engProt_of_lt (s : State) {row : Word} (h : row.toNat < 2 ^ 16) (bank : Nat) :
    s.engProt row bank = .next (s.engEnd s.cur.eng 4 row.toNat 0 bank) := if_pos (by simp [field_high_of_lt h])

/-! ### Changes of an engine -/

theorem State.onEng_congr {s : State} {f g : Engine → Engine} (h : f s.eng = g s.eng) : s.onEng f = s.onEng g :=
  congrArg (s.setEngine s.cur.eng) h

/-- Of the change of an engine only what it makes of the engine as it stands counts. -/
theorem State.engNext_onEng_eq {s : State} {f g : Engine → Engine} (hs : s.follows) (hg : ∀ e : Engine, e.SamePlace (g e))
    (hfg : f s.eng = g s.eng) : (s.onEng f).engNext = .next (s.onEng g).engAfter := by
  rw [State.onEng_congr hfg]
  exact State.engNext_onEng hs hg

/-- What an engine writes keeps it in its program. -/
theorem State.follows_engWrite {s : State} (cells : List Host.Cell) (hs : s.follows) : (s.engWrite s.cur.eng cells).follows :=
  State.follows_onEng hs ⟨rfl, rfl⟩

/-! ### Banks that close -/

/-- Writing an entry that passes just when the one it replaces does does not change whether any entry passes. -/
theorem any_vset {α : Type} {n : Nat} {p : α → Bool} (v : Vector α n) (k : Nat) {x d : α} (h : p x = p (vget v k d)) :
    (vset v k x).toList.any p = v.toList.any p := by
  obtain hk | hk := Nat.lt_or_ge k n
  · have hset : (vset v k x).toList = v.toList.set k x := Vector.toList_setIfInBounds ..
    have hget : p x = (v.toList.map p)[k]'(by simpa using hk) := by simp [h, vget, hk]
    have hmap : (v.toList.set k x).map p = v.toList.map p := by rw [List.map_set, hget, List.set_getElem_self]
    have hany (l : List α) : l.any p = (l.map p).any id := by rw [List.any_map]; rfl
    rw [hset, hany, hmap, ← hany]
  · rw [vset_ge v k x hk]

/-- `f` is `e` with some of its banks changed, in such a way that none is later for its refresh. -/
def Engine.Closes (e f : Engine) : Prop :=
  f = { e with banks := f.banks } ∧ ∀ t, (f.banks.toList.any fun b => b.late t) = e.banks.toList.any fun b => b.late t

theorem Engine.Closes.trans {e f g : Engine} (h : e.Closes f) (h' : f.Closes g) : e.Closes g :=
  ⟨by rw [h'.1, h.1], fun t => (h'.2 t).trans (h.2 t)⟩

theorem Engine.closes_close (e : Engine) (t k : Nat) : e.Closes (e.close t k) := by
  unfold Engine.close
  split
  · exact ⟨rfl, fun c => any_vset _ k (d := {}) rfl⟩
  · exact ⟨rfl, fun _ => rfl⟩

theorem Engine.closes_foldl (e : Engine) (t : Nat) (banks : List Nat) : e.Closes (banks.foldl (fun e b => e.close t b) e) :=
  List.foldlRecOn (motive := e.Closes) banks _ ⟨rfl, fun _ => rfl⟩ fun f hf b _ => hf.trans (f.closes_close t b)

theorem Engine.Closes.samePlace {e f : Engine} (h : e.Closes f) : e.SamePlace f := by
  rw [h.1]
  exact ⟨rfl, rfl⟩

/-- Closing banks puts off no row boundary: what waits and what lands stay. -/
theorem State.bounds_onEng {s : State} {f : Engine → Engine} {ready : Nat} (hf : s.eng.Closes (f s.eng)) (h : s.Bounds ready) :
    (s.onEng f).Bounds ready := by
  obtain ⟨hdue, hland⟩ := h
  unfold State.Bounds
  rw [State.onEng_eng]
  generalize f s.eng = g at hf
  obtain ⟨hg, hlate⟩ := hf
  have hwaits (t : Nat) : g.waits t = s.eng.waits t := by
    unfold Engine.waits
    rw [hlate, hg]
  have hdue' (t : Nat) : g.overdue t = s.eng.overdue t := by
    unfold Engine.overdue
    rw [hwaits, hg]
  rw [hdue', hg]
  exact ⟨hdue, hland⟩

/-- A boundary that may issue from a cycle on issues then. -/
theorem State.bounds_max {s : State} {ready : Nat} (h : s.Bounds ready) : s.Bounds (max s.eng.now ready) := by
  unfold State.Bounds
  rwa [← Nat.max_assoc, Nat.max_self]

/-- A precharge closes its banks once each may be closed, and is a row boundary. -/
theorem State.engPre_of_bounds {s : State} {k : Nat} {banks : List Nat} (hbanks : preBanks k = banks) :
    let ready := banks.foldl (fun a b => if (s.eng.bank b).row.isSome then max a (s.eng.bank b).nextPre else a) 0
    s.Bounds ready → s.follows → s.engPre k = .next
      ((s.onEng fun e => banks.foldl (fun e b => e.close (max s.eng.now ready) b) e).bounded (max s.eng.now ready)).engAfter := by
  intro ready hbounds hs
  unfold State.engPre
  rw [hbanks]
  dsimp only
  rw [if_neg (ne_true_of_eq_false hbounds.1)]
  have hclose : s.eng.Closes (banks.foldl (fun e b => e.close (max s.eng.now ready) b) s.eng) := Engine.closes_foldl ..
  have hshut : (s.onEng fun e => banks.foldl (fun e b => e.close (max s.eng.now ready) b) e).follows :=
    State.follows_onEng hs hclose.samePlace
  rw [State.engAtBound_of_bounds (State.bounds_onEng hclose (State.bounds_max hbounds))]
  exact State.engNext_of_follows ((State.bankStep_bounded ..).follows hshut)

/-! ### The commands -/

/-- ACT opens a precharged bank on a row inside a window, and ends the run at an open bank or another row. -/
theorem execAct_of_issues {k r : Nat} {i : Bool} {s : State} :
    let e := s.eng
    let t := max e.now (max (e.bank k).nextAct (e.free (useE r)))
    let row := (e.ereg r).toNat
    s.Issues t →
    ((e.bank k).row = none → row < 2 ^ 16 → e.window k row false false = true → s.follows →
      execAct k r i s = .next ((s.landed t).onEng fun e =>
        let e := e.setBank k { e.bank k with row := some row, nextCol := t + 17, nextPre := t + 40, nextAct := t + 57 }
        if i then e.setE r (e.ereg r + 1) else e).engAfter) ∧
    ((e.bank k).row ≠ none → execAct k r i s = .next ((s.landed t).engEnd s.cur.eng 5 0 0 k)) ∧
    ((e.bank k).row = none → row < 2 ^ 16 → e.window k row false false = false →
      execAct k r i s = .next ((s.landed t).engEnd s.cur.eng 4 row 0 k)) := by
  dsimp only
  intro hissue
  unfold execAct
  rw [State.engIssue_of_issues hissue]
  dsimp only
  rw [State.landed_bank, State.landed_ereg, State.landed_window]
  refine ⟨fun hclosed hrow hwin hs => ?_, fun hopen => ?_, fun hclosed hrow hwin => ?_⟩
  · rw [if_neg (by simp [hclosed]), if_neg (by simp [field_high_of_lt hrow, hwin])]
    refine State.engNext_onEng_eq (State.follows_landed _ hs) (fun e => ?_) ?_
    · split <;> exact ⟨rfl, rfl⟩
    · rw [← State.landed_ereg s]
      rfl
  · rw [if_pos (Option.isSome_iff_ne_none.2 hopen)]
    rfl
  · rw [if_neg (by simp [hclosed]), if_pos (by simp [hwin])]
    exact State.engProt_of_lt _ hrow _

/-- RD of an open bank puts its row in flight. -/
theorem execRd_of_open {k row : Nat} {s : State} :
    let e := s.eng
    let t := max e.now (max (e.free useW) (max (e.bank k).nextCol e.busFree))
    let loc := rowLoc s.cur.eng k row
    s.Issues t → (e.bank k).row = some row → s.follows →
    execRd k s = .next ((s.landed t).onEng fun e =>
      { (e.setBank k { e.bank k with nextPre := max (e.bank k).nextPre (t + 16) }) with
        busFree := t + 16
        lands := e.lands ++ [{ at_ := t + 24, bank := k, row := row, data := colsOf ((s.landed t).engBytes s.cur.eng loc),
                               ue := s.rowUe s.cur.eng loc }] }).engAfter := by
  dsimp only
  intro hissue hopen hs
  unfold execRd
  rw [State.engIssue_of_issues hissue]
  dsimp only
  rw [State.landed_bank, hopen]
  dsimp only
  rw [State.landed_cur, State.landed_rowUe]
  exact State.engNext_onEng (State.follows_landed _ hs) fun _ => ⟨rfl, rfl⟩

/-- WR of an open row writes its source, and ends the run where no writable window covers the row. -/
theorem execWr_of_open {k src row : Nat} {s : State} :
    let e := s.eng
    let t := max e.now (max (e.free (useSrc src)) (max (e.bank k).nextCol e.busFree))
    s.Issues t → (e.bank k).row = some row →
    (e.window k row true false = true → s.follows →
      execWr k src s = .next ((((s.landed t).engWrite s.cur.eng
          (rowCells (rowLoc s.cur.eng k row) ((s.landed t).eng.src src))).onEng fun e =>
        { (e.setBank k { e.bank k with nextPre := max (e.bank k).nextPre (t + 28) }) with busFree := t + 16 }).engAfter)) ∧
    (e.window k row true false = false → execWr k src s = .next ((s.landed t).engEnd s.cur.eng 4 row 0 k)) := by
  dsimp only
  intro hissue hopen
  unfold execWr
  rw [State.engIssue_of_issues hissue]
  dsimp only
  rw [State.landed_bank, hopen]
  dsimp only
  rw [State.landed_window]
  refine ⟨fun hwin hs => ?_, fun hwin => ?_⟩
  · rw [if_neg (by simp [hwin])]
    exact State.engNext_onEng (State.follows_engWrite _ (State.follows_landed _ hs)) fun _ => ⟨rfl, rfl⟩
  · rw [if_pos (by simp [hwin])]
    rfl

/-- Settles O49: each command is its arm at its issue, and the precharges and ROWEND are row boundaries. -/
theorem engineRowCommands : Obligations.EngineRowCommands := by
  unfold Obligations.EngineRowCommands
  refine ⟨fun k r i s => ?act, fun k s => ?ref, fun k row s => ?rd, fun k src row s => ?wr, fun s => ⟨fun k hk => ?_, ?_, fun hbounds hs => ?_⟩⟩
  case act =>
    intro e t row hissue _
    exact execAct_of_issues hissue
  case ref =>
    dsimp only
    intro hissue _ hclosed hs
    show execRef k s = _
    unfold execRef
    rw [State.engIssue_of_issues hissue]
    dsimp only
    rw [State.landed_bank, if_neg (by simp [hclosed])]
    exact State.engNext_onEng (State.follows_landed _ hs) fun _ => ⟨rfl, rfl⟩
  case rd =>
    intro e t loc hissue _ hopen hs
    exact execRd_of_open hissue hopen hs
  case wr =>
    intro e t hissue _ hopen
    exact execWr_of_open hissue hopen
  · exact State.engPre_of_bounds (if_pos hk)
  · exact State.engPre_of_bounds (k := 4) rfl
  · show execRowend s = _
    rw [execRowend, State.engAtBound_of_bounds hbounds]
    exact State.engNext_of_follows ((State.bankStep_bounded ..).follows hs)

end Sys2Proof.Machine
end

section
/-! SUPPORT. Requests that an engine posts (spec/09 R269, R275; spec/12 R320): what is posted, and the adds and writes it brings about, leave every
engine where it stands in its program and its rows in flight as they are. -/

namespace Sys2Proof.Machine

/-! ### Requests and flushes, in the program -/

theorem State.bankStep_arrive (s : State) (n : Nat) (r : Req) : s.BankStep (s.arrive n r) :=
  (s.bankStep_onEngine _ ⟨rfl, rfl⟩).trans (State.bankStep_drainPort ..)

theorem State.bankStep_post (s : State) (k : Nat) (r : Req) : s.BankStep (s.post k r) := by
  unfold State.post
  dsimp only
  split
  · exact s.bankStep_arrive ..
  · exact ((s.bankStep_arrive ..).trans (State.bankStep_serve ..)).trans (State.bankStep_serveIdle ..)

theorem State.bankStep_flushHeld (s : State) (n : Nat) : s.BankStep (s.flushHeld n).2 :=
  ((s.bankStep_onEngine n ⟨rfl, rfl⟩).trans (.foldl State.bankStep_applyAdd _ _)).trans (.of_engines rfl rfl rfl)

/-! ### Rows in flight -/

/-- The same rows are in flight at every engine. -/
structure State.SameLands (s t : State) : Prop where
  lands (n : Nat) : (t.engine n).lands = (s.engine n).lands

theorem State.SameLands.refl (s : State) : s.SameLands s := ⟨fun _ => rfl⟩

theorem State.SameLands.trans {s t u : State} (h : s.SameLands t) (h' : t.SameLands u) : s.SameLands u :=
  ⟨fun n => (h'.lands n).trans (h.lands n)⟩

theorem State.SameLands.of_engines {s t : State} (heng : t.engines = s.engines) : s.SameLands t :=
  ⟨fun n => congrArg (fun e => (Tab.get e n Engine.init).lands) heng⟩

theorem State.sameLands_onEngine (s : State) (n : Nat) {f : Engine → Engine} (hf : (f (s.engine n)).lands = (s.engine n).lands) :
    s.SameLands (s.onEngine n f) := by
  refine ⟨fun m => ?_⟩
  rw [State.onEngine_engine]
  split
  · next h => exact h ▸ hf
  · rfl

theorem State.SameLands.foldl {α : Type} {f : State → α → State} (hf : ∀ (s : State) (a : α), s.SameLands (f s a)) (l : List α) (s : State) :
    s.SameLands (l.foldl f s) :=
  List.foldlRecOn (motive := s.SameLands) l f (.refl s) fun t ht a _ => ht.trans (hf t a)

theorem State.SameLands.ite {s t u : State} {p : Prop} [Decidable p] (ht : s.SameLands t) (hu : s.SameLands u) :
    s.SameLands (if p then t else u) := by
  split
  · exact ht
  · exact hu

theorem Engine.winTouch_lands (e : Engine) (key : Nat) (w : Bool) : (e.winTouch key w).lands = e.lands := by
  unfold Engine.winTouch
  split <;> rfl

theorem State.sameLands_placeWrite (s : State) (agent : Nat) (how : How) (w : Wr) (cells : List Host.Cell) :
    s.SameLands (s.placeWrite agent how w cells) := by
  have hlate (g : Sight) (l : List Host.Cell) : s.SameLands (s.placeLate g w l) := .ite (.refl _) (.of_engines rfl)
  have hnewest (t : State) (l : List Host.Cell) : t.SameLands (t.placeNewest w l) := .of_engines rfl
  unfold State.placeWrite
  split
  · exact hnewest ..
  · exact .ite (hnewest ..) (.ite (hlate ..) ((hlate ..).trans (hnewest ..)))

theorem State.sameLands_ownWrites (s : State) (agent lo hi : Nat) : s.SameLands (s.ownWrites agent lo hi) := by
  unfold State.ownWrites
  dsimp only
  split
  · exact .ite (.of_engines rfl) (.refl _)
  · exact .ite (.refl _) (s.sameLands_onEngine _ rfl)

theorem State.sameLands_performBy (s : State) (agent : Nat) (how : How) (own : List Rel) (bar : Option (Nat × Bool)) (now : Bool)
    (cells : List Host.Cell) : s.SameLands (s.performBy agent how own bar now cells) := by
  have hsees (t : State) (keys : List Nat) (lo hi : Nat) : t.SameLands (t.engineSees keys lo hi) :=
    .foldl (fun u n => u.sameLands_onEngine n rfl) _ t
  have hwide (t : State) (rels : List Rel) : t.SameLands (t.deviceWide rels) := by
    unfold State.deviceWide
    split <;> exact .of_engines rfl
  exact ((((s.sameLands_placeWrite ..).trans (State.sameLands_ownWrites ..)).trans (hsees ..)).trans (hwide ..)).trans (.of_engines rfl)

theorem State.sameLands_performFor (s : State) (rels : List Rel) (cells : List Host.Cell) : s.SameLands (s.performFor rels cells) :=
  .ite (.of_engines rfl) (s.sameLands_performBy ..)

theorem State.sameLands_recEvent (s : State) (w0 w1 w2 w3 : Nat) : s.SameLands (s.recEvent w0 w1 w2 w3) := by
  have hwrite (t : State) (off : Nat) (bs : List Byte) : t.SameLands (t.recWrite off bs) := .ite (.refl _) (t.sameLands_performFor ..)
  have hnext (t : State) : t.SameLands t.recNext := (hwrite t ..).trans (.of_engines rfl)
  have hstop (t : State) (err : Nat) : t.SameLands (t.recStop err) := ((hwrite t ..).trans (hwrite ..)).trans (.of_engines rfl)
  exact .ite ((hwrite ..).trans (hnext _)) (.ite (.ite ((hnext s).trans (hstop ..)) (hnext s)) (.refl _))

theorem State.sameLands_applyAdd (s : State) (a : Add) : s.SameLands (s.applyAdd a) := by
  have hrec : s.SameLands (if a.det then s else s.recEvent (recAdd (engineOf a.key)) a.wid a.source a.seqNo) :=
    .ite (.refl _) (s.sameLands_recEvent ..)
  exact .ite hrec (.ite (hrec.trans (.of_engines rfl)) (hrec.trans (State.sameLands_performBy ..)))

theorem State.sameLands_takeAdds (s : State) (n : Nat) (p : Add → Bool) (m : Nat) : s.SameLands (s.takeAdds n p m) := by
  induction m generalizing s with
  | zero => exact .refl _
  | succ m ih =>
    unfold State.takeAdds
    split
    · exact .refl _
    · refine ((s.sameLands_onEngine n ?_).trans (State.sameLands_applyAdd ..)).trans (ih _)
      rw [Engine.winTouch_lands, Engine.winTouch_lands]

theorem State.sameLands_drainPort (s : State) (c fuel : Nat) : s.SameLands (s.drainPort c fuel) := by
  induction fuel generalizing s with
  | zero => exact .refl _
  | succ fuel ih =>
    unfold State.drainPort
    split
    · exact .refl _
    · exact .ite (((s.sameLands_onEngine c rfl).trans (State.sameLands_onEngine _ _ rfl)).trans (ih _)) (.refl _)

theorem State.sameLands_rowsMoved (s : State) : s.SameLands s.rowsMoved := by
  unfold State.rowsMoved
  dsimp only
  split
  · exact .ite (.of_engines rfl) (.ite (.of_engines rfl) (.of_engines rfl))
  · exact .of_engines rfl

theorem State.sameLands_doReq (s : State) (r : Req) : s.SameLands (s.doReq r) := by
  have hposted (bad : Bool) : s.SameLands (s.onEngine r.owner fun e => if e.running && e.inst == r.inst then
      { e with posted := e.posted - 1, semBad := if bad then some r.slot else e.semBad } else e) :=
    s.sameLands_onEngine _ (by split <;> rfl)
  exact .ite (.refl _) (.ite s.sameLands_rowsMoved (.ite
    (.ite (hposted _) ((hposted _).trans (State.sameLands_performBy ..)))
    (.ite (.ite (.of_engines rfl) (s.sameLands_performFor ..)) (s.sameLands_performBy ..))))

theorem State.sameLands_serveOne (s : State) (k : Nat) (r : Req) : s.SameLands (s.serveOne k r) := by
  refine (((s.sameLands_takeAdds k _ _).trans (State.sameLands_onEngine _ k ?_)).trans
    ((State.sameLands_onEngine _ k rfl).trans (State.sameLands_drainPort ..))).trans (State.sameLands_doReq ..)
  split
  · rw [Engine.winTouch_lands, Engine.winTouch_lands]
  · rw [Engine.winTouch_lands]

theorem State.sameLands_serve (s : State) (k n : Nat) : s.SameLands (s.serve k n) := by
  induction n generalizing s with
  | zero => exact .refl _
  | succ n ih =>
    unfold State.serve
    split
    · exact .refl _
    · exact .ite (.refl _) ((s.sameLands_serveOne ..).trans (ih _))

/-- What an engine posts leaves every engine's rows in flight as they are. -/
theorem State.sameLands_post (s : State) (k : Nat) (r : Req) : s.SameLands (s.post k r) := by
  have harrive : s.SameLands (s.arrive k r) := (s.sameLands_onEngine _ rfl).trans (State.sameLands_drainPort ..)
  have hidle (t : State) (c : Nat) : t.SameLands (t.serveIdle c) :=
    .foldl (fun u i => .ite (.refl _) (u.sameLands_serve ..)) _ t
  exact .ite harrive ((harrive.trans (State.sameLands_serve ..)).trans (hidle ..))

end Sys2Proof.Machine
end

section
/-! SUPPORT. Rows that an engine moves, its semaphores, its control flow and its end (spec/09 R269 to R280), and O51. -/

namespace Sys2Proof.Machine

/-! ### Changes one after another -/

theorem Tab.erase_insert {α : Type} (t : Tab α) (k : Nat) (x : α) : Tab.erase (Tab.insert t k x) k = Tab.erase t k := by
  induction t with
  | nil => simp [Tab.insert, Tab.erase]
  | cons p r ih =>
    unfold Tab.erase at ih ⊢
    unfold Tab.insert
    split
    · simp
    · simp only [List.filter_cons, ih]

theorem Tab.set_set {α : Type} (t : Tab α) (k : Nat) (x y : α) : Tab.set (Tab.set t k x) k y = Tab.set t k y := by
  unfold Tab.set
  rw [Tab.erase_insert]
  simp [Tab.erase]

/-- Two changes of the moving engine are one. -/
theorem State.onEng_onEng (s : State) (f g : Engine → Engine) : (s.onEng f).onEng g = s.onEng fun e => g (f e) := by
  have heng : ((s.onEng f).onEng g).engines = (s.onEng fun e => g (f e)).engines :=
    (congrArg (fun e => Tab.set (s.onEng f).engines s.cur.eng (g e)) (s.onEng_eng f)).trans (Tab.set_set ..)
  exact congrArg (fun l => { s with engines := l }) heng

theorem State.landed_onEng_id (s : State) (t : Nat) : ((s.landed t).onEng fun e => e) = s.landed t := by
  unfold State.landed
  exact s.onEng_onEng _ _

/-! ### Rows that land without an error -/

/-- Every row in flight at the moving engine is correct. -/
def State.Sound (s : State) : Prop := ∀ l ∈ s.eng.lands, l.ue = none

theorem State.Sound.badLanding {s : State} (h : s.Sound) (t : Nat) : s.eng.badLanding t = none := by
  rw [Engine.badLanding, Option.map_eq_none_iff, List.find?_eq_none]
  intro l hl
  simp [h l hl]

theorem State.Sound.landed {s : State} (h : s.Sound) (t : Nat) : (s.landed t).Sound := by
  intro l hl
  rw [State.landed_eng] at hl
  exact h l (List.mem_filter.1 hl).1

theorem State.Sound.onEng {s : State} {f : Engine → Engine} (h : s.Sound) (hf : (f s.eng).lands = s.eng.lands) : (s.onEng f).Sound := by
  intro l hl
  rw [State.onEng_eng, hf] at hl
  exact h l hl

theorem State.Sound.sameLands {s t : State} (h : s.Sound) (hst : s.SameLands t) (hcur : t.cur = s.cur) : t.Sound := by
  intro l hl
  rw [State.eng, hcur, hst.lands] at hl
  exact h l hl

/-! ### MCAST (spec/09 R269) -/

/-- A stalled MCAST waits at a row boundary while a row of it has yet to be written somewhere, and goes on then. -/
theorem State.castWait_of_stalled {s : State} {n : Nat} (hstall : s.eng.stalled = true) (hsound : s.Sound)
    (hs : s.follows) :
    s.engAtBound 0 false (fun u _ => if u.casting n then u.engStall else (u.onEng fun e => { e with stalled := false }).engNext) =
      .next (if (s.bounded 0).casting n then (s.bounded 0).onEng fun e => { e with stalled := true }
        else ((s.bounded 0).onEng fun e => { e with stalled := false }).engAfter) := by
  have hdue (t : Nat) : s.eng.overdue t = false := by simp [Engine.overdue, hstall]
  have hgo : ((s.bounded 0).onEng fun e => { e with stalled := false }).engNext = .next _ :=
    State.engNext_onEng ((s.bankStep_bounded 0).follows hs) fun _ => ⟨rfl, rfl⟩
  rw [State.engAtBound_of_bounds ⟨hdue _, hsound.badLanding _⟩, hgo, State.engStall, apply_ite Host.Outcome.next]

/-- Sending an MCAST's rows leaves its engine in its program, with its rows in flight, to stall. -/
theorem State.castWait_of_sent {u : State} {n : Nat} (groups : List Nat) (blocks : Nat → List (List Host.Cell)) (req : List Host.Cell → Req)
    (hsound : u.Sound) (hs : u.follows) :
    let v := (groups.foldl (fun s g => (blocks g).foldl (fun s b => s.post g (req b)) s) u).onEng fun e => { e with stalled := true }
    v.engAtBound 0 false (fun u _ => if u.casting n then u.engStall else (u.onEng fun e => { e with stalled := false }).engNext) =
      .next (if (v.bounded 0).casting n then (v.bounded 0).onEng fun e => { e with stalled := true }
        else ((v.bounded 0).onEng fun e => { e with stalled := false }).engAfter) := by
  have hsent : u.BankStep (groups.foldl (fun s g => (blocks g).foldl (fun s b => s.post g (req b)) s) u) :=
    .foldl (fun t g => .foldl (fun t b => t.bankStep_post g (req b)) (blocks g) t) groups u
  have hlands : u.SameLands (groups.foldl (fun s g => (blocks g).foldl (fun s b => s.post g (req b)) s) u) :=
    .foldl (fun t g => .foldl (fun t b => t.sameLands_post g (req b)) (blocks g) t) groups u
  exact State.castWait_of_stalled (by rw [State.onEng_eng]) ((hsound.sameLands hlands hsent.2.1).onEng rfl)
    (State.follows_onEng (hsent.follows hs) ⟨rfl, rfl⟩)

/-- MCAST while it stalls, and at its issue: the row on its own engine, its bank busy, the rows for the group sent, and the first wait. -/
theorem execMcast_spec (k src r : Nat) (s : State) :
    let e := s.eng
    let n := s.cur.eng
    let row := (e.ereg r).toNat
    let t := max e.now (max (e.bank k).nextAct (e.free (useSrc src + useE r)))
    s.Sound → s.follows →
    (e.stalled = true → execMcast k src r s = .next (if (s.bounded 0).casting n then (s.bounded 0).onEng fun e => { e with stalled := true }
      else ((s.bounded 0).onEng fun e => { e with stalled := false }).engAfter)) ∧
    (e.stalled = false → e.overdue t = false → row < 2 ^ 16 → e.window k row true true = true → (e.bank k).row = none →
      let l := (s.landed t).eng.src src
      let u := ((s.landed t).engWrite n (rowCells (rowLoc n k row) l)).onEng fun e =>
        e.setBank k { e.bank k with nextAct := t + 62 }
      let v := (((viaGroup n).filter (· != n)).foldl (fun s g => (cellBlocks 256 (rowCells (rowLoc g k row) l)).foldl (fun s b =>
        s.post g { cells := b, owner := n, inst := e.inst }) s) u).onEng fun e => { e with stalled := true }
      execMcast k src r s = .next (if (v.bounded 0).casting n then (v.bounded 0).onEng fun e => { e with stalled := true }
        else ((v.bounded 0).onEng fun e => { e with stalled := false }).engAfter)) := by
  dsimp only
  refine fun hsound hs => ⟨fun hstall => ?_, fun hstall hdue hrow hwin hclosed => ?_⟩ <;> unfold execMcast
  · rw [if_pos hstall]
    exact State.castWait_of_stalled hstall hsound hs
  rw [if_neg (ne_true_of_eq_false hstall), State.engIssue_of_issues ⟨hdue, hsound.badLanding _⟩]
  dsimp only
  rw [State.landed_bank, State.landed_ereg, State.landed_window, State.landed_inst, if_neg (by simp [field_high_of_lt hrow, hwin]),
    if_neg (by simp [hclosed])]
  exact State.castWait_of_sent _ (fun g => cellBlocks 256 (rowCells (rowLoc g k (s.eng.ereg r).toNat) ((s.landed _).eng.src src)))
    (fun b => { cells := b, owner := s.cur.eng, inst := s.eng.inst }) (((hsound.landed _).onEng rfl).onEng rfl)
    (State.follows_onEng (State.follows_engWrite _ (State.follows_landed _ hs)) ⟨rfl, rfl⟩)

/-! ### BGCOPY (spec/09 R270) -/

/-- BGCOPY ends a run at user level, and at supervisor level copies a correct row between precharged banks. -/
theorem execBgcopy_spec (sb re db rd : Nat) (s : State) :
    let e := s.eng
    let a := (e.ereg re).toNat
    let b := (e.ereg rd).toNat
    let t := max e.now (max (e.free (useE re ||| useE rd)) (max (e.bank sb).nextAct (e.bank db).nextAct))
    (e.sup = false → s.Issues e.now →
      execBgcopy sb re db rd s = .next ((s.landed e.now).engEnd s.cur.eng 3 0 0 0)) ∧
    (e.sup = true → s.Issues t → (e.bank sb).row = none → (e.bank db).row = none →
      a < 2 ^ 16 → b < 2 ^ 16 → e.window sb a false false = true → e.window db b true false = true →
      s.rowUe s.cur.eng (rowLoc s.cur.eng sb a) = none → s.follows →
      let busy := fun (k : Nat) (e : Engine) =>
        e.setBank k { e.bank k with nextAct := t + 146, nextRef := max (e.bank k).nextRef (t + 146) }
      execBgcopy sb re db rd s = .next ((((s.landed t).engWrite s.cur.eng
        (cellsAt (rowLoc s.cur.eng db b) ((s.landed t).engBytes s.cur.eng (rowLoc s.cur.eng sb a)))).onEng fun e => busy db (busy sb e)).engAfter)) := by
  dsimp only
  refine ⟨fun hsup hissue => ?_, fun hsup hissue hsrc hdst ha hb hread hwrite hsound hs => ?_⟩ <;> unfold execBgcopy
  · rw [if_pos (by simp [hsup]), State.engIssue_now hissue]
    rfl
  rw [if_neg (by simp [hsup]), State.engIssue_of_issues hissue]
  dsimp only
  rw [State.landed_bank, State.landed_bank, State.landed_ereg, State.landed_ereg, State.landed_window, State.landed_window,
    if_neg (by simp [hsrc]), if_neg (by simp [hdst]), if_neg (by simp [field_high_of_lt ha, hread]),
    if_neg (by simp [field_high_of_lt hb, hwrite]), State.landed_cur, State.landed_rowUe, hsound]
  exact State.engNext_onEng (State.follows_engWrite _ (State.follows_landed _ hs)) fun _ => ⟨rfl, rfl⟩

/-! ### Adds and semaphores (spec/09 R273 to R276) -/

/-- NADDX applies what is queued and what is due at a row boundary, and counts it. -/
theorem execNaddx_of_bounds {d : Nat} {s : State} :
    let ready := s.eng.free (useE d)
    let n := s.eng.adds.length
    let u := ((s.bounded ready).drainAdds s.cur.eng n).flushHeld s.cur.eng
    s.Bounds ready → s.follows →
    execNaddx d s = .next (u.2.onEng fun e => e.setE d (word (n - u.2.eng.adds.length + u.1))).engAfter := by
  dsimp only
  intro hbounds hs
  have hbound := s.bankStep_bounded (s.eng.free (useE d))
  have hdrain := hbound.trans (State.bankStep_takeAdds _ s.cur.eng (fun _ => true) s.eng.adds.length)
  unfold execNaddx
  dsimp only
  rw [State.engAtBound_of_bounds hbounds, hbound.2.1]
  exact State.engNext_onEng ((hdrain.trans (State.bankStep_flushHeld _ s.cur.eng)).follows hs) fun _ => ⟨rfl, rfl⟩

/-- SIG performs the engine's writes, and posts its add or makes it where it goes to no bank group. -/
theorem execSig_of_issues {l c v key : Nat} {s : State} :
    let t := max s.eng.now (s.eng.free (useE v))
    let u := ((s.landed t).flushWr s.cur.eng).onEng fun e => { e with posted := e.posted + 1 }
    let r : Req := { isAdd := true, key := key, value := (u.eng.ereg v).toNat, owner := s.cur.eng, inst := u.eng.inst, slot := l,
                     rels := [{ by_ := engineAgent s.cur.eng, scope := c, view := u.eng.view }] }
    s.Issues t → vget s.eng.sems l none = some key → s.follows →
    execSig l c v s = .next (if isHbm key then u.post (engineOf key) r else u.doReq r).engAfter := by
  dsimp only
  intro hissue hsem hs
  unfold execSig
  rw [State.engIssue_of_issues hissue]
  dsimp only
  rw [State.landed_sems, hsem]
  dsimp only
  have hflush := (s.landed (max s.eng.now (s.eng.free (useE v)))).bankStep_flushWr s.cur.eng
  rw [State.landed_cur, State.onEng_cur, hflush.2.1, State.landed_cur]
  have hposted := State.follows_onEng (f := fun e => { e with posted := e.posted + 1 }) (hflush.follows (State.follows_landed _ hs)) ⟨rfl, rfl⟩
  refine State.engNext_of_follows ?_
  split
  · exact (State.bankStep_post ..).follows hposted
  · exact (State.bankStep_doReq ..).follows hposted

/-! ### Control flow (spec/09 R277, R278) -/

/-- BNZ redirects on the value of its register, counted down where it says so. -/
theorem execBnz_of_issues {r t : Nat} {d : Bool} {s : State} (hr : r < 8) :
    let now := max s.eng.now (s.eng.free (useE r))
    let v := if d then s.eng.ereg r - 1 else s.eng.ereg r
    let u := (s.landed now).onEng fun e => if d then e.setE r v else e
    s.Issues now →
      (v ≠ 0 → execBnz r d t s = .next (u.onEng fun e => { e with mpc := t, loops := leaveLoops (word t) e.loops })) ∧
      (v = 0 → s.follows → execBnz r d t s = .next u.engAfter) := by
  dsimp only
  intro hissue
  unfold execBnz
  rw [State.engIssue_of_issues hissue]
  dsimp only
  generalize max s.eng.now (s.eng.free (useE r)) = now
  have hcount : (if d then (s.landed now).onEng fun e => e.setE r (e.ereg r - 1) else s.landed now) =
      (s.landed now).onEng fun e => if d then e.setE r (if d then s.eng.ereg r - 1 else s.eng.ereg r) else e := by
    cases d
    · exact (s.landed_onEng_id now).symm
    · refine State.onEng_congr ?_
      simp only [if_true, State.landed_ereg]
  have hread : ((s.landed now).onEng fun e => if d then e.setE r (if d then s.eng.ereg r - 1 else s.eng.ereg r) else e).eng.ereg r =
      if d then s.eng.ereg r - 1 else s.eng.ereg r := by
    rw [State.onEng_eng]
    cases d
    · exact State.landed_ereg ..
    · exact (vget_vset _ _ _ _ _ hr).trans (if_pos rfl)
  rw [hcount, hread]
  refine ⟨fun hv => if_pos (by simpa using hv), fun hv hs => ?_⟩
  rw [if_neg (by simpa using hv)]
  refine State.engNext_onEng (State.follows_landed _ hs) fun e => ?_
  split <;> exact ⟨rfl, rfl⟩

/-- LOOP with a count, at its issue, enters the loop's body or goes past it, where no other loop ends within it or has its number. -/
theorem State.engLoop_landed {s : State} {n count l t : Nat} (hloops : ∀ x ∈ s.eng.loops,
      x.n ≠ n ∧ s.eng.mpc + 2 + l ≤ x.stop.toNat ∧ x.start.toNat ≤ s.eng.mpc + 1)
    (hstop : s.eng.mpc + 2 + l ≤ 4095) (hcount : count < 2 ^ 32) :
    (s.landed t).engLoop n count (l + 1) = .next ((s.landed t).onEng fun e => if count = 0 then { e with mpc := s.eng.mpc + 2 + l } else
      { e with mpc := e.mpc + 1, loops := { n := n, count := count, start := word (e.mpc + 1), stop := word (s.eng.mpc + 2 + l) } :: e.loops }) := by
  have hlen : s.eng.mpc + 1 + (l + 1) = s.eng.mpc + 2 + l := by omega
  unfold State.engLoop
  dsimp only
  rw [State.landed_mpc, State.landed_loops, hlen]
  obtain rfl | hpos := Nat.eq_zero_or_pos count
  · rw [if_pos (beq_self_eq_true 0), if_neg (by omega)]
    rfl
  · have hn : (s.eng.loops.any fun x => x.n == n) = false := by simpa using fun x hx => (hloops x hx).1
    have hinside : (s.eng.loops.any fun x => decide (x.stop.toNat < s.eng.mpc + 2 + l) || decide (s.eng.mpc + 1 < x.start.toNat)) = false := by
      simpa using fun x hx => (hloops x hx).2
    have hfar : ¬4096 < s.eng.mpc + 2 + l := by omega
    rw [if_neg (by simpa using Nat.ne_of_gt hpos), hn, hinside, if_neg (by simpa [hfar] using hcount)]
    simp only [Nat.ne_of_gt hpos, if_false]

/-! ### The end of a run (spec/09 R279) -/

/-- HALT at its row boundary: a failed add, adds that are outstanding, and the two ways to end. -/
theorem execHalt_of_bounds {c : Nat} {s : State} :
    let ready := s.eng.banks.toList.foldl (fun a b => if b.row.isSome then max a b.nextPre else a) 0
    let u := s.bounded ready
    s.Bounds ready →
      (∀ l, u.eng.semBad = some l → execHalt c s = .next (u.engEnd s.cur.eng 6 0xFFFF 0xFE l)) ∧
      (u.eng.semBad = none → u.eng.posted ≠ 0 → execHalt c s = .next (u.onEng fun e => { e with stalled := true })) ∧
      (u.eng.semBad = none → u.eng.posted = 0 → execHalt c s = .next (if c = 0 then u.engEnd s.cur.eng 0 0 0 0 else u.engEnd s.cur.eng 1 0 c 0)) := by
  dsimp only
  intro hbounds
  unfold execHalt
  dsimp only
  rw [State.engAtBound_of_bounds hbounds]
  have hcur (ready : Nat) : (s.bounded ready).cur = s.cur := (s.bankStep_bounded ready).2.1
  refine ⟨fun l hbad => ?_, fun hbad hposted => ?_, fun hbad hposted => ?_⟩ <;> rw [hbad]
  · dsimp only
    rw [State.engStop, hcur]
  · exact if_pos (by simpa using hposted)
  · rw [if_neg (by simpa using hposted), State.engStop, State.engStop, hcur]
    simp only [beq_iff_eq, apply_ite Host.Outcome.next]

/-- Settles O51: each word is its arm at its issue or its row boundary; requests that are posted keep the engine in its program. -/
theorem engineRowsAndControl : Obligations.EngineRowsAndControl := by
  unfold Obligations.EngineRowsAndControl
  refine ⟨fun k src r s => ?mcast, fun sb re db rd s => ?bgcopy, fun d s => execNaddx_of_bounds, fun l c v key s => execSig_of_issues,
    fun l c v key s => State.waitsRead_of_bounds, fun t r d s => ?jump, fun n c r l s => ?loop, fun c s => ⟨?halt, fun hissue => ?unassigned⟩⟩
  case mcast =>
    intro e n row t hsound _ hs
    exact execMcast_spec k src r s hsound hs
  case bgcopy =>
    intro e a b t
    obtain ⟨huser, hcopy⟩ := execBgcopy_spec sb re db rd s
    exact ⟨huser, fun hsup hissue _ _ => hcopy hsup hissue⟩
  case jump =>
    intro now v u
    refine ⟨fun hissue => ?_, fun hissue hr => execBnz_of_issues hr hissue⟩
    show execIdmasJmp t s = _
    rw [execIdmasJmp, State.engIssue_now hissue]
    rfl
  case loop =>
    intro stop hloops hstop goes
    refine ⟨fun hissue hc => ?_, fun hissue hc => ?_⟩
    · show execIdmasLoop n c l s = _
      rw [execIdmasLoop, State.engIssue_now hissue]
      exact State.engLoop_landed hloops hstop hc
    · show execIdmasLoopReg n r l s = _
      rw [execIdmasLoopReg, State.engIssue_of_issues hissue, State.landed_ereg]
      exact State.engLoop_landed hloops hstop hc
  case halt => exact execHalt_of_bounds
  case unassigned =>
    show execUnassignedEngineWord s = _
    rw [execUnassignedEngineWord, State.engIssue_now hissue]
    rfl

end Sys2Proof.Machine
end
